-- ==== Sys2Proof/Word.lean ====
section
/-!
DEFINITION. Sys2Proof/Word.lean: the word types of the model and its sorted tables.
A table is plain data: a list of (key, value) pairs whose keys rise strictly. What an unlisted key
reads as is said by the caller, so that a table of defaults is the empty list.
-/

namespace Sys2Proof

/-- One byte. -/
abbrev Byte := BitVec 8
/-- A scalar register, an instruction word, a 64-bit word of a record (R183, R227). -/
abbrev W64 := BitVec 64
/-- One lane of a vector register, one accumulator (R142, R82). -/
abbrev W32 := BitVec 32
/-- A context address or device address (R183, R268). -/
abbrev Addr := BitVec 48

/-- A packet's place on its link (R517, R520, R523, R527): the port it came in on, its link sequence, whether it is on VC1, its ORD bit, its TSEQ. -/
structure LinkHdr where
  port : Nat := 0
  lseq : Nat := 0
  vc1  : Bool := false
  ord  : Bool := false
  tseq : Nat := 0
  deriving DecidableEq, Repr

/-- What a write to the keeping store carries (R587): the write count and a MAC. -/
structure KsMsg where
  count : Nat := 0
  mac   : List (BitVec 8) := []
  deriving DecidableEq, Repr

namespace Tbl

variable {α : Type}

/-- The value listed at a key, if any. -/
def find? : List (Nat × α) → Nat → Option α
  | [], _ => none
  | (j, v) :: t, k => if j = k then some v else find? t k

/-- The value at a key; an unlisted key reads as `d`. -/
def get (d : α) (m : List (Nat × α)) (k : Nat) : α := (find? m k).getD d

/-- Lists a value at a key, keeping the keys in strictly rising order. -/
def put : List (Nat × α) → Nat → α → List (Nat × α)
  | [], k, v => [(k, v)]
  | (j, w) :: t, k, v =>
    if k < j then (k, v) :: (j, w) :: t
    else if k = j then (k, v) :: t
    else (j, w) :: put t k v

/-- Takes a key out. -/
def del : List (Nat × α) → Nat → List (Nat × α)
  | [], _ => []
  | (j, w) :: t, k => if j = k then del t k else (j, w) :: del t k

/-- Writes a value at a key; writing what an unlisted key reads as takes the entry out, so that
equal tables are equal lists. -/
def set [DecidableEq α] (d : α) (m : List (Nat × α)) (k : Nat) (v : α) : List (Nat × α) :=
  if v = d then del m k else put m k v

/-- Applies a function to the value at a key. -/
def upd (d : α) (m : List (Nat × α)) (k : Nat) (f : α → α) : List (Nat × α) := put m k (f (get d m k))

/-- Keys rise strictly. -/
def sorted : List (Nat × α) → Bool
  | [] => true
  | [_] => true
  | (j, _) :: (k, w) :: t => decide (j < k) && sorted ((k, w) :: t)

end Tbl

namespace NSet

/-- Puts a number into a strictly rising list. -/
def ins : List Nat → Nat → List Nat
  | [], k => [k]
  | j :: t, k => if k < j then k :: j :: t else if k = j then j :: t else j :: ins t k

/-- Takes a number out. -/
def del (l : List Nat) (k : Nat) : List Nat := l.filter (fun j => j != k)

end NSet

end Sys2Proof
end

