-- ==== Sys2Proof/Syntax.lean ====
section
/-!
DEFINITION. Sys2Proof/Syntax.lean: the commands of the device, one constructor per row of spec/opcode_table.json.
The operands are the model's (the table gives none): h is a hart (0 to 255 the context running on that unit, 256 + 8 × stack + i
instance i of a stack program), u a unit (LUN), c a context, q a mover queue, n an array, s a stack, r a region, k a place in a list,
g a group, seq a collective's SEQ, p a port, l the place of a packet on its link, ch a drove channel, cl a cluster, d a die, t the fabric time at which the event happens, v a value written.
-/

namespace Sys2Proof

/-- A command to the device: an instruction of a unit, an operation of an engine, a host access, a packet or a pin event. -/
inductive Instr where
  /-- INSTRUCTION_FETCH (R185): The sequencer fetches the instruction at PC through the extent table, needing X permission. -/
  | instructionFetch (h : Nat)
  /-- ICACHE_FILL (R186): An instruction-cache miss fills its 256-byte line from memory within 600 vc. -/
  | icacheFill (h : Nat)
  /-- ENGINE_DISPATCH (R190): An engine instruction is dispatched into its queue with its scalar operands captured, or stalls the sequencer while the queue is full. -/
  | engineDispatch (h : Nat)
  /-- ADD (R236): Scalar add, sub, and, or, xor or andn on 64-bit values modulo 2^64. -/
  | add (h : Nat)
  /-- SHIFT (R236): Scalar shl, shr or sra by the low 6 bits of gb. -/
  | shift (h : Nat)
  /-- MUL (R236): Scalar mul, mulh or mulhu giving the low or high 64 bits of the product. -/
  | mul (h : Nat)
  /-- DIV (R237): Scalar div, divu, rem or remu with defined results for division by zero and overflow. -/
  | div (h : Nat)
  /-- MIN (R236): Scalar signed or unsigned minimum and maximum. -/
  | min (h : Nat)
  /-- SLT (R236): Scalar set-less-than, signed or unsigned. -/
  | slt (h : Nat)
  /-- SEL (R236): Scalar select of ga or gb by predicate PS. -/
  | sel (h : Nat)
  /-- CLZ (R236): Scalar count of leading zeros, trailing zeros or set bits. -/
  | clz (h : Nat)
  /-- P_CMP (R236): Compare two registers into a predicate. -/
  | pCmp (h : Nat)
  /-- P_AND (R236): Predicate logic and, or, xor or andn. -/
  | pAnd (h : Nat)
  /-- P_GET (R236): Copy the predicates p7 to p0 into a register. -/
  | pGet (h : Nat)
  /-- P_PUT (R236): Set predicates p1 to p7 from a register. -/
  | pPut (h : Nat)
  /-- ADDI (R238): Scalar addi, andi, ori or xori with an immediate. -/
  | addi (h : Nat)
  /-- SHLI (R238): Scalar shift by an immediate. -/
  | shli (h : Nat)
  /-- MULI (R238): Low 64 bits of ga times a sign-extended immediate. -/
  | muli (h : Nat)
  /-- SLTI (R238): Set-less-than against an immediate. -/
  | slti (h : Nat)
  /-- P_CMPI (R238): Compare a register with an immediate into a predicate. -/
  | pCmpi (h : Nat)
  /-- LI (R238): Load a sign-extended immediate into a register. -/
  | li (h : Nat)
  /-- LI_HI (R238): Place an immediate in the high word of a register, keeping its low word. -/
  | liHi (h : Nat)
  /-- BR (R239): Relative branch to PC plus DISP times 8. -/
  | br (h : Nat)
  /-- BR_CALL (R239): Relative branch that writes the return address to a link register. -/
  | brCall (h : Nat)
  /-- BR_IND (R241): Indirect branch to a register target, faulting on a misaligned target. -/
  | brInd (h : Nat)
  /-- BR_CALL_IND (R239): Indirect call writing the link register. -/
  | brCallInd (h : Nat)
  /-- BR_DEC (R239): Decrement a counter register and branch while it is not zero. -/
  | brDec (h : Nat)
  /-- LD (R242): Scalar load of 1, 2, 4 or 8 bytes from the unit-store share. -/
  | ld (h : Nat)
  /-- ST (R242): Scalar store of 1, 2, 4 or 8 bytes to the unit-store share. -/
  | st (h : Nat)
  /-- MM_CLR (R122): The array accepts mm.clr, opens a free bank cleared to +0 and accumulates A × B. -/
  | mmClr (h : Nat) (n : Nat)
  /-- MM_ACC (R126): The array accepts mm.acc and accumulates into the open bank. -/
  | mmAcc (h : Nat) (n : Nat)
  /-- MM_DRAIN_TILE (R128): The array accepts mm.drain to a tile register and marks it busy. -/
  | mmDrainTile (h : Nat) (n : Nat)
  /-- MM_DRAIN_US (R129): The array accepts mm.drain to a unit-store destination after checking stride, alignment and extent. -/
  | mmDrainUs (h : Nat) (n : Nat)
  /-- FEEDER_FETCH (R120): A feeder fetches operand data ahead of k-step issue up to its buffer capacity. -/
  | feederFetch (h : Nat) (n : Nat)
  /-- K_STEP (R104): A k-step enters the broadcast trees and each cell adds its product into its accumulator. -/
  | kStep (h : Nat) (n : Nat)
  /-- DRAIN_START (R122): A drain starts once the bank's last update is visible. -/
  | drainStart (h : Nat) (n : Nat)
  /-- DRAIN_COMPLETE (R122): The last row of a drain is written, the bank becomes Free and AFLAGn is set. -/
  | drainComplete (h : Nat) (n : Nat)
  /-- VX_ARITH (R249): Vector add, subtract or multiply rounded by RM. -/
  | vxArith (h : Nat)
  /-- VX_FMA (R249): Vector fused multiply-add with one rounding. -/
  | vxFma (h : Nat)
  /-- VX_MIN (R83): Vector floating-point minimum or maximum. -/
  | vxMin (h : Nat)
  /-- VX_ABS (R249): Vector absolute value or negation by the sign bit. -/
  | vxAbs (h : Nat)
  /-- VX_DIV (R249): Vector exactly rounded division. -/
  | vxDiv (h : Nat)
  /-- VX_SQRT (R249): Vector exactly rounded square root. -/
  | vxSqrt (h : Nat)
  /-- VX_TRANSCENDENTAL (R85): Vector exp2, log2, rcp, rsqrt, sin, cos or tanh, correctly rounded. -/
  | vxTranscendental (h : Nat)
  /-- VX_CVT (R252): Vector conversion between FP32 and another format, including MX blocks and sheaf. -/
  | vxCvt (h : Nat)
  /-- VX_ADD_I (R249): Vector integer add or subtract, wrapping or saturating. -/
  | vxAddI (h : Nat)
  /-- VX_MUL_I (R249): Vector integer multiply. -/
  | vxMulI (h : Nat)
  /-- VX_MIN_I (R249): Vector integer minimum or maximum, signed by SX. -/
  | vxMinI (h : Nat)
  /-- VX_LOGIC (R249): Vector bitwise and, or, xor or andn. -/
  | vxLogic (h : Nat)
  /-- VX_SHIFT (R249): Vector shift of each element by vb. -/
  | vxShift (h : Nat)
  /-- VX_SEL (R249): Vector select of va or vb by a mask. -/
  | vxSel (h : Nat)
  /-- VX_CMP (R251): Vector comparison into a mask register. -/
  | vxCmp (h : Nat)
  /-- VX_KAND (R249): Mask logic and, or or xor. -/
  | vxKand (h : Nat)
  /-- VX_KNOT (R249): Mask inversion. -/
  | vxKnot (h : Nat)
  /-- VX_KMOV (R168): Set a mask from two scalar registers. -/
  | vxKmov (h : Nat)
  /-- VX_KSET (R168): Set the low min(gs,128) mask bits. -/
  | vxKset (h : Nat)
  /-- VX_POPC (R168): Write the number of set mask bits to a scalar register. -/
  | vxPopc (h : Nat)
  /-- VX_KGET (R249): Copy one half of a mask to a scalar register. -/
  | vxKget (h : Nat)
  /-- VX_BCAST (R249): Broadcast a scalar into every element. -/
  | vxBcast (h : Nat)
  /-- VX_LANE (R249): Extract one lane into a scalar register. -/
  | vxLane (h : Nat)
  /-- VX_IOTA (R249): Write each lane's index. -/
  | vxIota (h : Nat)
  /-- VX_LF_MASK (R178): Form a mask from lanes whose lane flag word has selected bits. -/
  | vxLfMask (h : Nat)
  /-- VX_LF_CLR (R178): Clear the lane flag words of active lanes. -/
  | vxLfClr (h : Nat)
  /-- VX_CUR_SET (R167): Load a stream cursor from a scalar register. -/
  | vxCurSet (h : Nat)
  /-- VX_CUR_GET (R167): Return a stream cursor to a scalar register. -/
  | vxCurGet (h : Nat)
  /-- VX_LD_OC (R250): Load 512 contiguous bytes from the operand cache. -/
  | vxLdOc (h : Nat)
  /-- VX_ST_OC (R250): Store active lanes to the operand cache. -/
  | vxStOc (h : Nat)
  /-- VX_GATHER (R160): Gather words from the operand cache by per-lane index. -/
  | vxGather (h : Nat)
  /-- VX_SCATTER (R161): Scatter words to the operand cache by per-lane index. -/
  | vxScatter (h : Nat)
  /-- VX_LD_US (R164): Load 512 bytes from the unit-store share into a vector register. -/
  | vxLdUs (h : Nat)
  /-- VX_ST_US (R164): Store active lanes of a vector register to the unit-store share. -/
  | vxStUs (h : Nat)
  /-- VT_LD (R147): Copy a row pair of a tile register into a vector register. -/
  | vtLd (h : Nat)
  /-- VT_ST (R147): Copy active lanes into a row pair of a tile register. -/
  | vtSt (h : Nat)
  /-- VT_ZERO (R152): Write +0 to a whole tile register and clear its poison. -/
  | vtZero (h : Nat)
  /-- SWEEP_FORM (R148): An element-wise instruction runs over row pairs 0 to 31 of tile registers. -/
  | sweepForm (h : Nat) (pairs : Nat)
  /-- VX_SCAN (R172): Forward or reverse, segmented, inclusive or exclusive scan with optional carry. -/
  | vxScan (h : Nat)
  /-- VX_PERM (R176): Permute lanes of one register by index. -/
  | vxPerm (h : Nat)
  /-- VX_PERM2 (R176): Permute lanes drawn from two registers by index. -/
  | vxPerm2 (h : Nat)
  /-- VX_SHUF_XOR (R176): Shuffle lanes by XOR with an immediate. -/
  | vxShufXor (h : Nat)
  /-- VX_SHUF_ROT (R176): Rotate lanes by an immediate. -/
  | vxShufRot (h : Nat)
  /-- VX_PACK_H (R176): Pack 16-bit fields of two registers. -/
  | vxPackH (h : Nat)
  /-- VX_PACK_B (R176): Pack 8-bit fields of two registers. -/
  | vxPackB (h : Nat)
  /-- VX_UNPACK_H (R176): Unpack 16-bit elements to lanes with zero or sign extension. -/
  | vxUnpackH (h : Nat)
  /-- VX_UNPACK_B_Q (R176): Unpack a quarter of 8-bit elements to lanes. -/
  | vxUnpackBQ (h : Nat)
  /-- VX_COMPRESS (R165): Pack active lanes to the front of a register. -/
  | vxCompress (h : Nat)
  /-- VX_EXPAND (R165): Place consecutive values into active lanes. -/
  | vxExpand (h : Nat)
  /-- VX_COMPRESS_ST (R166): Store active lanes consecutively at a cursor and advance it. -/
  | vxCompressSt (h : Nat)
  /-- VX_EXPAND_LD (R166): Load consecutive words at a cursor into active lanes and advance it. -/
  | vxExpandLd (h : Nat)
  /-- VT_RED (R151): Row or column reduction of a tile register in the fixed tree order. -/
  | vtRed (h : Nat)
  /-- CX_XLN (R170): Switch the cross-lane network mode, reconfiguring it in 64 vc after VQ drains. -/
  | cxXln (h : Nat) (eng : Bool)
  /-- SY_WAIT (R194): Stall the sequencer until earlier entries of the named queues complete. -/
  | syWait (h : Nat)
  /-- SY_MARK (R193): Place a dependence mark in a queue. -/
  | syMark (h : Nat)
  /-- MARK_RELEASE (R196): A dependence mark releases 2 vc after the last completion it awaits. -/
  | markRelease (h : Nat) (q : Nat)
  /-- WAIT_RESUME (R196): A sy.wait resumes issue 2 vc after the last completion it awaits. -/
  | waitResume (h : Nat)
  /-- SY_SLEEP (R399): Sleep on a condition word, ending at once when it is already met. -/
  | sySleep (h : Nat)
  /-- SY_SIG (R405): Send a write, OR or add to a signal word of a context on a unit. -/
  | sySig (h : Nat)
  /-- SIGNAL_DELIVER (R407): The target unit applies a signal to its word, or discards it and raises signal-lost. -/
  | signalDeliver (k : Nat)
  /-- SY_SIGRD (R408): Read and clear a signal word indivisibly. -/
  | sySigrd (h : Nat)
  /-- SY_BAR (R411): Arrive at a cluster, region or package barrier, optionally waiting. -/
  | syBar (h : Nat)
  /-- BARRIER_COMPLETE (R414): A barrier completes when every participant has arrived. -/
  | barrierComplete (c : Nat) (level : Nat) (u : Nat)
  /-- BARRIER_FAIL (R416): A barrier fails because a participant's cluster faulted. -/
  | barrierFail (c : Nat) (level : Nat) (u : Nat)
  /-- SY_CTR (R419): Read a collective completion counter. -/
  | syCtr (h : Nat)
  /-- WAKE_LINE_FIRE (R397): A context's wake line fires and the waiting sequencer re-evaluates its condition. -/
  | wakeLineFire (u : Nat) (c : Nat)
  /-- SLEEP_TIMEOUT (R403): A sy.sleep timeout expires in fabric time. -/
  | sleepTimeout (u : Nat) (c : Nat) (t : W64)
  /-- CX_SHAPE (R225): Read a shape-table entry. -/
  | cxShape (h : Nat)
  /-- CX_FLAGS (R265): Read the sticky flag word. -/
  | cxFlags (h : Nat)
  /-- CX_FLAGS_CLR (R265): Clear selected sticky flag bits. -/
  | cxFlagsClr (h : Nat)
  /-- CX_AFLAG (R264): Read an array flag word. -/
  | cxAflag (h : Nat)
  /-- CX_TIME (R266): Read fabric time. -/
  | cxTime (h : Nat)
  /-- CX_EVENT (R264): Raise a program event with a code and payload. -/
  | cxEvent (h : Nat)
  /-- CX_YIELD (R264): Leave Running when another resident is Ready. -/
  | cxYield (h : Nat)
  /-- CX_HALT (R267): Wait for the context's queue entries, then halt until a host resume. -/
  | cxHalt (h : Nat)
  /-- MV_GET (R368): Copy bytes from a context address into the unit-store share. -/
  | mvGet (h : Nat) (q : Nat)
  /-- MV_PUT (R368): Copy bytes from the unit-store share to a context address. -/
  | mvPut (h : Nat) (q : Nat)
  /-- MV_COPY (R368): Copy bytes between memories without the unit store. -/
  | mvCopy (h : Nat) (q : Nat)
  /-- MV_DESC_BLOCK (R371): Copy rows by a BLOCK descriptor. -/
  | mvDescBlock (h : Nat) (q : Nat)
  /-- MV_DESC_LIST (R372): Carry out a LIST of copies. -/
  | mvDescList (h : Nat) (q : Nat)
  /-- LIST_ENTRY_READ (R372): The mover reads and checks one LIST entry as the entry proceeds. -/
  | listEntryRead (h : Nat) (q : Nat)
  /-- MV_DESC_REMOTE (R373): Write local rows into a peer's memory over Rhoef. -/
  | mvDescRemote (h : Nat) (q : Nat)
  /-- MV_DESC_STREAM (R377): Start a weight stream filling a ring of slots by credit. -/
  | mvDescStream (h : Nat) (q : Nat)
  /-- MV_ATOM (R288): Atomic operation in the home shared cache returning the old value. -/
  | mvAtom (h : Nat) (q : Nat)
  /-- MV_RED (R288): In-memory reduction of a vector into a target. -/
  | mvRed (h : Nat) (q : Nat)
  /-- MV_FLAG (R375): Write a 64-bit flag to a peer device. -/
  | mvFlag (h : Nat) (q : Nat)
  /-- MV_LIM (R364): Set a queue's outstanding-transfer limit. -/
  | mvLim (h : Nat) (q : Nat)
  /-- MV_CANCEL (R386): Cancel fence over the queue's earlier uncompleted entries. -/
  | mvCancel (h : Nat) (q : Nat)
  /-- CANCEL_COMPLETE (R390): A cancel completes once covered reads retire and carried entries complete. -/
  | cancelComplete (h : Nat) (q : Nat)
  /-- MOVER_ENTRY_BEGIN (R361): A mover entry is accepted, checked and issues its first transfer. -/
  | moverEntryBegin (h : Nat) (q : Nat)
  /-- TRANSFER_ISSUE (R362): The mover issues one transfer read of at most 512 bytes. -/
  | transferIssue (h : Nat) (q : Nat)
  /-- TRANSFER_PERFORMED (R367): A transfer's write is performed at its destination. -/
  | transferPerformed (h : Nat) (q : Nat) (k : Nat)
  /-- MOVER_ENTRY_COMPLETE (R367): All transfers of an entry are performed and its status is written. -/
  | moverEntryComplete (h : Nat) (q : Nat)
  /-- REMOTE_ACK_TIMEOUT (R374): A REMOTE write is not acknowledged within 100 µs and the entry fails. -/
  | remoteAckTimeout (h : Nat) (q : Nat)
  /-- STREAM_SLOT_FILLED (R380): A stream slot is whole, FILL advances and an optional signal is sent. -/
  | streamSlotFilled (h : Nat) (q : Nat)
  /-- STREAM_RELEASE_CREDIT (R381): The mover takes a new RELEASE value as stream credit, faulting an invalid one. -/
  | streamReleaseCredit (h : Nat) (q : Nat)
  /-- ATOMIC_LINE_OP (R295): A home slice performs one line-operation of an atomic or reduction. -/
  | atomicLineOp (h : Nat) (q : Nat)
  /-- RICK_PUSH (R426): A push onto the rick is accepted when space allows and advances PUSH. -/
  | rickPush (h : Nat) (q : Nat)
  /-- RICK_SEAL (R427): A zero-length push seals the open frame and writes its trailer. -/
  | rickSeal (h : Nat) (q : Nat)
  /-- RICK_POP (R428): A pop takes the top bytes of the oldest sealed frame. -/
  | rickPop (h : Nat) (q : Nat)
  /-- RICK_FRAME_FREE (R429): A frame is freed when POP reaches its base and its pops complete. -/
  | rickFrameFree (h : Nat)
  /-- RICK_STALL (R426): A push or pop has waited 10 ms and a rick-stall event is raised. -/
  | rickStall (h : Nat) (q : Nat)
  /-- SE_RUN (R334): Run a stack program as up to eight instances on an engine. -/
  | seRun (s : Nat) (k : Nat)
  /-- SE_GATHER (R341): Embedding gather-and-pool near memory. -/
  | seGather (s : Nat) (k : Nat)
  /-- SE_SCATTER (R344): Sparse table update near memory. -/
  | seScatter (s : Nat) (k : Nat)
  /-- SE_ATTN (R347): Decode attention over a paged KV cache near memory. -/
  | seAttn (s : Nat) (k : Nat)
  /-- SE_OPT (R350): Optimizer step with fused emit of weight copies. -/
  | seOpt (s : Nat) (k : Nat)
  /-- SE_RELAYOUT (R355): Rewrite a weight matrix in another layout and format. -/
  | seRelayout (s : Nat) (k : Nat)
  /-- SE_DIGEST (R356): Compute, compare, register or unregister a SHA-256 shard digest. -/
  | seDigest (s : Nat) (k : Nat)
  /-- SE_PREFIX (R496): Prefix digests with lookup or insert in the prefix table. -/
  | sePrefix (s : Nat) (k : Nat)
  /-- SE_COMMAND_ACCEPT (R321): An SQ entry is accepted, its descriptor copied and the home slices clean its ranges. -/
  | seCommandAccept (h : Nat)
  /-- SE_COMMAND_START (R327): An accepted stack-engine command starts when its resources and ordering allow. -/
  | seCommandStart (s : Nat) (k : Nat)
  /-- SE_COMMAND_COMPLETE (R328): A stack-engine command completes, slices invalidate write ranges and the status is written. -/
  | seCommandComplete (s : Nat) (k : Nat)
  /-- SE_RUN_TIME_LIMIT (R338): A stack program's LIMIT_US passes and every instance is stopped. -/
  | seRunTimeLimit (s : Nat) (k : Nat)
  /-- DIGEST_REVERIFY (R357): A registered range is hashed again at its interval and a mismatch reported. -/
  | digestReverify (s : Nat) (k : Nat)
  /-- SE_PATROL_SCRUB (R358): The stack patrol scrubber reads and corrects stack lines. -/
  | sePatrolScrub (s : Nat) (err : Nat)
  /-- SET_WRITE_HELD (R452): A stack-engine write held against a Live set or adapter generation has waited 10 ms. -/
  | setWriteHeld (h : Nat)
  /-- SA_DRAW (R485): Sample tokens from logit rows. -/
  | saDraw (h : Nat) (q : Nat)
  /-- SA_VERIFY (R491): Speculative acceptance and resampling of draft tokens. -/
  | saVerify (h : Nat) (q : Nat)
  /-- SAMPLER_ROW (R482): The sampling unit processes one row and writes its result. -/
  | samplerRow (r : Nat)
  /-- DLM_EXAMINE (R508): The deadline monitor examines every open stream each 10 µs and reports or diverts. -/
  | dlmExamine (t : W64)
  /-- CL_BCAST (R539): Start a broadcast collective. -/
  | clBcast (h : Nat)
  /-- CL_REDUCE (R539): Start a reduce-to-one collective in sheaf. -/
  | clReduce (h : Nat)
  /-- COLL_OPEN (R544): An OPEN message from the root is received. -/
  | collOpen (l : LinkHdr) (g : Nat) (src : Nat) (seq : Nat) (sig : W64)
  /-- COLL_JOIN (R545): A JOIN message from a subtree is received. -/
  | collJoin (l : LinkHdr) (g : Nat) (src : Nat) (seq : Nat) (same : Nat) (diff : Nat) (ranks : List Nat) (early : W64) (earlyRank : Nat) (late : W64) (lateRank : Nat)
  /-- COLL_VERDICT (R545): A GO, SPOIL or ABORT verdict is received. -/
  | collVerdict (l : LinkHdr) (g : Nat) (src : Nat) (seq : Nat) (kind : Nat) (count : Nat) (ranks : List Nat)
  /-- COLL_DATA (R546): A data chunk is received, added or written. `words` are sheaf words, or 16-byte units of a broadcast; where
  `counts` is empty a reduction's elements travel as FP32. `idx` holds a sparse block's indices, and is empty for a dense one. -/
  | collData (l : LinkHdr) (g : Nat) (src : Nat) (seq : Nat) (chunk : Nat) (idx : List Nat) (words : List (BitVec 128)) (counts : List Nat)
  /-- COLL_TRAILER (R549): A stream trailer is received and its checksums checked. -/
  | collTrailer (l : LinkHdr) (g : Nat) (src : Nat) (seq : Nat) (sum : BitVec 128) (wsum : BitVec 128) (hash : W64) (nwovf : Nat) (wovf : List Nat) (nwnan : Nat) (wnan : List Nat)
  /-- COLL_DONE (R550): A DONE message from a broadcast subtree is received. -/
  | collDone (l : LinkHdr) (g : Nat) (src : Nat) (seq : Nat)
  /-- COLL_FINAL (R550): FINAL is received and the member completes its collective. -/
  | collFinal (l : LinkHdr) (g : Nat) (src : Nat) (seq : Nat) (code : Nat) (flags : Nat) (lag : Nat) (slow : Nat) (nnamed : Nat) (named : List Nat) (nwovf : Nat) (wovf : List Nat) (nwnan : Nat) (wnan0 : Nat)
  /-- COLL_LEAVE (R553): A LEAVE message is received. `flags` is 0, or the failure flags that a device reports (R549, R551). -/
  | collLeave (l : LinkHdr) (g : Nat) (src : Nat) (seq : Nat) (rank : Nat) (flags : Nat)
  /-- COLL_ROOT_TIMEOUT (R551): The root's collective timeout expires and it aborts. -/
  | collRootTimeout (g : Nat) (t : W64)
  /-- COLL_MEMBER_TIMEOUT (R552): A member hears nothing for its timeout and completes with failure. -/
  | collMemberTimeout (g : Nat) (t : W64)
  /-- WRITE_RECEIVED (R536): An incoming WRITE packet is performed through a receive window or refused. -/
  | writeReceived (l : LinkHdr) (src : Nat) (a : Nat) (tag : Nat) (data : List Byte)
  /-- FLAG_RECEIVED (R536): An incoming FLAG is performed indivisibly or refused. -/
  | flagReceived (l : LinkHdr) (src : Nat) (a : Nat) (tag : Nat) (value : W64)
  /-- RESHARD_RECEIVED (R464): An incoming re-shard write is admitted into an open set or refused. -/
  | reshardReceived (l : LinkHdr) (src : Nat) (a : Nat) (tag : Nat) (tlen : Nat) (len : Nat) (data : List Byte)
  /-- ACK_RECEIVED (R373): An ACK packet acknowledges bytes performed at the peer. -/
  | ackReceived (l : LinkHdr) (src : Nat) (tags : List Nat) (counts : List Nat)
  /-- NACK_RECEIVED (R536): A NACK makes the sending entry complete with failure. -/
  | nackReceived (l : LinkHdr) (src : Nat) (tag : Nat) (reason : Nat)
  /-- PACKET_FORWARD (R526): A packet not addressed here is routed, hop-counted and forwarded or discarded. -/
  | packetForward (l : LinkHdr) (typ : Nat) (hops : Nat) (dst : Nat) (src : Nat) (a : Nat) (b : W64) (data : List Byte)
  /-- IDENT (R516): IDENT is exchanged during training and the port goes Up. -/
  | ident (p : Nat) (dev : Nat) (port : Nat)
  /-- KEEPALIVE (R515): A KEEPALIVE word is received and answered. -/
  | keepalive (p : Nat) (count : Nat) (ce : Nat)
  /-- KEEPALIVE_SEND (R514): Each side sends a KEEPALIVE every 500 ns. -/
  | keepaliveSend (p : Nat)
  /-- ANSWER (R514): An ANSWER echoing a KEEPALIVE is received. -/
  | answer (p : Nat) (count : Nat)
  /-- TIMING (R659): A TIMING word is received and the follower updates its offset and discipline. -/
  | timing (p : Nat) (stratum : Nat) (t1 : W64) (t2 : W64) (t3 : W64) (t4 : W64)
  /-- TIMING_SEND (R659): Every Up port sends a TIMING word each 10 µs. -/
  | timingSend (p : Nat) (t : W64)
  /-- CREDIT (R523): A CREDIT word returns credits per class and virtual channel. -/
  | credit (p : Nat) (cls : Nat) (vc : Nat) (amount : Nat)
  /-- ACKSEQ (R517): An ACKSEQ word frees packets from the replay buffer. -/
  | ackseq (p : Nat) (seq : Nat)
  /-- REPLAY (R517): A REPLAY word makes the sender resend from a sequence, downing the port after 16 replays. -/
  | replay (p : Nat) (seq : Nat)
  /-- LINK_SILENCE (R515): An Up port hears nothing for 4 µs and goes Down. -/
  | linkSilence (p : Nat)
  /-- TRAINING_TIMEOUT (R516): Training does not complete in 100 ms and restarts. -/
  | trainingTimeout (p : Nat)
  /-- PORT_RETRAIN (R516): A Down port starts training again after 1 ms. -/
  | portRetrain (p : Nat)
  /-- PLAN_ENTRY_SEND (R463): A stack engine runs one plan entry, sending re-shard data to a peer. -/
  | planEntrySend (s : Nat)
  /-- PLAN_ACK_TIMEOUT (R461): A plan entry is unacknowledged 100 µs after its last write. -/
  | planAckTimeout (job : Nat) (tag : Nat)
  /-- DROVE_SEND (R469): An mv.put to a drove handle sends entries toward the receivers' rings. -/
  | droveSend (h : Nat) (q : Nat)
  /-- DROVE_ENTRY_DELIVER (R471): A drove entry is written into its ring slot and FILL advances. -/
  | droveEntryDeliver (ch : Nat)
  /-- DROVE_RELEASE (R472): The device takes a new drove RELEASE value as credit. -/
  | droveRelease (ch : Nat) (rcv : Nat)
  /-- DROVE_STALL (R470): A drove entry has waited 10 ms and a drove-stall event is raised. -/
  | droveStall (ch : Nat)
  /-- DROVE_BREAK (R475): A channel breaks when an endpoint context faults or is removed. -/
  | droveBreak (ch : Nat)
  /-- DROVE_CLOSE_DRAINED (R476): A close without FORCE completes when transit is empty. -/
  | droveCloseDrained (ch : Nat)
  /-- SQR_DB (R566): A doorbell write publishes descriptors, or is found invalid and stops the ring. -/
  | sqrDb (ring : Nat) (v : W64)
  /-- RESULT_STAMP_WRITE (R575): After GO on words 0 to 2, the result stamp is written. -/
  | resultStampWrite (ring : Nat)
  /-- MSIX_SEND (R580): An MSI-X message is sent after a stamp's GO, moderated per vector. -/
  | msixSend (vec : Nat) (t : W64)
  /-- RES_HEAD (R576): A RES_HEAD write releases result slots or is refused. -/
  | resHead (ring : Nat) (v : W64)
  /-- EVQ_HEAD (R577): An EVQ_HEAD write releases event slots or is refused. -/
  | evqHead (v : W64)
  /-- SQR_CTL (R565): A ring enable checks bases, resets pointers and zeroes stamps; a disable drains the ring. -/
  | sqrCtl (ring : Nat) (v : W64)
  /-- EVQ_CTL (R577): An event-queue enable checks its base and resets pointers; a disable stops event writes. -/
  | evqCtl (v : W64)
  /-- HOST_BAR_ACCESS (R561): A host access through BAR0 or BAR2 reaches device memory or an unbacked address. -/
  | hostBarAccess (bar : Nat) (off : Nat) (write : Bool) (size : Nat) (data : List Byte)
  /-- HOST_LINK_RESTORED (R564): The host link returns and event 0x0703 is raised. -/
  | hostLinkRestored (t : W64)
  /-- EVAL_WINDOW_OPEN (R445): Quiescing ends when pre-open weight writes complete and evaluation contexts resume. -/
  | evalWindowOpen (part : Nat)
  /-- SHARD_LOAD_COMPLETE (R618): A shard load completes and writes its status bytes. -/
  | shardLoadComplete (k : Nat) (fin : Nat)
  /-- TURN_ARM (R460): Writing ARM_EMIT arms a turn, copying the plan, or refuses the arm. -/
  | turnArm (part : Nat) (v : W64)
  /-- TURN_RESEND (R461): Writing RESEND in Held reissues unacknowledged plan entries. -/
  | turnResend (part : Nat)
  /-- TURN_ABORT (R461): Writing ABORT returns the turn to Idle. -/
  | turnAbort (part : Nat)
  /-- TURN_DONE (R461): Gathering ends, the target becomes Complete and an armed switch is made. -/
  | turnDone (part : Nat)
  /-- SC_FLUSH (R286): Writing SC_FLUSH writes back dirty lines and invalidates lines. -/
  | scFlush (r : Nat)
  /-- SC_FLUSH_COMPLETE (R286): A shared-cache flush completes and BUSY clears. -/
  | scFlushComplete (r : Nat)
  /-- SC_WAY_RSV (R283): A write to way reservations or drove ways is applied or ignored with RSV_ERR. -/
  | scWayRsv (r : Nat) (off : Nat) (v : W64)
  /-- SC_PATROL_SCRUB (R313): The shared-cache patrol reads and corrects every line each interval. -/
  | scPatrolScrub (r : Nat) (ce : Nat)
  /-- US_PATROL_SCRUB (R276): The unit-store and operand-cache patrol reads and corrects every word each 10 ms. -/
  | usPatrolScrub (u : Nat) (ce : Nat) (us : List Nat) (oc : List Nat)
  /-- REF_THR (R315): A write of refresh thresholds is applied only if lower and ordered. -/
  | refThr (v : W64)
  /-- DEV_ID (R525): Writing DEV_ID assigns the device identifier when ports are Disabled and no context is loaded. -/
  | devId (v : W64)
  /-- ROUTE_CTL (R531): Writing ROUTE_CTL sets HOLD and changes MODE only while LQUIET. -/
  | routeCtl (v : W64)
  /-- PORT_CTL (R516): Writing PORT_CTL.EN starts training or disables a port. -/
  | portCtl (p : Nat) (v : W64)
  /-- RT_RANGE (R532): Writing a route entry changes routing for later packets. -/
  | rtRange (e : Nat) (path : Bool) (v : W64)
  /-- RX_WIN (R559): Writing a receive window is checked against R535 and applied or refused. -/
  | rxWin (w : Nat) (field : Nat) (v : W64)
  /-- TIME_SET (R660): A root steps fabric time forward, or the write is refused with TIME_ERR. -/
  | timeSet (v : W64)
  /-- TIME_CTL (R661): Writing TIME_CTL sets role, source and upstream ports of discipline. -/
  | timeCtl (v : W64)
  /-- TH_ARM (R679): Writing TH_ARM sets the armed thermal threshold and level. -/
  | thArm (v : W64)
  /-- TH_TRIP (R684): Writing TH_TRIP lowers THERMTRIP thresholds within limits. -/
  | thTrip (v : W64)
  /-- FLT_ARM (R630): Writing FLT_ARM changes repair arming for later conditions. -/
  | fltArm (v : W64)
  /-- REGISTER_WRITE (R582): A write to a register with no behaviour of its own. -/
  | registerWrite (a : Nat) (v : W64)
  /-- SLICE_END (R212): A context's time slice ends on a multiple of SLICE µs and it is pre-empted. -/
  | sliceEnd (u : Nat) (t : W64)
  /-- SAVE_COMPLETE (R210): A context's save completes and it becomes Saved. -/
  | saveComplete (u : Nat) (c : Nat)
  /-- UNIT_SELECT (R211): A unit selects the Ready resident to run and restores it. -/
  | unitSelect (u : Nat)
  /-- CONTEXT_FAULT (R221): A context fault stops the context on every unit within 2 µs. -/
  | contextFault (c : Nat)
  /-- SCRUB_COMPLETE (R222): The scrub of a torn-down context ends, it is removed and a teardown event raised. -/
  | scrubComplete (c : Nat)
  /-- UNIT_LOGIC_ERROR (R28): An error in a unit's shared logic tears down the running context and quarantines the unit. -/
  | unitLogicError (u : Nat)
  /-- CLUSTER_CLOCK_FAULT (R31): A cluster clock monitor reports loss of lock and the cluster's contexts are torn down. -/
  | clusterClockFault (cl : Nat) (spare : Bool)
  /-- SC_UNCORRECTABLE (R38): A shared-cache uncorrectable error is contained to the region and its mapped contexts. -/
  | scUncorrectable (r : Nat) (tag : Bool) (lines : List Nat)
  /-- HBM_READ_ERROR (R309): An HBM read finds an error, correcting it or poisoning the line. -/
  | hbmReadError (a : Nat) (correctable : Bool) (eng : Bool)
  /-- STACK_FAIL (R40): A stack fails and every context with granules on it takes the fault. -/
  | stackFail (s : Nat)
  /-- SENSOR_READ (R675): The lark domain reads every temperature sensor each 100 µs. -/
  | sensorRead (temps : List Nat)
  /-- ISLAND_START (R667): A cluster island starts its PLL on a running context, wake or store access. -/
  | islandStart (cl : Nat)
  /-- PPS_IN (R657): A rising PPS_IN edge disciplines a root's phase. -/
  | ppsIn (t : W64)
  /-- POWERING (R604): With V12 in range, start-up powers, trains, tests and reaches Ready. -/
  | powering (failed : List Nat) (n : Nat)
  /-- PACKET_CRC_ERROR (R517): A packet arrives with a CRC error or in an uncorrectable FEC codeword; the receiver discards it and every later packet and sends REPLAY. `inv`: it is a copy that the
  neighbour ended with an inverted CRC. `cut`: this device was forwarding it by cut-through, to `dst`, and n bytes of its payload went out. -/
  | packetCrcError (p : Nat) (seq : Nat) (fec : Bool) (inv : Bool) (cut : Bool) (ord : Bool) (typ : Nat) (dst : Nat) (n : Nat)
  /-- CACHE_EN_CHANGE (R564): HP_STAT.CACHE_EN changes, holding or releasing every device access to host memory. -/
  | cacheEnChange (en : Bool)
  /-- LANE_FAIL (R644): A lane loses lock or exceeds its error ratio and is spared or the port disabled. -/
  | laneFail (p : Nat) (lane : Nat)
  /-- FW_CTL_WRITE (R601): Stage a firmware image or configuration record into the unused slot. -/
  | fwCtlWrite (cfg : Bool)
  /-- SPARE_SUBSTITUTE (R633): The region's spare site is self-tested, loaded and put in service for a quarantined unit. -/
  | spareSubstitute (u : Nat) (pass : Bool) (readable : Bool) (t : W64)
  /-- UNIT_RETURN (R638): A unit returning from quarantine or sleep is compared by epoch and returned or made stale. -/
  | unitReturn (u : Nat) (pass : Bool) (t : W64)
  /-- REGULATOR_FAULT (R41): A core regulator group faults and its die leaves service. -/
  | regulatorFault (d : Nat)
  /-- PACKAGE_FAULT (R42): A fault no lower level contains surfaces as a package event and the device holds. -/
  | packageFault (src : Nat)
  /-- HBM_ROW_SPARE (R639): A row is repaired to a spare row. -/
  | hbmRowSpare (a : Nat)
  /-- HBM_BANK_SPARE (R639): A bank is remapped to a reserve bank and copied. -/
  | hbmBankSpare (a : Nat)
  /-- HBM_PC_SPARE (R639): A pseudo-channel is remapped to a reserve and copied. -/
  | hbmPcSpare (a : Nat)
  /-- HBM_SPARE_COPY_DONE (R640): A bank or pseudo-channel copy reaches its end. -/
  | hbmSpareCopyDone (s : Nat)
  /-- STEWARD_WATCHDOG (R647): A steward controller misses its watchdog for 1 ms and is reset. -/
  | stewardWatchdog (n : Nat)
  /-- STEWARD_RESUME (R648): A reset steward reloads its firmware and resumes its role. -/
  | stewardResume (n : Nat)
  /-- LEVEL_CHANGE_RELOCK (R682): A running island stops for 2 µs while its PLL relocks at a new level. -/
  | levelChangeRelock (cl : Nat)
  /-- ISLAND_STOP (R668): An island stops after 10 µs without work or access. -/
  | islandStop (cl : Nat)
  /-- REGION_GATE (R670): A region power-gates after 100 µs in the gating condition in Saving. -/
  | regionGate (r : Nat)
  /-- REGION_WAKE (R671): A gated region wakes, ramps power, zeroes its stores and completes the waking access. -/
  | regionWake (r : Nat)
  /-- STACK_SELF_REFRESH (R670): A stack enters self-refresh after PWR_SR_IDLE µs without a request. -/
  | stackSelfRefresh (s : Nat)
  /-- STACK_SR_EXIT (R670): A stack leaves self-refresh on a request. -/
  | stackSrExit (s : Nat)
  /-- DISCIPLINE_LOSS (R661): Upstream, PPS_IN or REF10M_IN is missing for 2 s and the device enters Holdover. -/
  | disciplineLoss (cause : Nat) (t : W64)
  /-- PPS_OUT (R662): PPS_OUT rises as fabric time passes each second. -/
  | ppsOut (t : W64)
  /-- FABRIC_TIME_APPROACH (R664): Fabric time passes 0xC000_0000_0000_0000 and a wrap warning is raised. -/
  | fabricTimeApproach (t : W64)
  /-- V3P3SB_FAULT (R699): V3P3SB leaves its range, raising an event and resetting below 2.9 V. -/
  | v3p3sbFault (below : Bool)
  /-- MODULE_LOST (R560): A UCIe module of the host port fails, the port runs on the remaining modules at reduced bandwidth and a package event is raised. -/
  | moduleLost (m : Nat)
  /-- HOST_SNOOP (R560): A CXL.cache snoop from the host arrives and the device answers RspIHitI. -/
  | hostSnoop (a : Nat)
  /-- STEWARD_MEMORY_UE (R647): An uncorrectable error in a steward controller's instruction or data memory resets that controller. -/
  | stewardMemoryUe (n : Nat)
  /-- STEWARD_BEAT (R647): Each steward controller writes the lark watchdog every 100 µs and adds 1 to STW_BEAT every 1 ms. -/
  | stewardBeat (n : Nat)
  /-- FW_STAGE_COMPLETE (R601): The steward finishes reading, verifying and writing a staged object, clears FW_STAT.BUSY and sets RESULT. -/
  | fwStageComplete (w : KsMsg)
  /-- RELOAD_SHARD_COMPLETE (R642): A shard reload finishes its passes, writes the lines, re-verifies the shard and writes its result. -/
  | reloadShardComplete (k : Nat)
  /-- HBM_ROW_REPAIR_DONE (R639): A post-package row repair ends, the row's lines are copied and the blocked bank serves its waiting requests again. -/
  | hbmRowRepairDone (s : Nat)
  /-- DESCRIPTOR_ACCEPT (R568): The device reads and accepts the next descriptor once a result slot is free. -/
  | descriptorAccept
  /-- EVENT_WRITE (R578): An event record is written to the event queue or counted as lost. -/
  | eventWrite
  /-- HOST_LINK_DOWN (R564): The host port leaves Up and the device holds its host-memory accesses. -/
  | hostLinkDown
  /-- NOP (R572): Host command that does nothing. -/
  | nop
  /-- PARTITION (R198): Assign units to a partition or to none. -/
  | partition
  /-- CTX_LOAD (R203): Load a context from its descriptor after the checks. -/
  | ctxLoad
  /-- CTX_UNLOAD (R210): Unload a context, tearing it down and scrubbing. -/
  | ctxUnload
  /-- CTX_PREEMPT (R214): Pre-empt a context on every unit. -/
  | ctxPreempt
  /-- CTX_RESUME (R210): Resume a halted or waiting context. -/
  | ctxResume
  /-- RICK (R421): Bind, change or unbind a context's rick. -/
  | rick
  /-- EVAL_OPEN (R444): Open a partition's evaluation window. -/
  | evalOpen
  /-- EVAL_CLOSE (R445): Close a partition's evaluation window. -/
  | evalClose
  /-- SET_DEFINE (R450): Define a weight set. -/
  | setDefine
  /-- SET_REMOVE (R451): Remove a weight set, stopping any running load. -/
  | setRemove
  /-- SLOT_ADMIT (R456): Admit a batch to a slot's Live set and write the binding record. -/
  | slotAdmit
  /-- SLOT_SWITCH (R457): Switch a slot to another set. -/
  | slotSwitch
  /-- SLOT_RELEASE (R458): Release batches from a set's INFLIGHT count. -/
  | slotRelease
  /-- SET_RECEIVE (R499): Open a set to receive re-shard writes from one peer. -/
  | setReceive
  /-- SET_SEND (R500): Push a set to peers by a plan. -/
  | setSend
  /-- ADP_DEFINE (R502): Define or replace an adapter generation. -/
  | adpDefine
  /-- ADP_REMOVE (R501): Remove an adapter slot's current generation. -/
  | adpRemove
  /-- ADP_ADMIT (R503): Admit a batch to an adapter's current generation. -/
  | adpAdmit
  /-- ADP_RELEASE (R504): Release batches from an adapter generation. -/
  | adpRelease
  /-- STREAM (R506): Open or close a deadline-monitor stream. -/
  | stream
  /-- DROVE (R466): Open or close a drove channel. -/
  | drove
  /-- GROUP (R538): Define, remove or abort a collective group member. -/
  | group
  /-- SE_HOST (R356): Host-issued se.digest on a stack. -/
  | seHost
  /-- SHARD_LOAD (R614): Load, decrypt and verify shards of a weight set from host memory. -/
  | shardLoad
  /-- KEY_DELIVER (R611): Install or erase a content key by ML-KEM decapsulation and unwrap. -/
  | keyDeliver
  /-- ATTEST (R608): Write a signed attestation report or the identity certificate. -/
  | attest (cut : Bool)
  /-- RELOAD_SHARD (R642): Reload poisoned or unverified lines of one shard. -/
  | reloadShard
  /-- SPARE (R636): Substitute, retest or retire a unit. -/
  | spare
  /-- THROTTLE (R678): Set the commanded throttle level of compute dies. -/
  | throttle
  /-- POWER_STATE (R673): Change the package power state. -/
  | powerState
  /-- STANDBY_RETURN_COMPLETE (R674): A return from Standby completes after compute dies and stacks start. -/
  | standbyReturnComplete
  /-- FW_CTL_COMMIT (R602): Raise FW_SVN and CFG_SVN to the running versions. -/
  | fwCtlCommit
  /-- BOOT_CTL_RESTART (R607): Writing RESTART restarts the device from step 1. -/
  | bootCtlRestart
  /-- KEM_CTL_NEXT (R610): Writing NEXT increments KEM_GEN and takes a new ML-KEM pair. -/
  | kemCtlNext
  /-- STANDBY_BOOT (R604): With V3P3SB in range and RESET_N high, the device boots to Standby. -/
  | standbyBoot (sram : List (BitVec 8))
  /-- RESET_N (R607): Asserting RESET_N restarts the device from step 1. -/
  | resetN
  /-- V12_FAULT (R698): V12 out of range for 2 µs shuts down the V12 regulators. -/
  | v12Fault
  /-- REFCLK_LOSS (R703): Loss of REFCLK unlocks every PLL, faulting clusters and downing ports. -/
  | refclkLoss
  /-- REF10M_IN_RETURN (R661): REF10M_IN is present again and a root in Holdover returns to Acquiring. -/
  | ref10mInReturn
  deriving DecidableEq, Repr

end Sys2Proof
end

