-- ==== Sys2Proof/Decode.lean ====
section
/-!
DEFINITION. Sys2Proof/Decode.lean: the fields of an instruction word of a unit (R227, R235, Table 6.3) and the checks that
depend on the word alone (R228 to R230, R244, R246 to R248, R251 to R254, R256, R259, R260, R263, R335), in the order of R228.
The rows of spec/opcode_table.json give no bits, so `decodeTableWord` spells no command.
-/

namespace Sys2Proof

/-- The command a table word spells: no row of the table gives bits, so none. -/
def decodeTableWord (_nbits _w : Nat) : Option Instr := none

namespace Machine

/-- Bits [hi:lo] of a word, as a number. -/
def fld (w : W64) (hi lo : Nat) : Nat := (w.toNat >>> lo) % 2 ^ (hi - lo + 1)

/-- Bit i of a word. -/
def bit (w : W64) (i : Nat) : Bool := fld w i i == 1

/-- A number read as signed in n bits. -/
def sgn (n : Nat) (x : Nat) : Int := if x < 2 ^ (n - 1) then (x : Int) else (x : Int) - (2 ^ n : Nat)

/-- An integer wrapped into 64 bits. -/
def w64 (x : Int) : W64 := BitVec.ofInt 64 x

/-- Sign extension of the n low bits of x to 64 bits. -/
def sext (n : Nat) (x : Nat) : W64 := w64 (sgn n (x % 2 ^ n))

/-! ## Fields (Tables 6.1 and 6.3) -/

def iClass (w : W64) : Nat := fld w 63 60
def iNeg (w : W64) : Bool := bit w 59
def iPred (w : W64) : Nat := fld w 58 56
def iOp (w : W64) : Nat := fld w 55 48
/-- GD of layouts S, I, C, Y and VD of layout V. -/
def iGD (w : W64) : Nat := fld w 47 43
/-- GA of layouts S, I, C, Y and VA of layout V. -/
def iGA (w : W64) : Nat := fld w 42 38
/-- GB of layouts S, I, Y and VB of layout V. -/
def iGB (w : W64) : Nat := fld w 37 33
def iPS (w : W64) : Nat := fld w 32 30
def iImm32 (w : W64) : Nat := fld w 31 0
def iAQ (w : W64) : Nat := fld w 47 46
def iFA (w : W64) : Nat := fld w 45 42
def iFB (w : W64) : Nat := fld w 41 38
def iDst (w : W64) : Nat := fld w 45 41
def iTA (w : W64) : Bool := bit w 37
def iTB (w : W64) : Bool := bit w 36
def iMA (w : W64) : Nat := fld w 35 31
def iMB (w : W64) : Nat := fld w 30 26
def iMK (w : W64) : Nat := fld w 25 21
def iVC (w : W64) : Nat := fld w 32 28
def iKM (w : W64) : Nat := fld w 27 25
def iZ (w : W64) : Bool := bit w 24
def iRM (w : W64) : Nat := fld w 23 21
def iSAT (w : W64) : Bool := bit w 20
def iSX (w : W64) : Bool := bit w 19
def iTF (w : W64) : Bool := bit w 18
def iBC (w : W64) : Nat := fld w 17 16
def iET (w : W64) : Nat := fld w 15 14
def iVFmt (w : W64) : Nat := fld w 13 10
def iImm10 (w : W64) : Nat := fld w 9 0
def iMQ (w : W64) : Nat := fld w 47 45
def iQD (w : W64) : Nat := fld w 44 40
def iQA (w : W64) : Nat := fld w 39 35
def iQB (w : W64) : Nat := fld w 34 30
def iQC (w : W64) : Nat := fld w 29 25
def iQFmt (w : W64) : Nat := fld w 24 21
def iAOP (w : W64) : Nat := fld w 20 17
def iW64 (w : W64) : Bool := bit w 16
def iNR (w : W64) : Bool := bit w 15
def iImm9 (w : W64) : Nat := fld w 8 0
def iQ (w : W64) : Nat := fld w 32 29
def iImm16 (w : W64) : Nat := fld w 15 0
/-- The window exponent E that IMM9 holds (R292). -/
def iE9 (w : W64) : Int := sgn 9 (iImm9 w)

/-- Which kind of code a format is (Table 2.1). -/
def isMx (f : Nat) : Bool := decide (5 ≤ f) && decide (f ≤ 9)
def isFp8 (f : Nat) : Bool := f == 3 || f == 4
def isInt8 (f : Nat) : Bool := f == 10 || f == 11

/-- The operand pairs of Table 3.3. -/
def pairOk (a b : Nat) : Bool :=
  (isFp8 a && isFp8 b) || (isMx a && isMx b) || (a == 1 && b == 1) || (a == 2 && b == 2) || (a == 0 && b == 0)
  || (isInt8 a && isInt8 b && !(a == 11 && b == 11))

/-- The formats that transposed order is available for (R111). -/
def transOk (f : Nat) : Bool := f == 1 || f == 2 || isFp8 f || isInt8 f

/-! ## Which bits of [47:0] an operation uses (R230): everything else is reserved -/

def mGD : Nat := 0x1F <<< 43
def mPD : Nat := 0x7 <<< 43
def mTD : Nat := 0xF <<< 43
def mCD : Nat := 0x3 <<< 43
def mGA : Nat := 0x1F <<< 38
def mPA : Nat := 0x7 <<< 38
def mTA : Nat := 0xF <<< 38
def mCA : Nat := 0x3 <<< 38
def mGB : Nat := 0x1F <<< 33
def mPB : Nat := 0x7 <<< 33
def mTB : Nat := 0xF <<< 33
def mPS : Nat := 0x7 <<< 30
def mI32 : Nat := 0xFFFFFFFF
def mVC : Nat := 0x1F <<< 28
def mKC : Nat := 0x7 <<< 28
def mTC : Nat := 0xF <<< 28
def mKM : Nat := 0x7 <<< 25
def mZ : Nat := 1 <<< 24
def mRM : Nat := 0x7 <<< 21
def mSAT : Nat := 1 <<< 20
def mSX : Nat := 1 <<< 19
def mTF : Nat := 1 <<< 18
def mBC : Nat := 0x3 <<< 16
def mET : Nat := 0x3 <<< 14
def mVF : Nat := 0xF <<< 10
def mQMQ : Nat := 0x7 <<< 45
def mQD : Nat := 0x1F <<< 40
def mQA : Nat := 0x1F <<< 35
def mQB : Nat := 0x1F <<< 30
def mQC : Nat := 0x1F <<< 25
def mAOP : Nat := 0xF <<< 17

/-- Union of masks. -/
def mOr (l : List Nat) : Nat := l.foldl (fun a b => a ||| b) 0

/-- Class 0x0 (Table 6.4). -/
def used0 (op : Nat) : Option Nat :=
  if op ≤ 0x15 then some (mOr [mGD, mGA, mGB])
  else if op = 0x16 then some (mOr [mGD, mGA, mGB, mPS])
  else if 0x18 ≤ op ∧ op ≤ 0x1A then some (mOr [mGD, mGA])
  else if 0x20 ≤ op ∧ op ≤ 0x25 then some (mOr [mPD, mGA, mGB])
  else if 0x28 ≤ op ∧ op ≤ 0x2B then some (mOr [mPD, mPA, mPB])
  else if op = 0x2C then some mGD
  else if op = 0x2D then some mGA
  else none

/-- Class 0x1 (Table 6.5). -/
def used1 (op : Nat) : Option Nat :=
  if op = 0 ∨ (2 ≤ op ∧ op ≤ 4) ∨ op = 9 ∨ op = 0x14 ∨ op = 0x15 ∨ op = 0x31 then some (mOr [mGD, mGA, mI32])
  else if 6 ≤ op ∧ op ≤ 8 then some (mOr [mGD, mGA, 0x3F])
  else if 0x20 ≤ op ∧ op ≤ 0x25 then some (mOr [mPD, mGA, mI32])
  else if op = 0x30 then some (mOr [mGD, mI32])
  else none

/-- Class 0x2 (Table 6.6). -/
def used2 (op : Nat) : Option Nat :=
  if op = 0 then some mI32
  else if op = 1 then some (mOr [mGD, mI32])
  else if op = 2 then some mGA
  else if op = 3 then some (mOr [mGD, mGA])
  else if op = 4 then some (mOr [mGA, mI32])
  else none

/-- Class 0x3 (Table 6.7). -/
def used3 (op : Nat) : Option Nat :=
  if op ≤ 6 then some (mOr [mGD, mGA, mI32])
  else if 8 ≤ op ∧ op ≤ 0xB then some (mOr [mGA, mGB, mI32])
  else none

/-- Class 0x4 (Table 6.8). -/
def used4 (op : Nat) : Option Nat :=
  if op ≤ 1 then some (0xFFFFFFFFFFFF - 0x1FFFFF)
  else if op = 2 then some (mOr [0x3 <<< 46, 0xF <<< 41])
  else if op = 3 then some (mOr [0x3 <<< 46, 0x1F <<< 41])
  else none

/-- Class 0x5 (Table 6.11); the fields of `vx.cvt` are those of every conversion, checked by pair in `cvtOk`. (Log entry 122: DESIGN CHOICE.) -/
def used5 (w : W64) : Option Nat :=
  let op := iOp w
  let tf := iTF w
  let bc := iBC w
  let vd := if tf then mTD else mGD
  let va := if tf then mTA else mGA
  let vb := if tf && bc == 0 then mTB else mGB
  let vc := if tf then mTC else mVC
  let lane := mOr [mKM, mZ]
  let two := mOr [vd, va, vb, lane, mET, mVF, mTF, mBC]
  let one := mOr [vd, va, lane, mET, mVF, mTF]
  if op ≤ 2 then some (two ||| mRM)
  else if op = 3 then some (mOr [two, vc, mRM])
  else if op ≤ 5 then some two
  else if op ≤ 7 then some one
  else if op = 8 then some (two ||| mRM)
  else if op = 9 then some (one ||| mRM)
  else if op ≤ 0x10 then some one
  else if op = 0x11 then some (mOr [mGD, mGA, mGB, mVC, lane, mRM, mSAT, mVF, 0x3C3])
  else if 0x18 ≤ op ∧ op ≤ 0x1A then some (two ||| mSAT)
  else if op = 0x1B ∨ op = 0x1C then some (two ||| mSX)
  else if 0x20 ≤ op ∧ op ≤ 0x26 then some two
  else if op = 0x28 then some (two ||| mKC)
  else if 0x30 ≤ op ∧ op ≤ 0x35 then some (mOr [mPD, mGA, mGB, lane, mSX, mET, mVF])
  else if 0x38 ≤ op ∧ op ≤ 0x3A then some (mOr [mPD, mPA, mPB])
  else if op = 0x3B then some (mOr [mPD, mPA])
  else if op = 0x3C then some (mOr [mPD, mGA, mGB])
  else if op = 0x3D then some (mOr [mPD, mGA])
  else if op = 0x3E then some (mOr [mGD, mPA])
  else if op = 0x3F then some (mOr [mGD, mPA, 1])
  else if op = 0x40 then some (mOr [mGD, mGA, lane, mET, mVF])
  else if op = 0x41 then some (mOr [mGD, mGA, 0x7F])
  else if op = 0x42 then some (mOr [mGD, lane, mET, mVF])
  else if op = 0x43 then some (mOr [mPD, 0x1FF])
  else if op = 0x44 then some mKM
  else if op = 0x45 then some (mOr [mCD, mGA])
  else if op = 0x46 then some (mOr [mGD, mCA])
  else if op = 0x50 then some (mOr [mGD, mGA, lane, 0x3FF])
  else if op = 0x51 then some (mOr [mGA, mGB, mKM, 0x3FF])
  else if op = 0x52 then some (mOr [mGD, mGA, mGB, lane])
  else if op = 0x53 then some (mOr [mGA, mGB, mVC, mKM])
  else if op = 0x54 then some (mOr [mGD, mGA, mGB, lane, 0x3FF])
  else if op = 0x55 then some (mOr [mGA, mGB, mVC, mKM, 0x3FF])
  else if op = 0x58 then some (mOr [mGD, mTA, lane, 0x1F])
  else if op = 0x59 then some (mOr [mTD, mGA, lane, 0x1F])
  else if op = 0x5A then some mTD
  else none

/-- Class 0x6 (Table 6.13, R256). (Log entry 117: DESIGN CHOICE.) -/
def used6 (w : W64) : Option Nat :=
  let op := iOp w
  let lane := mOr [mKM, mZ]
  if op = 0 then
    some (mOr [mGD, mGA, lane, mRM, mSAT, mSX, mET, mVF, 0x3F0,
      if bit w 7 then mPB else 0, if bit w 5 then mVC else 0])
  else if op = 8 ∨ op = 0xC ∨ op = 0xD then some (mOr [mGD, mGA, mGB, lane])
  else if op = 9 then some (mOr [mGD, mGA, mGB, mVC, lane])
  else if op = 0xA ∨ op = 0xB then some (mOr [mGD, mGA, lane, 0x7F])
  else if op = 0xE then some (mOr [mGD, mGA, lane, mSX, 1])
  else if op = 0xF then some (mOr [mGD, mGA, lane, mSX, 3])
  else if op = 0x10 then some (mOr [mGD, mGA, mKM])
  else if op = 0x11 then some (mOr [mGD, mGA, lane])
  else if op = 0x12 then some (mOr [mCD, mGA, mKM])
  else if op = 0x13 then some (mOr [mGD, mCA, lane])
  else if op = 0x18 then some (mOr [mGD, mTA, mRM, mSAT, mSX, mET, mVF, 0x380])
  else none

/-- Class 0x7 (Table 6.15): GD of sheaf add and FP32 add is reserved on `mv.atom` (R260). (Log entry 121: DESIGN CHOICE.) -/
def used7 (w : W64) : Option Nat :=
  let op := iOp w
  let abc := mOr [mQMQ, mQD, mQA, mQB, mQC]
  let aop := iAOP w
  let sheaf := aop == 0xA
  let fp := aop == 0xB
  let mem := mOr [mAOP, if sheaf || fp then 0 else 1 <<< 16, if fp then 1 <<< 15 else 0, if sheaf then 0x1FF else 0]
  if op ≤ 2 then some abc
  else if op = 3 then some (mOr [mQMQ, mQD, mQA])
  else if op = 8 then some (mOr [mQMQ, if sheaf || fp then 0 else mQD, mQA, mQB, mQC, mem])
  else if op = 9 then some (abc ||| mem)
  else if op = 0x10 then some abc
  else if op = 0x18 then some (mOr [mQMQ, 0x1FF])
  else if op = 0x19 then some (mOr [mQMQ, mQD])
  else none

/-- Class 0x9 (Table 6.18). -/
def used9 (w : W64) : Option Nat :=
  let op := iOp w
  if op = 0 then some 0x7FFF
  else if op = 1 then some (mOr [0xF <<< 29, 0x7FFF])
  else if op = 2 then some (mOr [mGD, mGA])
  else if op = 3 then some (mOr [mGA, mGB, 3])
  else if op = 4 then some (mOr [mGD, 0xF])
  else if op = 5 then some (mOr [if bit w 2 then mGD else 0, 7])
  else if op = 6 then some (mOr [mGD, 0xFF])
  else none

/-- Class 0xC (Table 6.19). -/
def usedC (op : Nat) : Option Nat :=
  if op = 0 then some (mOr [mGD, 0xFF])
  else if op = 1 then some 1
  else if op = 2 ∨ op = 5 then some mGD
  else if op = 3 then some 0x1FF
  else if op = 4 then some (mOr [mGD, 3])
  else if op = 6 then some (mOr [mGA, 0xFFFF])
  else if op = 7 ∨ op = 8 then some 0
  else none

/-- The used bits of an instruction, or none where the class table has no entry for it. -/
def usedBits (w : W64) : Option Nat :=
  match iClass w with
  | 0x0 => used0 (iOp w)
  | 0x1 => used1 (iOp w)
  | 0x2 => used2 (iOp w)
  | 0x3 => used3 (iOp w)
  | 0x4 => used4 (iOp w)
  | 0x5 => used5 w
  | 0x6 => used6 w
  | 0x7 => used7 w
  | 0x8 => if iOp w ≤ 7 then some (mOr [mQD, mQA]) else none
  | 0x9 => used9 w
  | 0xA => if iOp w ≤ 1 then some (mOr [mQMQ, mQD, mQA]) else none
  | 0xB => if iOp w ≤ 1 then some (mOr [mQD, mQA]) else none
  | 0xC => usedC (iOp w)
  | _ => none

/-! ## Ranges of the used fields -/

/-- ET and FMT select FP32, packed FP16 or packed BF16 (Table 6.10). -/
def fpElem (w : W64) : Bool :=
  (iET w == 0 && iVFmt w == 0) || (iET w == 1 && (iVFmt w == 2 || iVFmt w == 1))

/-- ET and FMT select FP32. -/
def fp32Elem (w : W64) : Bool := iET w == 0 && iVFmt w == 0

/-- ET and FMT select INT32, packed INT8 or packed UINT8. -/
def intElem (w : W64) : Bool :=
  (iET w == 0 && iVFmt w == 12) || (iET w == 2 && (iVFmt w == 10 || iVFmt w == 11))

/-- ET and FMT select INT32. -/
def int32Elem (w : W64) : Bool := iET w == 0 && iVFmt w == 12

/-- ET and FMT select a bit pattern. -/
def bitElem (w : W64) : Bool := decide (iET w ≤ 2) && iVFmt w == 0

/-- The other format of a conversion, and whether the conversion goes out of FP32 (R252). -/
def cvtOther (w : W64) : Nat × Bool :=
  if fld w 9 6 = 0 then (iVFmt w, true) else (fld w 9 6, false)

/-- A conversion that rounds nothing by RM: into sheaf (R88), or an exact widening of a 16-bit or 8-bit format. (Log entry 19: DESIGN CHOICE.) -/
def cvtExact (o : Nat) (out : Bool) : Bool := if out then o == 0xE else [1, 2, 3, 4, 0xA, 0xB].contains o

/-- The conversions of Table 6.12 with the checks of R247 and R252 to R254 that depend on the word. (Log entry 120: DESIGN CHOICE.) -/
def cvtOk (w : W64) : Bool :=
  let (o, out) := cvtOther w
  let part := fld w 1 0
  let sr := iRM w == 4
  let blk := isMx o || o == 0xD || o == 0xE
  let mx := isMx o || o == 0xD
  (if out then decide (1 ≤ o) else iVFmt w == 0) && decide (o ≤ 0xE)
  && (if o == 0xC then part == 0 else if o == 1 || o == 2 then decide (part ≤ 1) else true)
  && (!blk || (iKM w == 0 && !(iZ w)))
  && (if o == 0xE then !sr else iGB w == 0)
  && (if cvtExact o out then iRM w == 0 else decide (iRM w ≤ 4))
  && (if mx then !(sr && out) || (decide (iVC w + 1 ≤ 30) && (iVC w + 1) % 2 == 0)
      else if sr then iVC w % 2 == 0 else iVC w == 0)
  && (!(sr && mx && !out) || iVC w % 2 == 0)

/-- Rounding mode RNE, RTZ, RDN or RUP. -/
def rmOk (w : W64) : Bool := decide (iRM w ≤ 3)

/-- Ranges in class 0x5. -/
def range5 (w : W64) : Bool :=
  let op := iOp w
  let sweepOk := decide (op ≤ 0x10) || (decide (0x18 ≤ op) && decide (op ≤ 0x28))
  (!(iTF w) || sweepOk) && (iTF w || iBC w == 0) && decide (iBC w ≤ 2)
  && (if op ≤ 3 then fpElem w && rmOk w
      else if op ≤ 7 then fpElem w
      else if op ≤ 9 then fp32Elem w && rmOk w
      else if op ≤ 0x10 then fp32Elem w
      else if op = 0x11 then cvtOk w
      else if op ≤ 0x1C then intElem w
      else if op ≤ 0x28 then bitElem w
      else if op ≤ 0x35 then (fp32Elem w && !(iSX w)) || int32Elem w
      else if op = 0x40 then fpElem w || intElem w || bitElem w
      else if op = 0x42 then int32Elem w
      else true)

/-- Ranges in class 0x6 (R151, R173, R175, R256). -/
def range6 (w : W64) : Bool :=
  let op := iOp w
  let sop := fld w 9 8
  let fp := fp32Elem w
  let int := int32Elem w
  let common := (fp || int) && (iRM w == 0 || (fp && sop == 0 && rmOk w)) && (!(iSAT w) || (int && sop == 0)) && (!(iSX w) || int)
  if op = 0 then common && (!(bit w 4) || sop == 0)
  else if op = 0x18 then common && decide (sop ≤ 2)
  else true

/-- The memory operations that `mv.atom` and `mv.red` take (Table 6.16). -/
def aopOk (w : W64) : Bool :=
  if iOp w = 8 then decide (iAOP w ≤ 0xB)
  else iAOP w == 0 || (decide (4 ≤ iAOP w) && decide (iAOP w ≤ 7)) || iAOP w == 0xA || iAOP w == 0xB

/-- E lies in −160 to +160 (R87). -/
def eOk (e : Int) : Bool := decide (-160 ≤ e) && decide (e ≤ 160)

/-- Every used field holds a value its operation allows. -/
def rangeOk (w : W64) : Bool :=
  match iClass w with
  | 0x4 =>
    iAQ w != 3 && (if iOp w ≤ 1 then
      iMA w % 2 == 0 && iMB w % 2 == 0 && pairOk (iFA w) (iFB w)
      && (!(iTA w) || transOk (iFA w)) && (!(iTB w) || transOk (iFB w)) else true)
  | 0x5 => range5 w
  | 0x6 => range6 w
  | 0x7 =>
    if iOp w = 8 ∨ iOp w = 9 then aopOk w && (iAOP w != 0xA || eOk (iE9 w))
    else if iOp w = 0x18 then decide (1 ≤ iImm9 w) && decide (iImm9 w ≤ 256)
    else true
  | 0x9 =>
    if iOp w = 1 then decide (iQ w ≤ 13)
    else if iOp w = 3 ∨ iOp w = 5 then fld w 1 0 != 3
    else true
  | 0xC => iOp w != 4 || fld w 1 0 != 3
  | _ => true

/-- The third and fourth checks of R228. -/
def wordOk (w : W64) : Bool :=
  match usedBits w with
  | none => false
  | some m => (fld w 47 0) &&& (0xFFFFFFFFFFFF - m) == 0 && rangeOk w

/-- The queues a stack program may name: AQ0, VQ and MQ0 to MQ3 (Table 8.4). -/
def progMask : Nat := 0x00F9

/-- What Table 8.4 leaves of the instruction set in a stack program. -/
def progOk (w : W64) : Bool :=
  let op := iOp w
  match iClass w with
  | 0x4 =>
    iAQ w == 0 && (if op ≤ 1 then
      (isFp8 (iFA w) || isInt8 (iFA w)) && (isFp8 (iFB w) || isInt8 (iFB w)) && iTA w else op == 3)
  | 0x5 => !(iTF w) && op != 0x54 && op != 0x55 && decide (op ≤ 0x55)
  | 0x6 => op != 0x18
  | 0x7 => (op == 0 || op == 1 || op == 0x18) && decide (iMQ w ≤ 3)
  | 0x8 => false
  | 0xA => false
  | 0xB => false
  | 0x9 =>
    decide (op ≤ 1) && iImm16 w &&& (0xFFFF - progMask) == 0
    && (op == 0 || iQ w == 0 || iQ w == 3 || (decide (4 ≤ iQ w) && decide (iQ w ≤ 7)))
  | 0xC => decide (op ≤ 5) && (op != 4 || fld w 1 0 == 0) || op == 8
  | _ => true

/-- What R228 decides of a word: a fault, a skip, or an instruction to execute or dispatch. -/
inductive Decoded where
  | illegal | skip | go
  deriving DecidableEq, Repr

/-- R228, in its order. `p` is the predicate the word names, `prog` whether it stands in a stack program. -/
def decodeWord (p : Bool) (prog : Bool) (w : W64) : Decoded :=
  if 0xD ≤ iClass w then .illegal
  else if p == iNeg w then .skip
  else if !(wordOk w) then .illegal
  else if prog && !(progOk w) then .illegal
  else .go

/-- Whether a word is one of an engine's, dispatched into a queue (Table 6.2). -/
def isEngine (w : W64) : Bool :=
  (decide (4 ≤ iClass w) && decide (iClass w ≤ 8)) || iClass w == 0xA || iClass w == 0xB

/-- The queue number (R195, Table 6.3) an engine instruction is dispatched into. -/
def queueOf (w : W64) : Nat :=
  match iClass w with
  | 0x4 => iAQ w
  | 0x5 => 3
  | 0x6 => 3
  | 0x8 => 12
  | 0xB => 13
  | _ => 4 + iMQ w

/-- Depths of the queues (Table 5.2). -/
def queueDepth (q : Nat) : Nat := if q ≤ 2 then 16 else if q = 3 then 32 else if q ≤ 11 then 64 else if q = 12 then 16 else 8

end Machine

end Sys2Proof
end

