-- ==== Sys2Proof/Machine/Fp.lean ====
section
/-!
DEFINITION. Sys2Proof/Machine/Fp.lean: the element formats (R63 to R65), one exact rounding for all of them (R70 to R74, R86), the
IEEE arithmetic of R83 and R84, integer conversions (R74) and the transcendentals (R85). A finite value is an integer significand
times a power of two, so every operation is exact until it rounds once.
-/

namespace Sys2Proof.Machine

/-- Flag bits of Table 2.4. -/
abbrev Flags := BitVec 9
def flNV : Flags := 0x001
def flDZ : Flags := 0x002
def flOF : Flags := 0x004
def flUF : Flags := 0x008
def flNX : Flags := 0x010
def flSAT : Flags := 0x020
def flAOVF : Flags := 0x040
def flAINV : Flags := 0x080
def flSOVF : Flags := 0x100

/-- A value: NaN (signalling or quiet), an infinity, or (−1)^neg × m × 2^e. -/
inductive Num where
  | nan (signalling : Bool)
  | inf (neg : Bool)
  | fin (neg : Bool) (m : Nat) (e : Int)
  deriving DecidableEq, Repr

/-- How a format uses its top codes (Table 2.2). -/
inductive Special where
  | ieee | topNan | none
  deriving DecidableEq, Repr

/-- An element format (Table 2.2). -/
structure FpFmt where
  eb     : Nat
  mb     : Nat
  bias   : Nat
  signed : Bool
  spec   : Special
  nan    : Nat
  deriving DecidableEq, Repr

def fp32 : FpFmt := { eb := 8, mb := 23, bias := 127, signed := true, spec := .ieee, nan := 0x7FC00000 }
def bf16 : FpFmt := { eb := 8, mb := 7, bias := 127, signed := true, spec := .ieee, nan := 0x7FC0 }
def fp16 : FpFmt := { eb := 5, mb := 10, bias := 15, signed := true, spec := .ieee, nan := 0x7E00 }
def e4m3 : FpFmt := { eb := 4, mb := 3, bias := 7, signed := true, spec := .topNan, nan := 0x7F }
def e5m2 : FpFmt := { eb := 5, mb := 2, bias := 15, signed := true, spec := .ieee, nan := 0x7F }
def e3m2 : FpFmt := { eb := 3, mb := 2, bias := 3, signed := true, spec := .none, nan := 0 }
def e2m3 : FpFmt := { eb := 2, mb := 3, bias := 1, signed := true, spec := .none, nan := 0 }
def e2m1 : FpFmt := { eb := 2, mb := 1, bias := 1, signed := true, spec := .none, nan := 0 }
def e5m3u : FpFmt := { eb := 5, mb := 3, bias := 15, signed := false, spec := .topNan, nan := 0xFF }

/-- The element format of a floating-point or MX format code (Table 2.1). -/
def elemFmt (code : Nat) : FpFmt :=
  match code with
  | 0x1 => bf16
  | 0x2 => fp16
  | 0x3 => e4m3
  | 0x4 => e5m2
  | 0x5 => e4m3
  | 0x6 => e5m2
  | 0x7 => e2m3
  | 0x8 => e3m2
  | 0x9 => e2m1
  | 0xD => e5m3u
  | _ => fp32

/-- Bits per element of a format code (Table 2.1). -/
def fmtBits (code : Nat) : Nat :=
  match code with
  | 0x0 => 32
  | 0xC => 32
  | 0x1 => 16
  | 0x2 => 16
  | 0x7 => 6
  | 0x8 => 6
  | 0x9 => 4
  | 0xE => 128
  | _ => 8

/-- Exponent of the smallest normal. -/
def FpFmt.emin (f : FpFmt) : Int := 1 - (f.bias : Int)
/-- Exponent of the largest finite value. -/
def FpFmt.maxE (f : FpFmt) : Int := ((2 ^ f.eb - (if f.spec == .ieee then 2 else 1) : Nat) : Int) - (f.bias : Int)
/-- Its significand, in units of 2^−mb. -/
def FpFmt.maxM (f : FpFmt) : Nat := 2 ^ (f.mb + 1) - (if f.spec == .topNan then 2 else 1)

/-- Code from sign, exponent field and mantissa field. -/
def fpPack (f : FpFmt) (neg : Bool) (ex mant : Nat) : Nat :=
  (if neg && f.signed then 2 ^ (f.eb + f.mb) else 0) + ex * 2 ^ f.mb + mant

def fpMax (f : FpFmt) (neg : Bool) : Nat := fpPack f neg (f.maxE + f.bias).toNat (f.maxM - 2 ^ f.mb)
def fpInf (f : FpFmt) (neg : Bool) : Nat := fpPack f neg (2 ^ f.eb - 1) 0

/-- The value a code represents (R63, R64). -/
def fpDecode (f : FpFmt) (code : Nat) : Num :=
  let c := code % 2 ^ (f.eb + f.mb + (if f.signed then 1 else 0))
  let neg := f.signed && c / 2 ^ (f.eb + f.mb) == 1
  let ex := c / 2 ^ f.mb % 2 ^ f.eb
  let mant := c % 2 ^ f.mb
  if f.spec == .ieee && ex == 2 ^ f.eb - 1 then
    if mant = 0 then .inf neg else .nan (mant < 2 ^ (f.mb - 1))
  else if f.spec == .topNan && ex == 2 ^ f.eb - 1 && mant == 2 ^ f.mb - 1 then .nan false
  else if ex = 0 then .fin neg mant (f.emin - f.mb)
  else .fin neg (mant + 2 ^ f.mb) ((ex : Int) - f.bias - f.mb)

/-! ## Rounding -/

/-- Rounding modes by their codes (Table 2.3). -/
def rmRNE : Nat := 0
def rmRTZ : Nat := 1
def rmRDN : Nat := 2
def rmRUP : Nat := 3
def rmSR : Nat := 4

/-- m × 2^k as a ratio: numerator and denominator. -/
def scaleUp (m : Nat) (k : Int) : Nat := if 0 ≤ k then m * 2 ^ k.toNat else m
def scaleDn (k : Int) : Nat := if 0 ≤ k then 1 else 2 ^ (-k).toNat

/-- Rounds the magnitude m × 2^k to an integer (Table 2.3, R71); the Bool says it was inexact. `rnd` is the 16-bit word of SR. -/
def roundInt (rm : Nat) (neg : Bool) (m : Nat) (k : Int) (rnd : Nat) : Nat × Bool :=
  let num := scaleUp m k
  let den := scaleDn k
  let n := num / den
  let r := num % den
  if r = 0 then (n, false)
  else
    let up := match rm with
      | 0 => decide (den < 2 * r) || (decide (2 * r = den) && n % 2 == 1)
      | 1 => false
      | 2 => neg
      | 3 => !neg
      | _ => decide (2 ^ 16 ≤ r * 2 ^ 16 / den + rnd)
    (if up then n + 1 else n, true)

/-- What an overflowing value becomes (R73): SAT saturates, and formats without infinity always do. -/
def fpOverflow (f : FpFmt) (rm : Nat) (sat neg : Bool) : Nat :=
  if sat || f.spec != .ieee || rm == 1 || (rm == 2 && !neg) || (rm == 3 && neg) then fpMax f neg else fpInf f neg

/-- a × 2^j < b × 2^k. -/
def ltScaled (a : Nat) (j : Int) (b : Nat) (k : Int) : Bool :=
  if j ≤ k then decide (a < b * 2 ^ (k - j).toNat) else decide (a * 2 ^ (j - k).toNat < b)

/-- The exponent of the leading bit of m × 2^e. -/
def topExp (m : Nat) (e : Int) : Int := (Nat.log2 m : Int) + e

/-- Rounds (−1)^neg × m × 2^e into a format, once (R64, R73, R86): its code and the flags OF, UF, NX. -/
def fpRound (f : FpFmt) (rm : Nat) (sat : Bool) (rnd : Nat) (neg : Bool) (m : Nat) (e : Int) : Nat × Flags :=
  if m = 0 then (fpPack f neg 0 0, 0)
  else
    let big := topExp m e
    let q := (if big < f.emin then f.emin else big) - f.mb
    let (n, inexact) := roundInt rm neg m (e - q) rnd
    let tooBig := if rm == 4 then ltScaled f.maxM (f.maxE - f.mb) m e else ltScaled f.maxM (f.maxE - f.mb) n q
    if tooBig then (fpOverflow f rm sat neg, flOF ||| flNX)
    else
      let tiny := decide (big < f.emin) &&
        (let (n2, _) := roundInt rm neg m (e - (big - f.mb)) rnd
         ltScaled n2 (big - f.mb) 1 f.emin)
      let fl : Flags := (if inexact then flNX else 0) ||| (if inexact && tiny then flUF else 0)
      let (n, q) := if 2 ^ (f.mb + 1) ≤ n then (n / 2, q + 1) else (n, q)
      if 2 ^ f.mb ≤ n then (fpPack f neg (q + f.mb + f.bias).toNat (n - 2 ^ f.mb), fl)
      else (fpPack f neg 0 n, fl)

/-- A conversion of a value into a format (R65, R73): NaN becomes the canonical NaN; a signalling NaN is an invalid operation. -/
def fpConv (f : FpFmt) (rm : Nat) (sat : Bool) (rnd : Nat) (x : Num) : Nat × Flags :=
  match x with
  | .nan sg => (f.nan, if sg then flNV else 0)
  | .inf neg =>
    if neg && !f.signed then (f.nan, flNV)
    else if f.spec == .ieee && !sat then (fpInf f neg, 0) else (fpMax f neg, flOF ||| flNX)
  | .fin neg m e =>
    if neg && !f.signed && m != 0 then (f.nan, flNV) else fpRound f rm sat rnd neg m e

/-! ## Exact arithmetic -/

/-- Log entry 20: DEDUCED. -/
def numNeg : Num → Num
  | .nan q => .nan q
  | .inf n => .inf (!n)
  | .fin n m e => .fin (!n) m e

def isNan : Num → Bool
  | .nan _ => true
  | _ => false
/-- Log entry 20: DEDUCED. -/
def isSig : Num → Bool
  | .nan q => q
  | _ => false
def isZero : Num → Bool
  | .fin _ m _ => m == 0
  | _ => false
def isInf : Num → Bool
  | .inf _ => true
  | _ => false
def numSign : Num → Bool
  | .nan _ => false
  | .inf n => n
  | .fin n _ _ => n

/-- Signed significand at exponent e, for an e no greater than the value's own. -/
def atExp (neg : Bool) (m : Nat) (e0 e : Int) : Int :=
  let v : Int := (m * 2 ^ (e0 - e).toNat : Nat)
  if neg then -v else v

/-- The exact sum; an exact zero takes the common sign, or minus under RDN (R83). -/
def numAdd (rm : Nat) (a b : Num) : Num :=
  match a, b with
  | .nan p, .nan q => .nan (p || q)
  | .nan p, _ => .nan p
  | _, .nan q => .nan q
  | .inf p, .inf q => if p == q then .inf p else .nan true
  | .inf p, _ => .inf p
  | _, .inf q => .inf q
  | .fin p m e, .fin q n f =>
    let x := if e ≤ f then e else f
    let s := atExp p m e x + atExp q n f x
    if s = 0 then .fin (if p == q then p else rm == 2) 0 x
    else .fin (decide (s < 0)) s.natAbs x

/-- The exact product. An invalid product answers a NaN marked signalling, so that NV is raised. -/
def numMul (a b : Num) : Num :=
  match a, b with
  | .nan p, .nan q => .nan (p || q)
  | .nan p, _ => .nan p
  | _, .nan q => .nan q
  | .inf p, .inf q => .inf (p != q)
  | .inf p, .fin q n _ => if n = 0 then .nan true else .inf (p != q)
  | .fin p m _, .inf q => if m = 0 then .nan true else .inf (p != q)
  | .fin p m e, .fin q n f => .fin (p != q) (m * n) (e + f)

/-- Order of two values that are not NaN, −0 below +0 (R83): a < b. -/
def numLt (a b : Num) : Bool :=
  match a, b with
  | .nan _, _ => false
  | _, .nan _ => false
  | .inf p, .inf q => p && !q
  | .inf p, _ => p
  | _, .inf q => !q
  | .fin p m e, .fin q n f =>
    let x := if e ≤ f then e else f
    let u := atExp p m e x
    let v := atExp q n f x
    if u = 0 ∧ v = 0 then p && !q else decide (u < v)

/-- Equality of value: zeros are equal. -/
def numEq (a b : Num) : Bool :=
  match a, b with
  | .nan _, _ => false
  | _, .nan _ => false
  | .inf p, .inf q => p == q
  | .inf _, _ => false
  | _, .inf _ => false
  | .fin p m e, .fin q n f =>
    let x := if e ≤ f then e else f
    decide (atExp p m e x = atExp q n f x)

/-- An exact result delivered in a format: the invalid NaN raises NV (R65, R86). (Log entry 20: DEDUCED.) -/
def fpDeliver (f : FpFmt) (rm : Nat) (x : Num) : Nat × Flags :=
  match x with
  | .nan sg => (f.nan, if sg then flNV else 0)
  | .inf neg => (fpInf f neg, 0)
  | .fin neg m e => fpRound f rm false 0 neg m e

def fpAdd (f : FpFmt) (rm a b : Nat) : Nat × Flags := fpDeliver f rm (numAdd rm (fpDecode f a) (fpDecode f b))
def fpSub (f : FpFmt) (rm a b : Nat) : Nat × Flags := fpDeliver f rm (numAdd rm (fpDecode f a) (numNeg (fpDecode f b)))
def fpMul (f : FpFmt) (rm a b : Nat) : Nat × Flags := fpDeliver f rm (numMul (fpDecode f a) (fpDecode f b))
def fpFma (f : FpFmt) (rm a b c : Nat) : Nat × Flags :=
  fpDeliver f rm (numAdd rm (numMul (fpDecode f a) (fpDecode f b)) (fpDecode f c))

/-- Minimum and maximum (R83): the operand that is not NaN where one is; no flags (Table 6.11). -/
def fpMin (f : FpFmt) (a b : Nat) : Nat :=
  let x := fpDecode f a
  let y := fpDecode f b
  if isNan x && isNan y then f.nan else if isNan x then b else if isNan y then a else if numLt y x then b else a
def fpMaxOp (f : FpFmt) (a b : Nat) : Nat :=
  let x := fpDecode f a
  let y := fpDecode f b
  if isNan x && isNan y then f.nan else if isNan x then b else if isNan y then a else if numLt x y then b else a

/-- A magnitude one half above an integer significand, for a value known to lie strictly between m and m + 1. -/
def jam (m : Nat) : Nat := 2 * m + 1

/-- Division, exactly rounded (R83): the quotient to 64 bits beyond the format, and a half for the remainder. -/
def fpDiv (f : FpFmt) (rm a b : Nat) : Nat × Flags :=
  match fpDecode f a, fpDecode f b with
  | .nan p, .nan q => (f.nan, if p || q then flNV else 0)
  | .nan p, _ => (f.nan, if p then flNV else 0)
  | _, .nan q => (f.nan, if q then flNV else 0)
  | .inf _, .inf _ => (f.nan, flNV)
  | .inf p, .fin q _ _ => (fpInf f (p != q), 0)
  | .fin p _ _, .inf q => (fpPack f (p != q) 0 0, 0)
  | .fin p m e, .fin q n g =>
    if n = 0 then (if m = 0 then (f.nan, flNV) else (fpInf f (p != q), flDZ))
    else if m = 0 then (fpPack f (p != q) 0 0, 0)
    else
      let big := m * 2 ^ 96
      let d := big / n
      if big % n = 0 then fpRound f rm false 0 (p != q) d (e - g - 96)
      else fpRound f rm false 0 (p != q) (jam d) (e - g - 97)

/-- Newton's iteration for the integer square root, from above. -/
def isqrtAux : Nat → Nat → Nat → Nat
  | 0, _, x => x
  | fuel + 1, n, x => let y := (x + n / x) / 2; if x ≤ y then x else isqrtAux fuel n y

/-- The integer square root. -/
def isqrt (n : Nat) : Nat := if n = 0 then 0 else isqrtAux (Nat.log2 n + 4) n (2 ^ (Nat.log2 n / 2 + 1))

/-- Square root of m × 2^e, m not 0: significand and exponent, a half added where it is not exact. -/
def sqrtParts (m : Nat) (e : Int) : Nat × Int :=
  let (m, e) := if e % 2 = 0 then (m, e) else (2 * m, e - 1)
  let big := m * 2 ^ 160
  let r := isqrt big
  if r * r = big then (r, e / 2 - 80) else (jam r, e / 2 - 81)

def fpSqrt (f : FpFmt) (rm a : Nat) : Nat × Flags :=
  match fpDecode f a with
  | .nan p => (f.nan, if p then flNV else 0)
  | .inf neg => if neg then (f.nan, flNV) else (fpInf f false, 0)
  | .fin neg m e =>
    if m = 0 then (fpPack f neg 0 0, 0)
    else if neg then (f.nan, flNV)
    else let r := sqrtParts m e; fpRound f rm false 0 false r.1 r.2

/-! ## Integers (R74) -/

/-- A conversion to an integer of w bits, as its code. -/
def toInt (w : Nat) (signed : Bool) (rm rnd : Nat) (x : Num) : Nat × Flags :=
  let lo : Int := if signed then -(2 ^ (w - 1) : Nat) else 0
  let hi : Int := if signed then (2 ^ (w - 1) : Nat) - 1 else (2 ^ w : Nat) - 1
  let enc (v : Int) : Nat := (v % (2 ^ w : Nat)).toNat
  match x with
  | .nan _ => (0, flNV)
  | .inf neg => (enc (if neg then lo else hi), flSAT)
  | .fin neg m e =>
    let (n, inexact) := roundInt rm neg m e rnd
    let v : Int := if neg then -(n : Int) else n
    if hi < v then (enc hi, flSAT) else if v < lo then (enc lo, flSAT)
    else (enc v, if inexact then flNX else 0)

/-- An integer as a value. -/
def ofInt (v : Int) : Num := .fin (decide (v < 0)) v.natAbs 0

/-- The integer a code of w bits holds. -/
def intOf (w : Nat) (signed : Bool) (c : Nat) : Int :=
  if signed then sgn w (c % 2 ^ w) else ((c % 2 ^ w : Nat) : Int)

/-- An integer result of w bits, wrapped or saturated (Table 6.11). -/
def intFit (w : Nat) (signed sat : Bool) (v : Int) : Nat × Flags :=
  let lo : Int := if signed then -(2 ^ (w - 1) : Nat) else 0
  let hi : Int := if signed then (2 ^ (w - 1) : Nat) - 1 else (2 ^ w : Nat) - 1
  let enc (v : Int) : Nat := (v % (2 ^ w : Nat)).toNat
  if sat && decide (hi < v) then (enc hi, flSAT)
  else if sat && decide (v < lo) then (enc lo, flSAT)
  else (enc v, 0)

/-! ## Transcendentals (R85): fixed point with 640 fraction bits, far below every rounding position of FP32 -/

/-- Log entry 94: UNVERIFIED. -/
def fxP : Nat := 640
def fxOne : Int := (2 ^ fxP : Nat)
/-- ln 2 in units of 2^−640. -/
def fxLn2 : Int := 3162442850577000144542819255265044123884198300717798677536341180773118696995660441338367561063358767323571958122307070903190084685977847936741854327993944726832264493303953239866611699627604094
/-- π / 2 in units of 2^−640. -/
def fxPi2 : Int := 7166664963380783727887865350899649915563065761450709164855436847124101877928951947489229989474418519168592235180394551152626136545096354515382124214146388240116051238163776092789750994438183638
def fxMul (a b : Int) : Int := a * b / fxOne
def fxDiv (a b : Int) : Int := a * fxOne / b

/-- e^t for 0 ≤ t < 1. -/
def fxExpAux (t : Int) : Nat → Nat → Int → Int → Int
  | 0, _, _, acc => acc
  | fuel + 1, k, term, acc =>
    let term' := fxMul term t / (k : Int)
    fxExpAux t fuel (k + 1) term' (acc + term')
def fxExp (t : Int) : Int := fxExpAux t 160 1 fxOne fxOne
/-- 2^f for 0 ≤ f < 1. -/
def fxExp2 (f : Int) : Int := fxExp (fxMul f fxLn2)

/-- atanh z by its series: Σ z^(2k+1) / (2k+1). -/
def fxAtanhAux (z2 : Int) : Nat → Nat → Int → Int → Int
  | 0, _, _, acc => acc
  | fuel + 1, k, pw, acc => fxAtanhAux z2 fuel (k + 2) (fxMul pw z2) (acc + pw / (k : Int))
/-- ln y for 1 ≤ y < 2. -/
def fxLn (y : Int) : Int :=
  let z := fxDiv (y - fxOne) (y + fxOne)
  2 * fxAtanhAux (fxMul z z) 210 1 z 0

/-- Σ (−1)^k r^(2k+j) / (2k+j)! from j = 1 (sine) or j = 0 (cosine). -/
def fxTrigAux (r2 : Int) : Nat → Nat → Int → Int → Int
  | 0, _, _, acc => acc
  | fuel + 1, j, term, acc =>
    let term' := -(fxMul term r2) / (((j + 1) * (j + 2) : Nat) : Int)
    fxTrigAux r2 fuel (j + 2) term' (acc + term')
def fxSin (r : Int) : Int := fxTrigAux (fxMul r r) 80 1 r r
def fxCos (r : Int) : Int := fxTrigAux (fxMul r r) 80 0 fxOne fxOne

/-- A value in units of 2^−640; every FP32 value is one exactly. -/
def fxOf (neg : Bool) (m : Nat) (e : Int) : Int := atExp neg m e (-(fxP : Int))

/-- The flags the transcendentals raise (Table 6.11): never NX. -/
def noNX (r : Nat × Flags) : Nat × Flags := (r.1, r.2 &&& ~~~flNX)

/-- FP32 from an irrational result in units of 2^−640 times 2^k: the value lies strictly beside the integer. (Log entry 94: UNVERIFIED.) -/
def fxDeliver (v : Int) (k : Int) : Nat × Flags :=
  noNX (fpRound fp32 rmRNE false 0 (decide (v < 0)) (jam v.natAbs) (k - fxP - 1))

/-- Rounds an exact value to FP32. -/
def exact32 (neg : Bool) (m : Nat) (e : Int) : Nat × Flags := noNX (fpRound fp32 rmRNE false 0 neg m e)

def tExp2 (a : Nat) : Nat × Flags :=
  match fpDecode fp32 a with
  | .nan p => (fp32.nan, if p then flNV else 0)
  | .inf neg => (if neg then 0 else fpInf fp32 false, 0)
  | .fin neg m e =>
    let x0 := fxOf neg m e
    let x := if x0 < -300 * fxOne then -300 * fxOne else if 300 * fxOne < x0 then 300 * fxOne else x0
    let n := x / fxOne
    let f := x - n * fxOne
    if f = 0 then exact32 false 1 n else fxDeliver (fxExp2 f) n

def tLog2 (a : Nat) : Nat × Flags :=
  match fpDecode fp32 a with
  | .nan p => (fp32.nan, if p then flNV else 0)
  | .inf neg => if neg then (fp32.nan, flNV) else (fpInf fp32 false, 0)
  | .fin neg m e =>
    if m = 0 then (fpInf fp32 true, flDZ)
    else if neg then (fp32.nan, flNV)
    else
      let k := topExp m e
      if m = 2 ^ Nat.log2 m then exact32 (decide (k < 0)) k.natAbs 0
      else
        let y : Int := (m * 2 ^ (fxP - Nat.log2 m) : Nat)
        fxDeliver (k * fxOne + fxDiv (fxLn y) fxLn2) 0

def tRcp (a : Nat) : Nat × Flags := noNX (fpDiv fp32 rmRNE 0x3F800000 a)

def tRsqrt (a : Nat) : Nat × Flags :=
  match fpDecode fp32 a with
  | .nan p => (fp32.nan, if p then flNV else 0)
  | .inf neg => if neg then (fp32.nan, flNV) else (0, 0)
  | .fin neg m e =>
    if m = 0 then (fpInf fp32 neg, flDZ)
    else if neg then (fp32.nan, flNV)
    else
      let (m, e) := if e % 2 = 0 then (m, e) else (2 * m, e - 1)
      let r := isqrt (2 ^ 400 / m)
      if r * r * m = 2 ^ 400 then exact32 false r (-(e / 2) - 200) else exact32 false (jam r) (-(e / 2) - 201)

/-- Quadrant and remainder of x modulo π/2, the remainder in −π/4 to π/4. -/
def trigReduce (x : Int) : Int × Int :=
  let k := (2 * x + fxPi2) / (2 * fxPi2)
  (k % 4, x - k * fxPi2)

def trigAt (q : Int) (r : Int) : Int :=
  if q = 0 then fxSin r else if q = 1 then fxCos r else if q = 2 then -(fxSin r) else -(fxCos r)

def tTrig (cosine : Bool) (a : Nat) : Nat × Flags :=
  match fpDecode fp32 a with
  | .nan p => (fp32.nan, if p then flNV else 0)
  | .inf _ => (fp32.nan, flNV)
  | .fin neg m e =>
    if m = 0 then (if cosine then 0x3F800000 else a, 0)
    else
      let (q, r) := trigReduce (fxOf neg m e)
      fxDeliver (trigAt (if cosine then (q + 1) % 4 else q) r) 0

def tTanh (a : Nat) : Nat × Flags :=
  match fpDecode fp32 a with
  | .nan p => (fp32.nan, if p then flNV else 0)
  | .inf neg => (fpPack fp32 neg 127 0, 0)
  | .fin neg m e =>
    if m = 0 then (a, 0)
    else
      let x0 := fxOf false m e
      let t := if 100 * fxOne < x0 then 200 * fxOne else 2 * x0
      let n := fxDiv t fxLn2 / fxOne
      let ex := fxExp (t - n * fxLn2) * (2 ^ n.toNat : Nat)
      let v := fxDiv (ex - fxOne) (ex + fxOne)
      fxDeliver (if neg then -v else v) 0

/-- The transcendental of an OP of class 0x5 (0x0A to 0x10, Table 6.11). (Log entry 94: UNVERIFIED.) -/
def transcend (op a : Nat) : Nat × Flags :=
  match op with
  | 0x0A => tExp2 a
  | 0x0B => tLog2 a
  | 0x0C => tRcp a
  | 0x0D => tRsqrt a
  | 0x0E => tTrig false a
  | 0x0F => tTrig true a
  | _ => tTanh a

end Sys2Proof.Machine
end

