-- ==== Sys2Proof/Machine/Conv.lean ====
section
/-!
DEFINITION. Sys2Proof/Machine/Conv.lean: the counter generator (R479, R480), microscaled blocks (R66 to R68), packed elements
(R112, R142), sheaf words (R87 to R92) and the two readings of a format code as a value.
-/

namespace Sys2Proof.Machine

/-! ## The Maeloine counter generator (R479) -/

def mcgK : List W64 := [0x3C5A91E7D24B086F, 0x8E136FA25B7CD940, 0x17D9C04EA3862B5F, 0xF2A63D81694EC517, 0x5B08E7C31FD296A4, 0xA47E2B95C0613FD8]
def mcgS : List Nat := [17, 43, 29, 11, 53, 37]

def mcgRound (p : W64 × W64) (ks : W64 × Nat) : W64 × W64 :=
  let x := (p.1 + (p.2 ^^^ ks.1)).rotateLeft ks.2
  let y := (p.2 ^^^ x) * 0xB5C3A6E91D2F4C8D
  (x, y ^^^ (y >>> 31))

def mcg (seed : W64) (ctr idx : Nat) : W64 :=
  let r := (mcgK.zip mcgS).foldl mcgRound
    (seed ^^^ 0x6A1D52C30F97E84B, BitVec.ofNat 64 (ctr % 2 ^ 32 * 2 ^ 32 + idx % 2 ^ 32))
  r.1 ^^^ r.2

/-- The 16-bit word of stochastic rounding (R480). -/
def srWord (seed : W64) (ctr idx : Nat) : Nat := (mcg seed ctr idx).toNat % 2 ^ 16

/-- A uniform draw, as its numerator over 2^24 (R480). -/
def drawNum (seed : W64) (ctr idx : Nat) : Nat := (mcg seed ctr idx).toNat >>> 40

/-- Where stochastic rounding takes its words from: seed, counter, index base (R254). -/
structure SrSrc where
  seed : W64 := 0
  ctr  : Nat := 0
  base : Nat := 0
  deriving DecidableEq, Repr

def srAt (r : SrSrc) (i : Nat) : Nat := srWord r.seed r.ctr ((r.base + i) % 2 ^ 32)

/-! ## Microscaled blocks -/

/-- emax of an MX element format (R66). -/
def mxEmax (code : Nat) : Int :=
  match code with
  | 0x5 => 8
  | 0x6 => 15
  | 0x7 => 2
  | 0x8 => 4
  | 0x9 => 2
  | _ => 16

/-- The greatest leading-bit exponent among the finite non-zero values. -/
def maxTop (l : List Num) : Option Int :=
  l.foldl (fun acc x => match x with
    | .fin _ m e => if m = 0 then acc else
        (match acc with
         | none => some (topExp m e)
         | some t => some (if t < topExp m e then topExp m e else t))
    | _ => acc) none

/-- The scale byte of a block (R66, R67). -/
def mxScale (code : Nat) (l : List Num) : Nat :=
  if l.any isNan then 0xFF
  else if l.any isInf then 0xFE
  else match maxTop l with
    | none => 0
    | some t =>
      let x := t - mxEmax code
      ((if x < -127 then -127 else if 127 < x then 127 else x) + 127).toNat

/-- One element against its block's scale (R66 to R68, R73): beyond the largest finite value it saturates and sets OF. (Log entry 18: DEDUCED.) -/
def mxElem (code : Nat) (rm : Nat) (scale : Nat) (rnd : Nat) (x : Num) : Nat × Flags :=
  let f := elemFmt code
  if scale = 0xFF then (if isNan x then f.nan else 0, 0)
  else match x with
    | .nan _ => (f.nan, 0)
    | .inf neg => if neg && !f.signed then (f.nan, flNV) else (fpMax f neg, flOF ||| flNX)
    | .fin neg m e =>
      let e' := e - ((scale : Int) - 127)
      if neg && !f.signed && m != 0 then (f.nan, flNV)
      else if ltScaled f.maxM (f.maxE - f.mb) m e' then (fpMax f neg, flOF ||| flNX)
      else fpRound f rm true rnd neg m e'

/-- The value of an MX element under a scale byte. -/
def mxValue (code scale c : Nat) : Num :=
  if scale = 0xFF then .nan false
  else match fpDecode (elemFmt code) c with
    | .fin neg m e => .fin neg m (e + scale - 127)
    | x => x

/-- Block conversion: element codes with their flags, and the scale byte. `idx` is the element index SR uses, from the first. (Log entry 18: DEDUCED.) -/
def mxBlock (code rm : Nat) (sr : SrSrc) (idx : Nat) (l : List Num) : List (Nat × Flags) × Nat :=
  let sc := mxScale code l
  (l.zipIdx.map (fun p => mxElem code rm sc (srAt sr (idx + p.2)) p.1), sc)

/-! ## Packed elements -/

/-- Element e of width w from a little-endian bit string held as a number (R112). -/
def packGet (w x e : Nat) : Nat := x / 2 ^ (w * e) % 2 ^ w

/-- A bit string from elements of width w. -/
def packAll (w : Nat) : List Nat → Nat
  | [] => 0
  | c :: t => c % 2 ^ w + 2 ^ w * packAll w t

/-- Puts element e of width w into a bit string. -/
def packPut (w x e c : Nat) : Nat :=
  let lo := x % 2 ^ (w * e)
  let hi := x / 2 ^ (w * (e + 1))
  lo + (c % 2 ^ w) * 2 ^ (w * e) + hi * 2 ^ (w * (e + 1))

/-! ## Sheaf (R87 to R92) -/

abbrev W128 := BitVec 128

def sheafLimit : Int := (2 ^ 96 : Nat) - 1

/-- x × 2^(96 − E), rounded to nearest even, clamped (R88, R89): the word, the flags, window overflow, NaN. -/
def sheafIn (e : Int) (x : Num) : W128 × Flags × Bool × Bool :=
  match x with
  | .nan _ => (0, flNV, false, true)
  | .inf neg => (BitVec.ofInt 128 (if neg then -sheafLimit else sheafLimit), flSOVF, true, false)
  | .fin neg m ex =>
    let n : Int := (roundInt rmRNE neg m (ex + 96 - e) 0).1
    if sheafLimit < n then (BitVec.ofInt 128 (if neg then -sheafLimit else sheafLimit), flSOVF, true, false)
    else (BitVec.ofInt 128 (if neg then -n else n), 0, false, false)

/-- The exact value of a sheaf word (R87). -/
def sheafVal (e : Int) (w : W128) : Num := .fin (decide (w.toInt < 0)) w.toInt.natAbs (e - 96)

/-- Out of sheaf (R91). -/
def sheafOut (f : FpFmt) (rm : Nat) (sat : Bool) (e : Int) (w : W128) : Nat × Flags := fpConv f rm sat 0 (sheafVal e w)

/-- SUM and WSUM of a vector whose first element has index i (R92). -/
def sheafSums (i : Nat) : List W128 → W128 × W128
  | [] => (0, 0)
  | w :: t => let r := sheafSums (i + 1) t; (w + r.1, BitVec.ofNat 128 (i + 1) * w + r.2)

/-- The value of an element code of a format that has no block scale (floating point or integer). -/
def plainValue (code c : Nat) : Num :=
  match code with
  | 0xA => ofInt (intOf 8 true c)
  | 0xB => ofInt (intOf 8 false c)
  | 0xC => ofInt (intOf 32 true c)
  | _ => fpDecode (elemFmt code) c

/-- A value into a format that has no block scale (R73, R74). -/
def plainConv (code rm : Nat) (sat : Bool) (rnd : Nat) (x : Num) : Nat × Flags :=
  match code with
  | 0xA => toInt 8 true rm rnd x
  | 0xB => toInt 8 false rm rnd x
  | 0xC => toInt 32 true rm rnd x
  | _ => fpConv (elemFmt code) rm sat rnd x

/-- FP32 from a value, RNE. -/
def toF32 (x : Num) : Nat × Flags := fpConv fp32 rmRNE false 0 x

end Sys2Proof.Machine
end

