-- ==== Sys2Proof/Config.lean ====
section
/-!
DEFINITION. Sys2Proof/Config.lean: what the spec leaves open. Each constant has no body, so no proof can see a value of it;
it is applied to the operands the open value depends on, or to the counter `freeCtr` of State for a fresh value each time.
-/

namespace Sys2Proof.Config

/-- Which line of a full instruction cache a fill replaces (R186 states none): a place in the list of lines. -/
opaque icacheVictim : Nat → Nat

/-- The set of its slice that a line of HBM falls into: set indexing is not architectural (section 07, Homes and slices). -/
opaque scSet : Nat → Nat

/-- Which of the ways it may take an allocation takes once they are full: replacement is not architectural (section 07). -/
opaque scVictim : Nat → Nat

/-- Whether a device write to poisoned host memory clears the poison; the host decides (R563). -/
opaque hostClears : Nat → Bool

/-- Bits of a value the spec leaves open (a result record's or a report's field that no rule fixes). -/
opaque freeWord : Nat → W64

/-- The key that the SRAM block and the PUF helper data reconstruct (R593); none where reconstruction fails. -/
opaque pufKey : List Byte → List Byte → Option (List Byte)

/-- The identity seed out of the sealed-identity region by AES-256-GCM (R595): key, additional data, region; none where unsealing fails. -/
opaque openSeal : List Byte → List Byte → List Byte → Option (List Byte)

/-- ML-KEM-1024 decapsulation (R611): the shared secret of a ciphertext under the pair of the seeds d and z; a wrong ciphertext gives one
too (implicit rejection). The spec names the algorithm and does not restate it. -/
opaque kemDecaps : List Byte → List Byte → List Byte

/-- The plaintext of AES-256-GCM (R611, R615): key, initialisation vector, ciphertext. -/
opaque gcmPlain : List Byte → List Byte → List Byte → List Byte

/-- Whether an AES-256-GCM tag matches (R611, R615): key, initialisation vector, additional data, ciphertext, tag. -/
opaque gcmTagOk : List Byte → List Byte → List Byte → List Byte → List Byte → Bool

/-- The bytes of repair-supplement entries (R591), whose layout is not stated: from each entry's number, kind and place in turn. -/
opaque suppBytes : List Nat → List Byte

/-- Root of an LMS tree of the identity with its identifier (R596, R598), from the seed and the tree's number. -/
opaque lmsRoot : List Byte → Nat → List Byte

/-- Randomiser and chains of an LM-OTS signature: seed, tree, leaf, message. -/
opaque otsSign : List Byte → Nat → Nat → List Byte → List Byte

/-- Authentication path of a leaf of an LMS tree: seed, tree, leaf. -/
opaque lmsPath : List Byte → Nat → Nat → List Byte

/-- Whether an HSS signature verifies (R597): public key, signature, message. -/
opaque hssValid : List Byte → List Byte → List Byte → Bool

/-- The two root hashes in the mask ROM (R597). -/
opaque romRoot : Nat → List Byte

/-- What a region of the keeping store holds from manufacture (Table 16.1): 0 the firmware image, 1 the configuration record, 2 the PUF helper
data, 3 the sealed identity, 4 the identity certificate. -/
opaque factoryObject : Nat → List Byte

/-- Root and identifier of the identity's level-0 tree (R596), as the identity certificate carries them. -/
opaque certKey : List Byte → List Byte

/-- The ML-KEM-1024 encapsulation key of the pair of the seeds d and z (R610). -/
opaque kemPublic : List Byte → List Byte

/-- Numbers, HBM spares and trim values in the body of a configuration record (Table 16.3), whose layout is not stated. -/
opaque recordField : List Byte → Nat → Nat
opaque recordSpares : List Byte → List (Nat × Nat)
opaque recordTrims : List Byte → List Nat

end Sys2Proof.Config
end

