-- ==== Sys2Proof/Machine/State.lean ====
section
/-!
DEFINITION. Sys2Proof/Machine/State.lean: everything the spec gives the device, as plain data.
Tables are sorted lists of (key, value); an unlisted key reads as the `init` of the value's type.
Registers that the spec derives from other state (SC_VALID_LINES, SHAPE_UNITS_ENABLED, KEY_USED …)
are computed where they are read (Machine/Regs.lean).
-/

namespace Sys2Proof.Machine

/-! ## Sequencer, queues, arrays and vector engine (the state of one context on one unit) -/

/-- An entry of an engine queue (R183, R190): the instruction word, the PC captured at dispatch (R220),
the scalar registers captured at dispatch (R154) and its place in dispatch order. A dependence mark
(R193) is an entry with `mark` set that holds the entries it awaits. `row` is the next row pair of a sweep form (R179). -/
structure QEnt where
  mark   : Bool := false
  w      : W64 := 0
  pc     : Addr := 0
  g      : List (Nat × W64) := []
  seq    : Nat := 0
  awaits : List Nat := []
  row    : Nat := 0
  deriving DecidableEq, Repr

/-- One cell of a matrix array (R80, R81): accumulator, saturated mark, NaN mark. -/
structure Cell where
  acc : W32 := 0
  sat : Bool := false
  nan : Bool := false
  deriving DecidableEq, Repr

/-- The operand data of one k-step in a feeder (R102, R113): 64 element codes of A and of B and, for MX
formats, the 64 scale bytes of each operand's block. `seq` is the entry the data was fetched for, `abytes` and `bbytes` what the elements
take of the feeder's buffers (R112, R120), `blkNo` the 32-element block the k-step lies in. -/
structure KData where
  seq : Nat := 0
  abytes : Nat := 0
  bbytes : Nat := 0
  blkNo : Nat := 0
  a   : List Nat := []
  b   : List Nat := []
  sa  : List Nat := []
  sb  : List Nat := []
  deriving DecidableEq, Repr

/-- State of an accumulator bank (Table 3.5). -/
inductive BankSt where
  | free | opened | draining
  deriving DecidableEq, Repr

/-- An accumulator bank: its state, the tile's M and N, whether it accumulates INT32, its 64 × 64 cells
(row by row), and, while draining, the drain's entry and whether its rows are being written. -/
structure Bank where
  st      : BankSt := .free
  m       : Nat := 0
  n       : Nat := 0
  int     : Bool := false
  cells   : List Cell := []
  ent     : QEnt := {}
  started : Bool := false
  deriving DecidableEq, Repr

/-- A matrix instruction an array has accepted: its entry, the next k-step to issue (R104, R138) and the bank it adds into
(false: bank 0). -/
structure MmCur where
  ent  : QEnt := {}
  k    : Nat := 0
  bank : Bool := false
  deriving DecidableEq, Repr

/-- One matrix array (R102 to R133): the accepted instructions in order, both banks, the feeder's buffers and the
block register, held as the k-steps of the current MX block (R105), newest first. -/
structure ArraySt where
  work : List MmCur := []
  b0   : Bank := {}
  b1   : Bank := {}
  feed : List KData := []
  blk  : List KData := []
  deriving DecidableEq, Repr

/-- A tile register (Table 4.1): 64 × 64 values row by row (an empty list reads as +0), written bit, poison bit. -/
structure Tile where
  v       : List W32 := []
  written : Bool := false
  poison  : Bool := false
  deriving DecidableEq, Repr

/-- What a sequencer waits for (R394). -/
inductive WaitSt where
  | none
  | queues (awaits : List Nat)
  | sleep (gd : Nat) (cond : W64) (deadline : W64)
  | bar (gd level : Nat)
  | halt
  deriving DecidableEq, Repr

/-- Which address space one end of a copy lies in: context addresses, share offsets, rick logical offsets (R423),
a peer's device addresses (R373). -/
inductive Space where
  | ctx | share | rick | remote
  deriving DecidableEq, Repr

/-- One transfer of a mover entry (R362), with the bytes its read returned, or marked `bad` where the read met poison. `row` is the
slot of a stream, or the end of the transfer among the entry's bytes. -/
structure Xfer where
  sp   : Space := .ctx
  sa   : Nat := 0
  dp   : Space := .ctx
  da   : Nat := 0
  len  : Nat := 0
  row  : Nat := 0
  data : List Byte := []
  bad  : Bool := false
  deriving DecidableEq, Repr

/-- What a mover entry is, once the mover has accepted it. -/
inductive MvKind where
  | fresh | copy | list | remote | stream | atom | red | flag | push | seal | pop | sampler | droveSend
  deriving DecidableEq, Repr

/-- An entry of a mover queue with its progress (R361 to R393). The plan is `rows` rows of `rowBytes` bytes;
`row`, `off` stand at the next byte to read. -/
structure MvEnt where
  ent      : QEnt := {}
  kind     : MvKind := .fresh
  desc     : List W64 := []
  sp       : Space := .ctx
  src      : Nat := 0
  dp       : Space := .ctx
  dst      : Nat := 0
  sstride  : Nat := 0
  dstride  : Nat := 0
  rowBytes : Nat := 0
  rows     : Nat := 0
  total    : Nat := 0
  row      : Nat := 0
  off      : Nat := 0
  hint     : Nat := 0
  out      : List Xfer := []
  read     : Nat := 0
  written  : Nat := 0
  acked    : Nat := 0
  slotB    : List (Nat × Nat) := []
  listLeft : Nat := 0
  listAt   : Nat := 0
  fill     : Nat := 0
  release  : Nat := 0
  elem     : Nat := 0
  tag      : Nat := 0
  dev      : Nat := 0
  gath     : List Byte := []
  gathAt   : Nat := 0
  refused  : Nat := 0
  old      : W64 := 0
  flags    : BitVec 9 := 0
  code     : Nat := 0
  detail   : Nat := 0
  stop     : Bool := false
  cancel   : Bool := false
  stalled  : Bool := false
  finished : Bool := false
  deriving DecidableEq, Repr

/-- A cancel fence under way (R386 to R392): its entry, the entries it covers and the bytes wasted so far. -/
structure CancelSt where
  ent    : QEnt := {}
  covers : List Nat := []
  wasted : Nat := 0
  deriving DecidableEq, Repr

/-- One mover queue (R360 to R366): its entries in order, its outstanding limit, its cancel fence. -/
structure MvQ where
  ents   : List MvEnt := []
  limit  : Nat := 32
  cancel : Option CancelSt := none
  deriving DecidableEq, Repr

/-- The sequencer, vector and array state of one context on one unit (Tables 4.1 and 5.1), or of one
instance of a stack program (R335). -/
structure Core where
  g       : List (Nat × W64) := []
  p       : BitVec 8 := 0
  pc      : Addr := 0
  ir      : Option W64 := none
  miss    : Option Nat := none
  pend    : List (Nat × Nat) := []
  aflag   : List (Nat × BitVec 2) := []
  sticky  : W32 := 0
  seq     : Nat := 0
  live    : List (Nat × Nat) := []
  aq0     : List QEnt := []
  aq1     : List QEnt := []
  aq2     : List QEnt := []
  vq      : List QEnt := []
  mq      : List (Nat × MvQ) := []
  sq      : List QEnt := []
  cq      : List QEnt := []
  wait    : WaitSt := .none
  arr     : List (Nat × ArraySt) := []
  v       : List (Nat × List W32) := []
  k       : List (Nat × BitVec 128) := []
  t       : List (Nat × Tile) := []
  lf      : List (Nat × BitVec 9) := []
  cur     : List (Nat × W32) := []
  xln     : Bool := false
  sqHeld  : Bool := false
  mqRr    : Nat := 7
  deriving DecidableEq, Repr

/-! ## Contexts -/

/-- An extent entry (Table 5.5), its fields already cut out. -/
structure Extent where
  kind   : Nat := 0
  r      : Bool := false
  w      : Bool := false
  x      : Bool := false
  a      : Bool := false
  s      : Bool := false
  nrep   : Bool := false
  cbase  : Nat := 0
  size   : Nat := 0
  dbase  : Nat := 0
  stackSet : Nat := 0
  deriving DecidableEq, Repr

/-- A host command that owes a result (R568, R572). -/
structure Job where
  ring  : Nat := 0
  opc   : Nat := 0
  tag   : Nat := 0
  nores : Bool := false
  seq   : Nat := 0
  deriving DecidableEq, Repr

/-- The binding of a context's rick (Table 11.2). -/
structure RickBind where
  fold      : Bool := false
  maxfr     : Nat := 1
  handle    : Nat := 0
  unitGran  : Nat := 0
  ctlOff    : Nat := 0
  foldOff   : Nat := 0
  foldBytes : Nat := 0
  deriving DecidableEq, Repr

/-- A loaded context: its descriptor (Table 5.4), its extents, its completion counters (R419), its rick
binding and what its fault and teardown owe. -/
structure Ctx where
  part     : Nat := 0
  prio     : Nat := 0
  xln      : Bool := false
  swait    : Bool := false
  slice    : Nat := 0
  entryPc  : Nat := 0
  usOff    : Nat := 0
  usSize   : Nat := 0
  ocOff    : Nat := 0
  ocSize   : Nat := 0
  saveOff  : Nat := 0
  units    : List Nat := []
  extents  : List Extent := []
  ctr      : List (Nat × W32) := []
  rick     : Option RickBind := none
  faulted  : Bool := false
  faultEv  : Bool := false
  fkind    : Nat := 0
  fpc      : Nat := 0
  flun     : Nat := 0
  fstack   : Option Nat := none
  fmore    : Nat := 0
  fseq     : Option Nat := none
  stopped  : Bool := false
  unload   : List Job := []
  preempt  : List Job := []
  preemptU : List Nat := []
  deriving DecidableEq, Repr

/-- Resident context states on a unit (Table 5.6). -/
inductive ResSt where
  | ready | running | saving | saved | faulted
  deriving DecidableEq, Repr

/-- One frame of a rick (R425 to R429): base logical offset, bytes pushed, pushes, sealed, end of its trailer, pops under way. -/
structure Frame where
  base   : Nat := 0
  bytes  : Nat := 0
  pushes : Nat := 0
  sealed : Bool := false
  fin    : Nat := 0
  pop    : Nat := 0
  busy   : Nat := 0
  deriving DecidableEq, Repr

/-- A unit's rick pointers and frame records (R423, R432, Table 11.3), oldest frame first. -/
structure RickSt where
  push    : Nat := 0
  tail    : Nat := 0
  sealedN : Nat := 0
  freedN  : Nat := 0
  frames  : List Frame := []
  deriving DecidableEq, Repr

/-- A context resident on a unit: its state (Table 5.6), its registers and queues, when it last left Running,
its signal words (R404), its barrier arrivals and their outcomes (R412, R415), whether it is held behind a quarantined unit (R28),
its rick pointers. -/
structure Res where
  st      : ResSt := .ready
  core    : Core := {}
  left    : Nat := 0
  sig     : List (Nat × W32) := []
  arrived : List Nat := []
  barDone : List (Nat × Nat) := []
  held    : Bool := false
  rick    : RickSt := {}
  deriving DecidableEq, Repr

/-- State of a unit in quarantine (Table 17.7, UNIT_FLT.STATE). -/
inductive QuarSt where
  | inService | quarantined | substituting | retesting | stale | retired
  deriving DecidableEq, Repr

/-- One unit: the context running on it (until its save ends), the resident selected to run after it (R211), its instruction cache
(R186), its UNIT_MAP entry (Table 1.3), its quarantine state and the two state epochs of R637, and the cross-lane network's mode
(R181). -/
structure UnitSt where
  running  : Option Nat := none
  next     : Option Nat := none
  icache   : List (Nat × List Byte) := []
  en       : Bool := true
  spareIn  : Bool := false
  quar     : QuarSt := .inService
  epoch    : W32 := 0
  recEpoch : W32 := 0
  part     : Option Nat := none
  deferred : List (Nat × Nat) := []
  net      : Bool := false
  spareJob : Option Job := none
  spareFrom : W64 := 0
  deriving DecidableEq, Repr

/-- A signal on its way to its target (R405, R406), and the network stop it left from (R60). -/
structure Signal where
  stop   : Nat := 0
  fromU  : Nat := 0
  fromC  : Nat := 0
  op     : Nat := 0
  value  : W32 := 0
  target : W32 := 0
  deriving DecidableEq, Repr

/-! ## Shared caches and stack engines -/

/-- A line of a shared cache (R277 to R284): dirty, the way of its set that it lies in, poisoned, its 128 bytes. -/
structure ScLine where
  dirty  : Bool := false
  way    : Nat := 0
  poison : Bool := false
  data   : List Byte := []
  deriving DecidableEq, Repr

/-- A request in a reorder queue of a pseudo-channel (R303): its line, whether it writes, and when it entered the queue. -/
structure HbmReq where
  line  : Nat := 0
  write : Bool := false
  since : W64 := 0
  deriving DecidableEq, Repr

/-- The reorder queues of the pseudo-channels (R303), two each, and the open row of each bank. -/
structure HbmSt where
  queues  : List (Nat × List HbmReq) := []
  openRow : List (Nat × Nat) := []
  deriving DecidableEq, Repr

/-- The registers of one region's control window (Tables 7.3 and 7.4). -/
structure ScSt where
  hits      : W64 := 0
  misses    : W64 := 0
  atomics   : W64 := 0
  nrepOps   : W64 := 0
  sheafRef  : W64 := 0
  ce        : W64 := 0
  ue        : W64 := 0
  seConf    : W64 := 0
  allocEn   : Bool := true
  rsvErr    : Bool := false
  busy      : Bool := false
  droveWays : Nat := 0
  scrubInt  : Nat := 100
  wayRsv    : List (Nat × BitVec 24) := []
  deriving DecidableEq, Repr

/-- A stack-engine command: accepted at a stack (R321, R327), with the descriptor copied at acceptance. -/
structure SeCmd where
  ctx      : Option Nat := none
  unit     : Nat := 0
  ent      : QEnt := {}
  op       : Nat := 0
  desc     : List W64 := []
  rd       : List (Nat × Nat) := []
  wr       : List (Nat × Nat) := []
  running  : Bool := false
  done     : Bool := false
  stopped  : Bool := false
  code     : Nat := 0
  detail   : Nat := 0
  flags    : BitVec 9 := 0
  emits    : List Bool := []
  setEmit  : Bool := false
  start    : W64 := 0
  job      : Option Job := none
  stream   : Bool := false
  deriving DecidableEq, Repr

/-- An instance of a stack program (R333 to R339): its registers, the code copied for it, its engine-store share. -/
structure Inst where
  active : Bool := false
  core   : Core := {}
  ctx    : Nat := 0
  unit   : Nat := 0
  seq    : Nat := 0
  idx    : Nat := 0
  ninst  : Nat := 0
  base   : Nat := 0
  share  : Nat := 0
  code   : Nat := 0
  bytes  : List Byte := []
  deriving DecidableEq, Repr

/-- A digest registration (R357): device address, length, expected digest, and, for a shard of a weight set, set and index. -/
structure Regn where
  src    : Nat := 0
  len    : Nat := 0
  digest : List Byte := []
  deriving DecidableEq, Repr

/-- One stack and its engine (Tables 8.10, 15.8, 17.7, R314 to R316, R639). -/
structure SeSt where
  cmds       : List SeCmd := []
  inst       : List (Nat × Inst) := []
  cmdsDone   : W64 := 0
  refused    : W64 := 0
  busyNs     : W64 := 0
  busyFrom   : W64 := 0
  ce         : W64 := 0
  ue         : W64 := 0
  scrubInt   : Nat := 24
  scrubPos   : Nat := 0
  digestInt  : Nat := 0
  digestFail : W64 := 0
  conflicts  : W64 := 0
  regns      : List Regn := []
  failed     : Bool := false
  temp       : Nat := 0
  rate       : Nat := 0
  held       : Bool := false
  selfRef    : Bool := false
  hbmCe      : W64 := 0
  hbmUe      : W64 := 0
  rowsSpared : Nat := 0
  rowSpares  : List (Nat × Nat) := []
  bankSpares : List (Nat × Nat) := []
  pcSpares   : List (Nat × Nat) := []
  copying    : Option (Nat × Nat) := none
  blocked    : List Nat := []
  deriving DecidableEq, Repr

/-! ## Training, turns, serving -/

/-- Evaluation window of a partition (Table 11.8). `heldSq` lists the SQ entries that it holds, in the order in which they were held
(R445): unit, context, place in dispatch order. -/
inductive EvalState where
  | closed | quiescing | opened
  deriving DecidableEq, Repr

structure EvalSt where
  st    : EvalState := .closed
  ctxs  : List Nat := []
  heldSq : List (Nat × Nat × Nat) := []
  deriving DecidableEq, Repr

/-- Weight-set states (Table 12.4), with the codes of SET_STAT. -/
inductive SetState where
  | undefined | empty | filling | complete | live | draining
  deriving DecidableEq, Repr

/-- A re-shard tag being received (R464). -/
structure TagRx where
  trans : Nat := 0
  bytes : Nat := 0
  len   : Nat := 0
  whole : Bool := false
  deriving DecidableEq, Repr

/-- A weight set (Tables 12.2 to 12.4) and the state of its shards (Table 16.13; an unlisted shard was never loaded). -/
structure SetSt where
  st       : SetState := .undefined
  epoch    : BitVec 16 := 0
  layout   : Nat := 0
  fmt      : Nat := 0
  offset   : Nat := 0
  stackSet   : Nat := 0
  nshard   : Nat := 0
  sizes    : List (Nat × Nat) := []
  shard0   : List (Nat × Nat) := []
  inflight : Nat := 0
  shards   : List (Nat × Nat) := []
  slot     : Option Nat := none
  warned   : Bool := false
  -- set-receive (R499)
  rxOpen   : Bool := false
  rxDev    : Nat := 0
  rxTags   : Nat := 0
  rxSw     : Bool := false
  rxSlot   : Nat := 0
  rxGot    : List (Nat × TagRx) := []
  deriving DecidableEq, Repr

/-- A plan entry (Table 12.9) with what has been sent and acknowledged. -/
structure PlanEnt where
  src     : Nat := 0
  tag     : Nat := 0
  len     : Nat := 0
  dst     : Nat := 0
  dev     : Nat := 0
  rsvd    : Bool := false
  trans   : Nat := 0
  sent    : Nat := 0
  acked   : Nat := 0
  running : Bool := false
  stuck   : Bool := false
  deriving DecidableEq, Repr

/-- Turn states of a partition (Table 12.8), with the codes of TURN_STAT. -/
inductive TurnState where
  | idle | emitting | gathering | done | held
  deriving DecidableEq, Repr

/-- The turn registers of a partition (Tables 12.6 and 12.7) and its plan. -/
structure TurnSt where
  st        : TurnState := .idle
  cause     : Nat := 0
  armErr    : Bool := false
  armEmit   : Bool := false
  armSend   : Bool := false
  armSwitch : Bool := false
  armPend   : Bool := false
  tgtEpoch  : BitVec 16 := 0
  tgtSlot   : Nat := 0
  tgtSet    : Nat := 0
  emitExp   : Nat := 0
  emitDone  : Nat := 0
  planAddr  : Nat := 0
  planN     : Nat := 0
  rxExp     : Nat := 0
  txAck     : W64 := 0
  rxBytes   : W64 := 0
  plan      : List PlanEnt := []
  tags      : List (Nat × TagRx) := []
  deriving DecidableEq, Repr

/-- A set-send under way (R500). -/
structure SendSt where
  set  : Nat := 0
  plan : List PlanEnt := []
  job  : Job := {}
  deriving DecidableEq, Repr

/-- Drove channel states (Table 12.14, DRV_STAT). -/
inductive DrvState where
  | closed | opened | closing | broken
  deriving DecidableEq, Repr

/-- An entry in transit in a drove (R470, R471). -/
structure DrvEnt where
  rcv   : Nat := 0
  l     : Nat := 0
  bytes : List Byte := []
  unit  : Nat := 0
  q     : Nat := 0
  seq   : Nat := 0
  deriving DecidableEq, Repr

/-- A receiver's control state of a drove channel (R467, R471, R477): FILL, RELEASE and the local indices present above FILL. -/
structure DrvRcv where
  fill    : Nat := 0
  release : Nat := 0
  ahead   : List Nat := []
  deriving DecidableEq, Repr

/-- A send whose next entry waits on credit or transit (R470); `stalled` says that its event has been raised. -/
structure DrvWait where
  unit    : Nat := 0
  q       : Nat := 0
  seq     : Nat := 0
  stalled : Bool := false
  deriving DecidableEq, Repr

/-- A drove channel (Tables 12.11 and 12.14). `waitFrom` is when the first of the entries now waiting began to. -/
structure DrvSt where
  st        : DrvState := .closed
  sreg      : Nat := 0
  rreg      : Nat := 0
  k         : Nat := 4
  log2g     : Nat := 0
  log2slots : Nat := 1
  sigen     : Bool := false
  sigw      : Nat := 0
  tbuf      : Nat := 0
  sctx      : Nat := 0
  rctx      : Nat := 0
  handle    : Nat := 0
  ringOff   : Nat := 0
  ctlOff    : Nat := 0
  rcvUnits  : List Nat := []
  rcv       : List (Nat × DrvRcv) := []
  transit   : List DrvEnt := []
  delivered : W64 := 0
  waitNs    : W64 := 0
  waitFrom  : Option W64 := none
  waits     : List DrvWait := []
  jobs      : List Job := []
  deriving DecidableEq, Repr

/-- One generation of an adapter slot (Tables 13.10 and 13.11). -/
structure AdpGen where
  gen      : BitVec 16 := 0
  rank     : Nat := 16
  fmt      : Nat := 0
  stackSet   : Nat := 0
  offset   : Nat := 0
  size     : Nat := 0
  alpha    : W32 := 0
  inflight : Nat := 0
  warned   : Bool := false
  deriving DecidableEq, Repr

structure AdpSt where
  cur : Option AdpGen := none
  ret : Option AdpGen := none
  deriving DecidableEq, Repr

/-- Stream states of the deadline monitor (Table 13.15), with the codes of DLM_STAT. -/
inductive StrState where
  | closed | waiting | streaming | diverted
  deriving DecidableEq, Repr

/-- A stream (Tables 13.13 to 13.15). -/
structure StreamSt where
  st        : StrState := .closed
  arm       : Bool := false
  fbSlot    : Nat := 0
  ctx       : Nat := 0
  ttft      : Nat := 0
  itl       : Nat := 0
  margin    : Nat := 0
  divOff    : Nat := 0
  batch     : Nat := 0
  fbBind    : Nat := 0
  sigen     : Bool := false
  sigw      : Nat := 0
  tAdm      : W64 := 0
  tLast     : W64 := 0
  ita       : Nat := 0
  intervals : Nat := 0
  reports   : Nat := 0
  reported  : List Nat := []
  last      : Nat := 0
  approach  : Bool := false
  deriving DecidableEq, Repr

/-- A command held by a region's sampling unit (R482). -/
structure SmpCmd where
  unit  : Nat := 0
  ctx   : Nat := 0
  q     : Nat := 0
  ent   : QEnt := {}
  op    : Nat := 0
  desc  : List W64 := []
  row   : Nat := 0
  bad   : Nat := 0
  deriving DecidableEq, Repr

/-- A region's sampling unit (R482, Table 13.17). -/
structure SmpSt where
  cmds     : List SmpCmd := []
  rows     : W64 := 0
  excl     : W64 := 0
  proposed : W64 := 0
  accepted : W64 := 0
  deriving DecidableEq, Repr

/-! ## Rhoef -/

/-- A packet (Tables 14.4 and 14.5). -/
structure Pkt where
  typ  : Nat := 0
  ord  : Bool := false
  vc1  : Bool := false
  hops : Nat := 0
  dst  : Nat := 0
  src  : Nat := 0
  a    : Nat := 0
  b    : W64 := 0
  data : List Byte := []
  lseq : Nat := 0
  tseq : Nat := 0
  deriving DecidableEq, Repr

/-- A link word (Table 14.2): its kind by number in the table's order, and what it carries. -/
structure LinkWord where
  kind : Nat := 0
  args : List Nat := []
  deriving DecidableEq, Repr

/-- Port states (Table 14.3), with the codes of PORT_STAT. -/
inductive PortState where
  | disabled | down | training | up
  deriving DecidableEq, Repr

/-- One Rhoef port (R512 to R519, R523, R644, Tables 14.12 and 17.7). -/
structure PortSt where
  st       : PortState := .disabled
  en       : Bool := false
  nbDev    : Nat := 0
  nbPort   : Nat := 0
  txq      : List Pkt := []
  replayBuf : List Pkt := []
  lseq     : Nat := 0
  rxSeq    : Nat := 0
  rxBad    : Bool := false
  unacked  : Nat := 0
  replays  : List (Nat × Nat) := []
  credits  : List (Nat × Nat) := []
  words    : List LinkWord := []
  kaCount  : Nat := 0
  ansCount : Nat := 0
  fecCe    : W64 := 0
  fecUe    : W64 := 0
  replayC  : W64 := 0
  txBytes  : W64 := 0
  rxBytes  : W64 := 0
  drops    : W64 := 0
  altEn    : Bool := false
  alt      : BitVec 12 := 0
  laneFail : Nat := 15
  spareIn  : Bool := false
  secondLane : Bool := false
  trainWarn : Option W64 := none
  nbStratum : Nat := 255
  offs     : List Int := []
  stamps   : List W64 := []
  deriving DecidableEq, Repr

/-- A packet received and not yet acted on (R527, R530): its command, its place on the link, its type, payload, source and destination, the
trunk it came by, and whether a window admitted it (R559). -/
structure RxPkt where
  c    : Instr
  hdr  : LinkHdr := {}
  typ  : Nat := 0
  n    : Nat := 0
  src  : Nat := 0
  dst  : Nat := 0
  key  : Nat := 0
  ok   : Bool := true
  deriving DecidableEq, Repr

/-- Phases of a collective on this device (Table 14.9). -/
inductive CollPhase where
  | idle | launched | joined | going | final
  deriving DecidableEq, Repr

/-- A stream of a reduction received from one neighbour, or made here (R546 to R549). -/
structure CollIn where
  src   : Nat := 0
  sum   : BitVec 128 := 0
  wsum  : BitVec 128 := 0
  hash  : W64 := 0
  chunks : List Nat := []
  trailer : Bool := false
  tsum  : BitVec 128 := 0
  twsum : BitVec 128 := 0
  thash : W64 := 0
  deriving DecidableEq, Repr

/-- What a subtree's JOIN carries (Table 14.9). -/
structure JoinInfo where
  same   : Nat := 0
  diff   : Nat := 0
  ranks  : List Nat := []
  early  : W64 := 0
  earlyRank : Nat := 0
  late   : W64 := 0
  lateRank  : Nat := 0
  deriving DecidableEq, Repr

/-- The active collective of a group member (R539 to R555). `seq` is the SEQ its packets carry: the root's once OPEN has come. `early` are
DATA and TRAILER that came before GO. -/
structure CollSt where
  phase    : CollPhase := .idle
  unit     : Nat := 0
  ent      : QEnt := {}
  desc     : List W64 := []
  launch   : W64 := 0
  opened   : Bool := false
  rootSig  : W64 := 0
  seq      : Nat := 0
  early    : List Instr := []
  joins    : List (Nat × JoinInfo) := []
  ins      : List CollIn := []
  sums     : List (Nat × BitVec 128) := []
  counts   : List (Nat × Nat) := []
  done     : List Nat := []
  outSum   : BitVec 128 := 0
  outHash  : W64 := 0
  finished : List Nat := []
  bytes    : Nat := 0
  flags    : BitVec 9 := 0
  wovf     : List Nat := []
  nwovf    : Nat := 0
  wnan     : List Nat := []
  nwnan    : Nat := 0
  heard    : W64 := 0
  progress : W64 := 0
  lag      : Nat := 0
  slow     : Nat := 0
  deriving DecidableEq, Repr

/-- A collective group member (Table 14.7) and its status registers (Table 14.12). `opens` are the OPENs held for launches to come (R544),
`tombs` the SEQs of collectives it has left (R552). -/
structure GroupSt where
  defined  : Bool := false
  ctx      : Nat := 0
  rank     : Nat := 0
  nmemb    : Nat := 1
  hasp     : Bool := false
  parent   : Nat := 0
  children : List (Nat × Nat × Nat) := []
  active   : Option CollSt := none
  opens    : List (Nat × W64) := []
  tombs    : List Nat := []
  lastSeq  : Nat := 0
  lastCode : Nat := 0
  lastSlow : Nat := 0
  lastNamed : Nat := 0
  lastLag  : Nat := 0
  deriving DecidableEq, Repr

/-- The fabric block (Table 14.12) outside the ports and groups, and the traffic not yet acknowledged (R531). -/
structure FabSt where
  devId     : Nat := 0xFFFFF
  mode      : Bool := false
  modeErr   : Bool := false
  hold      : Bool := false
  hopBudget : Nat := 16
  collTmo   : Nat := 1000
  trunkErr  : Bool := false
  winErr    : Bool := false
  rtMiss    : W64 := 0
  hopDrop   : W64 := 0
  rxRefused : W64 := 0
  collDone  : W64 := 0
  collFailed : W64 := 0
  collSpoiled : W64 := 0
  collCsum  : W64 := 0
  trunk     : List (Nat × BitVec 12) := []
  trunkSeq  : List (Nat × Nat) := []
  rtRange   : List (Nat × W64) := []
  rtPath    : List (Nat × W64) := []
  winA      : List (Nat × W64) := []
  winS      : List (Nat × W64) := []
  winR      : List (Nat × W64) := []
  unacked   : List (Nat × Nat) := []
  tagN      : Nat := 0
  tags      : List (Nat × Nat × Nat × Nat) := []
  missAt    : Option W64 := none
  hopAt     : Option W64 := none
  rxT       : List (Nat × Nat) := []
  rxHold    : List RxPkt := []
  rxWait    : List RxPkt := []
  deriving DecidableEq, Repr

/-! ## Host port -/

/-- A result not yet wholly written (R575): words 0 to 2, whether they are written, its place. -/
structure Rec where
  w0   : W64 := 0
  w1   : W64 := 0
  w2   : W64 := 0
  body : Bool := false
  deriving DecidableEq, Repr

/-- A submission ring and its result ring (Table 15.8, R565 to R576). -/
structure RingSt where
  base    : Nat := 0
  resBase : Nat := 0
  vec     : Nat := 0
  intEn   : Bool := false
  log2n   : Nat := 4
  en      : Bool := false
  off     : Bool := false
  stopped : Bool := false
  tail    : BitVec 32 := 0
  head    : BitVec 32 := 0
  resHead : BitVec 32 := 0
  resSeq  : BitVec 32 := 0
  zeroPend : Bool := false
  errHead : Bool := false
  errDis  : Bool := false
  errBase : Bool := false
  errDb   : Bool := false
  owed    : List Job := []
  done    : List Rec := []
  deriving DecidableEq, Repr

/-- An event detected and not yet written (R577 to R581). -/
structure Ev where
  code : Nat := 0
  cls  : Nat := 0
  arg0 : W32 := 0
  arg1 : W64 := 0
  time : W64 := 0
  deriving DecidableEq, Repr

/-- The command the device has accepted and not yet carried out (R566, R569): descriptor words and parameter block. -/
structure HostCmd where
  job   : Job := {}
  ws    : List W64 := []
  block : List Byte := []
  since : W64 := 0
  deriving DecidableEq, Repr

/-- The last host read through a BAR: its bytes, and whether they are marked poisoned (R310). -/
structure BarRead where
  data   : List Byte := []
  poison : Bool := false
  deriving DecidableEq, Repr

/-- The host interface (Table 15.8). -/
structure HostSt where
  modules   : BitVec 4 := 0
  cacheEn   : Bool := false
  ioUp      : Bool := false
  link      : Nat := 0
  poisonRx  : Bool := false
  moduleLost : Bool := false
  linkLoss  : Bool := false
  aper      : BitVec 12 := 0
  losses    : W64 := 0
  evqBase   : Nat := 0
  critRsv   : Nat := 16
  evqLog2n  : Nat := 8
  evqHeadErr : Bool := false
  evqBaseErr : Bool := false
  evqEn     : Bool := false
  evqZero   : Bool := false
  downAt    : W64 := 0
  evqHead   : BitVec 32 := 0
  evqSeq    : BitVec 32 := 0
  lost      : List (Nat × Nat) := []
  evqMod    : Nat := 0
  evqIntEn  : Bool := false
  evqVec    : Nat := 0
  t2        : Nat := 85
  t4        : Nat := 95
  holdC     : Nat := 105
  rings     : List (Nat × RingSt) := []
  rr        : Nat := 15
  cur       : Option HostCmd := none
  jobSeq    : Nat := 0
  msixPend  : List Nat := []
  msixLast  : List (Nat × W64) := []
  msixSent  : List Nat := []
  barRead   : BarRead := {}
  snoops    : List Nat := []
  deriving DecidableEq, Repr

/-! ## Trust, repair, time, power -/

/-- The items of a configuration record (Table 16.3): identity, LUNs that the repair map puts on their region's spare site, disabled LUNs, HBM
sparing (0 row, 1 bank, 2 pseudo-channel, with an address), spared lanes of ports, trim values, refresh thresholds. -/
structure CfgRec where
  member   : Nat := 0x0824
  stepping : Nat := 0xB0
  hnn      : Nat := 1
  screen   : Bool := false
  spares   : List Nat := []
  disabled : List Nat := []
  hbm      : List (Nat × Nat) := []
  lanes    : List (Nat × Nat) := []
  trims    : List Nat := []
  t2       : Nat := 85
  t4       : Nat := 95
  holdC    : Nat := 105
  deriving DecidableEq, Repr

/-- A signed object in a keeping-store slot (Tables 16.1 and 16.6); `items` are those of a configuration record. -/
structure KsObj where
  present : Bool := false
  version : Nat := 0
  svn     : Nat := 0
  serial  : W64 := 0
  ok      : Bool := true
  bytes   : List Byte := []
  items   : CfgRec := {}
  deriving DecidableEq, Repr

/-- A repair-supplement entry (R591): sequence number, what was repaired, where, and its MAC. -/
structure SuppEnt where
  seq  : Nat := 0
  kind : Nat := 0
  arg  : Nat := 0
  mac  : List Byte := []
  deriving DecidableEq, Repr

/-- A running shard load (R613 to R620). -/
structure LoadSt where
  set    : Nat := 0
  mode   : Nat := 0
  fdig   : Bool := false
  keyId  : Nat := 0
  key    : List Byte := []
  first  : Nat := 0
  count  : Nat := 0
  src    : Nat := 0
  tags   : Nat := 0
  digs   : Nat := 0
  stat   : Nat := 0
  model  : W64 := 0
  ivPfx  : W64 := 0
  stop   : Bool := false
  job    : Job := {}
  deriving DecidableEq, Repr

/-- A running shard reload (R642). -/
structure ReloadSt where
  set   : Nat := 0
  mode  : Nat := 0
  key   : List Byte := []
  index : Nat := 0
  src   : Nat := 0
  tag   : List Byte := []
  model : W64 := 0
  ivPfx : W64 := 0
  lines : List Nat := []
  stop  : Bool := false
  job   : Job := {}
  deriving DecidableEq, Repr

/-- A content key in a key slot of the I/O dies (R611, R612). -/
structure KeySlot where
  keyId : Nat := 0
  key   : List Byte := []
  deriving DecidableEq, Repr

/-- The keeping store and the trust block (Tables 16.1, 16.2, 16.14). -/
structure TrustSt where
  phase     : Nat := 0
  fail      : Nat := 0
  suppBad   : Bool := false
  cfgSlot   : Bool := false
  fwSlot    : Bool := false
  helper    : List Byte := []
  sealed    : List Byte := []
  cert      : List Byte := []
  kPuf      : List Byte := []
  seed      : List Byte := []
  writes    : Nat := 0
  retest    : List Nat := []
  identOk   : Bool := false
  bootMs    : Nat := 0
  stageAddr : Nat := 0
  stageLen  : Nat := 0
  fwBusy    : Bool := false
  fwCfg     : Bool := false
  fwResult  : Nat := 0
  fwA       : KsObj := { present := true }
  fwB       : KsObj := {}
  cfgA      : KsObj := { present := true }
  cfgB      : KsObj := {}
  supp      : List SuppEnt := []
  fwSvn     : BitVec 32 := 0
  cfgSvn    : BitVec 32 := 0
  kemGen    : BitVec 32 := 0
  suppSeq   : BitVec 32 := 0
  sigNext   : Nat := 0
  serial    : W64 := 0
  keys      : List (Nat × KeySlot) := []
  loads     : List LoadSt := []
  reloads   : List ReloadSt := []
  shardFails : W64 := 0
  deriving DecidableEq, Repr

/-- The faults and repair block (Table 17.7) outside units, ports and stacks, and the steward controllers (R647). -/
structure FltSt where
  arm      : BitVec 5 := 0
  spareUsed : BitVec 16 := 0
  spareFail : BitVec 16 := 0
  beat0    : W64 := 0
  beat1    : W64 := 0
  resets0  : Nat := 0
  resets1  : Nat := 0
  down0    : Bool := false
  down1    : Bool := false
  resetAt  : List (Nat × W64) := []
  heldDown : List Nat := []
  usCe     : W64 := 0
  usUe     : W64 := 0
  parity   : W64 := 0
  clock    : W64 := 0
  notices  : W64 := 0
  reloads  : W64 := 0
  dieOut   : BitVec 8 := 0
  pkgHold  : List Nat := []
  clkFault : List Nat := []
  owed     : List Nat := []
  deriving DecidableEq, Repr

/-- Discipline states (Table 18.3), with the codes of TIME_STAT. -/
inductive Disc where
  | free | acquiring | locked | holdover
  deriving DecidableEq, Repr

/-- Fabric time and its discipline (Table 18.8). -/
structure TimeSt where
  now      : W64 := 0
  upPorts  : BitVec 12 := 0
  ppsOutEn : Bool := false
  src      : Nat := 0
  root     : Bool := false
  upPort   : Option Nat := none
  disc     : Disc := .free
  ppb      : BitVec 32 := 0
  offs     : Int := 0
  good     : Nat := 0
  eRole    : Bool := false
  eBusy    : Bool := false
  eBack    : Bool := false
  eRef     : Bool := false
  ePps     : Bool := false
  ppsOut   : Bool := false
  fromHold : Bool := false
  approach : Bool := false
  deriving DecidableEq, Repr

/-- Package power states (Table 18.6). -/
inductive PwrState where
  | active | saving | standby | off
  deriving DecidableEq, Repr

/-- Clocks, power and temperatures (Table 18.8), supplies and pins (Table 19.3). -/
structure PwrSt where
  st        : PwrState := .saving
  srIdle    : Nat := 100
  v12w      : Nat := 0
  energy    : W64 := 0
  tripped   : Bool := false
  tripStack : Nat := 31
  tripDie   : Nat := 31
  cmdLevel  : List (Nat × Nat) := []
  armedOn   : List Nat := []
  relock    : List Nat := []
  throttle  : List (Nat × Job) := []
  islands   : List Nat := []
  gated     : List Nat := []
  starts    : W64 := 0
  tC        : Nat := 100
  level     : Nat := 0
  tripDieC  : Nat := 125
  tripStackC : Nat := 115
  dieTemp   : List (Nat × Nat) := []
  dieMax    : List (Nat × Nat) := []
  trims     : List Nat := []
  sensors   : List Nat := []
  thermtrip : Bool := false
  v12       : Bool := true
  v3        : Bool := true
  refclk    : Bool := true
  job       : Option Job := none
  jobTo     : PwrState := .active
  deriving DecidableEq, Repr

/-! ## The device -/

/-- The state of one YM-G824, and the queue of commands waiting for it.
`mem` holds every byte of the device address space (HBM, unit-store windows, host memory) and, at keys
from 2^48, the operand caches and engine stores, which no device address reaches.
`poison` lists the poisoned granules by their first byte (R272, R275, R308). -/
structure State where
  pending  : List Instr := []
  mem      : List Host.Cell := []
  poison   : List Nat := []
  count    : List (Nat × Nat) := []
  heldData : List Nat := []
  lines    : List (Nat × ScLine) := []
  hbm      : HbmSt := {}
  sc       : List (Nat × ScSt) := []
  units    : List (Nat × UnitSt) := []
  ctxs     : List (Nat × Ctx) := []
  res      : List (Nat × Res) := []
  order    : Nat := 0
  signals  : List Signal := []
  se       : List (Nat × SeSt) := []
  smp      : List (Nat × SmpSt) := []
  eval     : List (Nat × EvalSt) := []
  sets     : List (Nat × SetSt) := []
  slots    : List (Nat × Nat) := []
  turns    : List (Nat × TurnSt) := []
  sends    : List SendSt := []
  drv      : List (Nat × DrvSt) := []
  adp      : List (Nat × AdpSt) := []
  streams  : List (Nat × StreamSt) := []
  dlmEn    : Bool := true
  diverts  : W64 := 0
  stray    : W64 := 0
  ports    : List (Nat × PortSt) := []
  groups   : List (Nat × GroupSt) := []
  fab      : FabSt := {}
  host     : HostSt := {}
  evs      : List Ev := []
  trust    : TrustSt := {}
  flt      : FltSt := {}
  time     : TimeSt := {}
  pwr      : PwrSt := {}
  freeCtr  : Nat := 0
  deriving DecidableEq, Repr

/-- Why the device stops. No meaning stops it: everything the spec describes ends in a next state, and the
faults the spec names (Table 5.9) are context faults, which are state. The constructor is there so that the
type of a stop has a name; nothing raises it. Safe. -/
inductive Fault where
  | neverRaised
  deriving DecidableEq, Repr

/-- Why a command is turned away. -/
inductive Refusal where
  /-- The command has no meaning yet; raised by an arm of Machine/Dispatch.lean only. Safe. -/
  | notModelled (mnemonic : String)
  deriving DecidableEq, Repr

/-- The device right after reset: step 1 of Table 16.8 (Standby-boot), every register at its reset value,
nothing loaded, every store zero, an empty command queue. Where no rule states a value: log entries 2, 3 and 4 (DESIGN CHOICE). -/
def State.reset : State := {}

end Sys2Proof.Machine
end

