-- ==== Sys2Proof/Machine/Ops.lean ====
section
/-!
DEFINITION. Sys2Proof/Machine/Ops.lean: the named operations over State that the meanings share: fields and tables, bytes and
granules (R272 to R275, R308 to R311, R710), the home shared caches (R277 to R286), extents and window guards (R205 to R208, R45,
R46), harts and their contexts, events (R577 to R581), results (R573 to R576) and the raising of a context fault (R219, R220).
-/

namespace Sys2Proof.Machine

/-- What a meaning answers. -/
abbrev Out := Host.Outcome State Fault Refusal

/-! ## Numbers and little-endian bytes (R18) -/

/-- The n low bytes of x, least significant first. -/
def leBytes : Nat → Nat → List Byte
  | 0, _ => []
  | n + 1, x => BitVec.ofNat 8 x :: leBytes n (x / 256)

/-- The number a list of bytes spells, least significant first. -/
def leNat : List Byte → Nat
  | [] => 0
  | b :: t => b.toNat + 256 * leNat t

/-- n equal bytes. -/
def zeros (n : Nat) : List Byte := List.replicate n 0

/-- The words of a descriptor: 64-bit, little-endian. -/
def leWords : Nat → List Byte → List W64
  | 0, _ => []
  | n + 1, l => BitVec.ofNat 64 (leNat (l.take 8)) :: leWords n (l.drop 8)

/-- Word i of a descriptor, 0 beyond its end. -/
def wd (l : List W64) (i : Nat) : W64 := l.getD i 0

/-- Field [hi:lo] of word i of a descriptor. -/
def wf (l : List W64) (i hi lo : Nat) : Nat := fld (wd l i) hi lo

/-- Parity of a number of n bits. -/
def parity : Nat → Nat → Nat
  | 0, _ => 0
  | n + 1, x => (x % 2 + parity n (x / 2)) % 2

/-- Number of set bits among the n low bits. -/
def popcount : Nat → Nat → Nat
  | 0, _ => 0
  | n + 1, x => x % 2 + popcount n (x / 2)

/-- The set bits of x among its n low bits, ascending. -/
def bitList (n x : Nat) : List Nat := (List.range n).filter (fun i => x.testBit i)

/-- a is at or behind b in 32-bit serial arithmetic: (b − a) mod 2^32 < 2^31. -/
def serialLe32 (a b : Nat) : Bool := decide ((b + 2 ^ 32 - a % 2 ^ 32) % 2 ^ 32 < 2 ^ 31)

/-- (a − b) mod 2^n. -/
def subMod (n a b : Nat) : Nat := (a + 2 ^ n - b % 2 ^ n) % 2 ^ n

/-! ## Raw bytes by device address -/

def hbmEnd : Nat := 0x030000000000
def scWin : Nat := 0x400000000000
def usWin : Nat := 0x500000000000
def usWinEnd : Nat := 0x500100000000
def regWin : Nat := 0x600000000000
def hostWin : Nat := 0x800000000000
def addrEnd : Nat := 0x1000000000000
/-- Where the model keeps the operand caches, which have no device address. (Log entry 2: DESIGN CHOICE.) -/
def ocBase : Nat := 0x1000000000000
/-- Where the model keeps the engine stores, which have no device address. (Log entry 2: DESIGN CHOICE.) -/
def esBase : Nat := 0x2000000000000

def isHbm (a : Nat) : Bool := decide (a < hbmEnd)
def isUs (a : Nat) : Bool := decide (usWin ≤ a) && decide (a < usWinEnd)
def isHost (a : Nat) : Bool := decide (hostWin ≤ a) && decide (a < addrEnd)
def isScWin (a : Nat) : Bool := decide (scWin ≤ a) && decide (a < scWin + 0x100000)
/-- Unit-store window of a unit (R44). -/
def usAddr (u off : Nat) : Nat := usWin + u * 0x1000000 + off
def ocAddr (u off : Nat) : Nat := ocBase + u * 0x100000 + off
def esAddr (st off : Nat) : Nat := esBase + st * 0x800000 + off
def stackBase (st : Nat) : Nat := st * 0x2000000000
def stackOf (a : Nat) : Nat := a / 0x2000000000

/-- The granule that carries one poison mark: a 32-byte bank word (R272, R275), a 128-byte line (R308), a 64-byte line of the
host's (R563). -/
def granSize (a : Nat) : Nat := if isHbm a then 128 else if isHost a then 64 else 32

/-- Log entry 2: DESIGN CHOICE. -/
def memByte (s : State) (a : Nat) : Byte := Tbl.get 0 s.mem a

/-- Whether byte a lies on a failed stack (R626). -/
def addrFailed (s : State) (a : Nat) : Bool := isHbm a && (Tbl.get {} s.se (stackOf a)).failed

/-- Whether the granule that holds byte a is poisoned; a line of a failed stack reads as poisoned (R626). -/
def poisoned (s : State) (a : Nat) : Bool := s.poison.contains (a / granSize a * granSize a) || addrFailed s a

def memBytes (s : State) (a n : Nat) : List Byte := (List.range n).map (fun i => memByte s (a + i))

/-- Writes bytes at rising addresses. (Log entry 2: DESIGN CHOICE.) -/
def putBytes (m : List Host.Cell) (a : Nat) : List Byte → List Host.Cell
  | [] => m
  | b :: t => putBytes (Tbl.set 0 m a b) (a + 1) t

/-- The pieces of a write, cut at multiples of g: each a start and its bytes. -/
def cutGran (g : Nat) : Nat → Nat → List Byte → List (Nat × List Byte)
  | 0, _, _ => []
  | fuel + 1, a, bs =>
    if bs.isEmpty then [] else
      let k := g - a % g
      (a, bs.take k) :: cutGran g fuel (a + k) (bs.drop k)

/-- The granule starts that the range [a, a + n) touches. -/
def granules (g a n : Nat) : List Nat :=
  if n = 0 then [] else (List.range ((a + n - 1) / g - a / g + 1)).map (fun i => (a / g + i) * g)

/-! ## Clock islands (R29, R50, R666 to R668) -/

def unitOf (s : State) (u : Nat) : UnitSt := Tbl.get {} s.units u
def setUnit (s : State) (u : Nat) (x : UnitSt) : State := { s with units := Tbl.put s.units u x }
def updUnit (s : State) (u : Nat) (f : UnitSt → UnitSt) : State := setUnit s u (f (unitOf s u))
def regionOf (u : Nat) : Nat := u / 16
def clusterOf (u : Nat) : Nat := u / 4
def dieOf (u : Nat) : Nat := u / 32

/-- The compute dies have power (Table 18.6). -/
def powered (s : State) : Bool := s.pwr.st == .active || s.pwr.st == .saving

/-- A die out of service (R41). -/
def dieOutOf (s : State) (d : Nat) : Bool := s.flt.dieOut.getLsbD d

/-- The island a unit's clock comes from (R23, R50): its cluster's, or the one of its region's spare site, numbered 64 + region. -/
def islandOf (s : State) (u : Nat) : Nat := if (unitOf s u).spareIn then 64 + regionOf u else clusterOf u
def islandRegion (i : Nat) : Nat := if i < 64 then i / 4 else i - 64
def islandOn (s : State) (i : Nat) : Bool := s.pwr.islands.contains i

/-- An island can start: the compute dies have power, its region is not gated, its die is in service and the reference clock runs. -/
def islandReady (s : State) (i : Nat) : Bool :=
  powered s && !(s.pwr.gated.contains (islandRegion i)) && !(dieOutOf s (islandRegion i / 2)) && s.pwr.refclk

/-- An island starts on demand (R29, R667); its clock monitor starts afresh. (Log entry 92: DESIGN CHOICE.) -/
def startIsland (s : State) (i : Nat) : State :=
  if islandOn s i || !(islandReady s i) then s
  else { s with pwr := { s.pwr with islands := NSet.ins s.pwr.islands i, starts := s.pwr.starts + 1 }
                flt := { s.flt with clkFault := NSet.del s.flt.clkFault i } }

/-- A target's reserved bits [15:8] are ignored (R405). -/
def sigTarget (v : W32) : W32 := v &&& 0xFFFF00FF

/-- The network stop that serves a unit (R55): its cluster's, or its region's service stop, numbered 64 + region, for a spare. -/
def unitStop (s : State) (u : Nat) : Nat := islandOf s u

/-- Fields of a target (Table 10.3). -/
def tgCtx (v : W32) : Nat := v.toNat / 2 ^ 20
def tgWord (v : W32) : Nat := v.toNat / 2 ^ 16 % 16
def tgLun (v : W32) : Nat := v.toNat % 256

/-- Two signals go from one stop to one stop: the later stays behind (R60, R409). (Log entry 104: DEDUCED.) -/
def sameWay (s : State) (g e : Signal) : Bool := e.stop == g.stop && unitStop s (tgLun e.target) == unitStop s (tgLun g.target)

/-- An access reaches the unit store that byte a lies in: its unit's island runs (R29, R667). (Log entry 92: DESIGN CHOICE.) -/
def reachStore (s : State) (a : Nat) : State :=
  if isUs a then startIsland s (islandOf s ((a - usWin) / 0x1000000)) else s

/-- The held-data bit of the block a unit-store byte lies in (R37). -/
def holdBit (s : State) (a : Nat) : State :=
  if isUs a then { s with heldData := NSet.ins s.heldData ((a - usWin) / 0x1000000 * 2048 + (a % 0x800000) / 4096) } else s

/-- One piece of a write, within one granule (R274, R311, R710): a whole granule takes the bytes and is clean; a poisoned
granule written in part loses them. The Bool says that bytes were lost. -/
def rawPiece (s : State) (a : Nat) (bs : List Byte) : State × Bool :=
  let g := granSize a
  let b := a / g * g
  let full := bs.length == g
  if poisoned s a && (!full || addrFailed s a) then (s, true)
  else
    let s := holdBit (reachStore s a) a
    ({ s with
        mem := putBytes s.mem a bs
        poison := if full then NSet.del s.poison b else s.poison
        count := if isHbm a then Tbl.del s.count (a / 128) else s.count }, false)

/-- A write beneath the caches, granule by granule (R710). -/
def rawWrite (s : State) (a : Nat) (bs : List Byte) : State × Bool :=
  (cutGran (granSize a) (bs.length / granSize a + 2) a bs).foldl
    (fun (x : State × Bool) p => let r := rawPiece x.1 p.1 p.2; (r.1, x.2 || r.2)) (s, false)

/-- Whether a range beneath the caches holds a poisoned granule. -/
def rawPoison (s : State) (a n : Nat) : Bool :=
  (granules (granSize a) a n).any (fun b => poisoned s b)

/-- A device write to host memory: a poisoned line's mark goes or stays as the host decides (R562, R563). (Log entry 71: DEDUCED.) -/
def hostPiece (s : State) (a : Nat) (bs : List Byte) : State :=
  let b := a / 64 * 64
  let s' := { s with mem := putBytes s.mem a bs }
  if poisoned s a then
    { s' with poison := if Config.hostClears s.freeCtr then NSet.del s.poison b else s.poison, freeCtr := s.freeCtr + 1 }
  else s'

def hostWrite (s : State) (a : Nat) (bs : List Byte) : State :=
  (cutGran 64 (bs.length / 64 + 2) a bs).foldl (fun s p => hostPiece s p.1 p.2) s

/-- Writes zeros over [lo, lo + n): the bytes, their poison and their metadata go. -/
def zeroRange (s : State) (lo n : Nat) : State :=
  { s with
    mem := s.mem.filter (fun c => decide (c.1 < lo) || decide (lo + n ≤ c.1))
    poison := s.poison.filter (fun b => decide (b < lo) || decide (lo + n ≤ b))
    count := s.count.filter (fun c => decide (c.1 * 128 < lo) || decide (lo + n ≤ c.1 * 128)) }

/-! ## HBM: addresses within a stack (R302) and the reorder queues (R303 to R305) -/

/-- The pseudo-channel of an HBM address. -/
def hbmPc (a : Nat) : Nat := (a / 2 ^ 7 % 64) ^^^ (a / 2 ^ 22 % 64)
/-- The line within its 1 KiB row. -/
def hbmColumn (a : Nat) : Nat := a / 2 ^ 13 % 8
/-- The row within its bank. -/
def hbmRow (a : Nat) : Nat := a % 2 ^ 37 / 2 ^ 22

/-- The bank of an HBM address within its stack (R302): pseudo-channel, stack identifier, bank group and bank as one number. -/
def hbmBank (a : Nat) : Nat :=
  ((hbmPc a * 4 + a / 2 ^ 20 % 4) * 4 + ((a / 2 ^ 16 % 4) ^^^ (a / 2 ^ 28 % 4))) * 4 + a / 2 ^ 18 % 4

/-- A bank among those of all stacks. -/
def bankKey (a : Nat) : Nat := stackOf a * 4096 + hbmBank a

/-- The reorder queue of an address: of its pseudo-channel, for the home slices or, `inner`, for the stack engine's path. -/
def hbmKey (a : Nat) (inner : Bool) : Nat := (stackOf a * 64 + hbmPc a) * 2 + inner.toNat

/-- A request has waited 500 ns. -/
def overdue (now : W64) (r : HbmReq) : Bool := decide (8000 ≤ (now - r.since).toNat)

/-- A request finds its row open. -/
def rowOpen (b : HbmSt) (r : HbmReq) : Bool := Tbl.find? b.openRow (bankKey (r.line * 128)) == some (hbmRow (r.line * 128))

/-- The requests of a queue before which none of the same line stands (R304). -/
def lineHeads : List HbmReq → List HbmReq
  | [] => []
  | r :: t => r :: (lineHeads t).filter (fun q => q.line != r.line)

/-- The requests that p accepts, or all of them where it accepts none. -/
def prefer (p : HbmReq → Bool) (l : List HbmReq) : List HbmReq := if l.any p then l.filter p else l

/-- The next request of a queue (R303): one that has waited long, oldest first; else one to an open row; of these a read ahead of a write
unless 32 writes are queued; of these the oldest. -/
def nextReq (now : W64) (b : HbmSt) (q : List HbmReq) : Option HbmReq :=
  let c := lineHeads q
  match c.find? (overdue now) with
  | some r => some r
  | none =>
    let o := prefer (rowOpen b) c
    (if 32 ≤ (q.filter (·.write)).length then o else prefer (fun r => !r.write) o).head?

/-- A reorder queue puts its next request to the DRAM, which opens its row. -/
def serveQueue (now : W64) (b : HbmSt) (key : Nat) : HbmSt :=
  let q := Tbl.get [] b.queues key
  match nextReq now b q with
  | none => b
  | some r =>
    { queues := Tbl.set [] b.queues key (q.erase r), openRow := Tbl.put b.openRow (bankKey (r.line * 128)) (hbmRow (r.line * 128)) }

/-- A request enters its reorder queue of 48; a full queue serves one first. (Log entry 101: DESIGN CHOICE.) -/
def enqueueReq (now : W64) (b : HbmSt) (key : Nat) (r : HbmReq) : HbmSt :=
  let b1 := if 48 ≤ (Tbl.get [] b.queues key).length then serveQueue now b key else b
  { b1 with queues := Tbl.set [] b1.queues key (Tbl.get [] b1.queues key ++ [r]) }

/-- A home slice or, `inner`, the stack engine's path asks for the line of byte a. (Log entry 101: DESIGN CHOICE.) -/
def hbmRequest (s : State) (a : Nat) (inner write : Bool) : State :=
  { s with hbm := if isHbm a then enqueueReq s.time.now s.hbm (hbmKey a inner) { line := a / 128, write := write, since := s.time.now }
                  else s.hbm }

/-- The DRAM of a pseudo-channel serves the external queue, and the internal one twice while the external one is empty (R305). -/
def serveChannel (now : W64) (b : HbmSt) (ch : Nat) : HbmSt :=
  serveQueue now (serveQueue now b (if (Tbl.get [] b.queues (ch * 2)).isEmpty then ch * 2 + 1 else ch * 2)) (ch * 2 + 1)

/-- n line times of every pseudo-channel that has requests. (Log entry 101: DESIGN CHOICE.) -/
def serveHbm (now : W64) : Nat → HbmSt → HbmSt
  | 0, b => b
  | n + 1, b => serveHbm now n ((b.queues.map (fun q => q.1 / 2)).eraseDups.foldl (serveChannel now) b)

/-- Whether a stack takes no access to byte a: it holds, sleeps, or the bank is under repair (R316, R670, R639). -/
def stackWaits (s : State) (a : Nat) : Bool :=
  let e := Tbl.get {} s.se (stackOf a)
  e.held || e.selfRef || e.blocked.contains (hbmBank a)

/-! ## The home shared caches -/

/-- R277: the home region of an HBM address. -/
def homeRegion (a : Nat) : Nat := 2 * ((a / 2 ^ 37) / 3) + parity 9 (a / 4096)

/-- R277: the slice of its home region in which an HBM address has its home. -/
def homeSlice (a : Nat) : Nat := (a / 2 ^ 7 % 4) ^^^ (a / 2 ^ 13 % 4)

def scOf (s : State) (r : Nat) : ScSt := Tbl.get {} s.sc r
def setSc (s : State) (r : Nat) (x : ScSt) : State := { s with sc := Tbl.put s.sc r x }
def updSc (s : State) (r : Nat) (f : ScSt → ScSt) : State := setSc s r (f (scOf s r))

def lineOf (s : State) (k : Nat) : Option ScLine := Tbl.find? s.lines k

/-- The 128 bytes of a line beneath the cache. -/
def hbmLine (s : State) (k : Nat) : List Byte := memBytes s (k * 128) 128

/-- Counts one access: served without an HBM read, or with one (Table 7.3), which enters the reorder queue. -/
def countAccess (s : State) (k : Nat) (hit : Bool) : State :=
  let s1 := if hit then s else hbmRequest s (k * 128) false false
  updSc s1 (homeRegion (k * 128)) (fun x => if hit then { x with hits := x.hits + 1 } else { x with misses := x.misses + 1 })

/-- Whether the partition has ways reserved in a region (R282). -/
def hasWays (s : State) (r : Nat) (part : Option Nat) : Bool :=
  match part with
  | none => false
  | some p => Tbl.get 0 (scOf s r).wayRsv p != 0

/-- A way is reserved for some partition. -/
def wayReserved (x : ScSt) (w : Nat) : Bool := x.wayRsv.any (fun p => p.2.getLsbD w)

/-- The ways an access may allocate in (R282): those of its partition's reservation for PIN, else those neither reserved nor drove ways. -/
def allocWays (s : State) (r hint : Nat) (part : Option Nat) : List Nat :=
  let x := scOf s r
  if hint == 2 && hasWays s r part then bitList 24 (Tbl.get 0 x.wayRsv (part.getD 0)).toNat
  else (List.range (24 - x.droveWays)).filter (fun w => !(wayReserved x w))

/-- Two lines have their home in one slice. -/
def sameSlice (j k : Nat) : Bool := homeRegion (j * 128) == homeRegion (k * 128) && homeSlice (j * 128) == homeSlice (k * 128)

/-- The lines of the slice of line k in way w. -/
def inWay (s : State) (k w : Nat) : List (Nat × ScLine) := s.lines.filter (fun p => p.2.way == w && sameSlice p.1 k)

/-- The line that holds way w of the set of line k. -/
def wayHolder (s : State) (k w : Nat) : Option (Nat × ScLine) :=
  (inWay s k w).find? (fun p => Config.scSet p.1 % 4096 == Config.scSet k % 4096)

/-- Writes a line's bytes to HBM: a full-line write, which clears poison there unless the line is itself poisoned (R309,
R311, R312). The line's contribution count goes with it. -/
def writeBack (s : State) (k : Nat) (l : ScLine) : State :=
  { hbmRequest s (k * 128) false true with
    mem := putBytes s.mem (k * 128) ((List.range 128).map (fun i => l.data.getD i 0))
    poison := if l.poison then NSet.ins s.poison (k * 128) else NSet.del s.poison (k * 128) }

/-- A line leaves its slice, written back where it is dirty. -/
def evictLine (s : State) (p : Nat × ScLine) : State :=
  let s1 := if p.2.dirty then writeBack s p.1 p.2 else s
  { s1 with lines := Tbl.del s1.lines p.1 }

/-- The ways that line k may take, whose line can leave: not a dirty one of a stack that takes no access (R316). (Log entry 102: DESIGN CHOICE.) -/
def openWays (s : State) (k hint : Nat) (part : Option Nat) : List Nat :=
  (allocWays s (homeRegion (k * 128)) hint part).filter (fun w => match wayHolder s k w with
    | some p => !(p.2.dirty && stackWaits s (p.1 * 128))
    | none => true)

/-- Puts line k into way w. -/
def putLine (s : State) (k w : Nat) (l : ScLine) : State := { s with lines := Tbl.put s.lines k { l with way := w } }

/-- Puts a line into its home slice (Table 7.2, R282): a way that is free in the slice, else one that is free in the set, else the way
of a line that is replaced. While ALLOC_EN is 0 the line is left out (Table 7.4). (Log entry 102: DESIGN CHOICE.) -/
def allocLine (s : State) (k : Nat) (hint : Nat) (part : Option Nat) (l : ScLine) : State :=
  let r := homeRegion (k * 128)
  if (scOf s r).allocEn then
    match (allocWays s r hint part).find? (fun w => (inWay s k w).isEmpty) with
    | some w => putLine s k w l
    | none =>
      let ws := openWays s k hint part
      match ws.find? (fun w => (wayHolder s k w).isNone) with
      | some w => putLine s k w l
      | none =>
        let w := ws.getD (Config.scVictim s.freeCtr % ws.length) 24
        let s1 : State := { s with freeCtr := s.freeCtr + 1 }
        match wayHolder s k w with
        | some p => putLine (evictLine s1 p) k w l
        | none => if l.dirty then writeBack s1 k l else s1
  else s

/-- A read of a line over the unit path (R278, R310, Table 7.2): its bytes, and whether it is poisoned. -/
def unitReadLine (s : State) (k : Nat) (hint : Nat) (part : Option Nat) : State × List Byte × Bool :=
  if addrFailed s (k * 128) then (countAccess s k false, hbmLine s k, true)
  else match lineOf s k with
  | some l => (countAccess s k true, l.data, l.poison)
  | none =>
    let s1 := countAccess s k false
    let d := hbmLine s k
    if poisoned s (k * 128) then (s1, d, true)
    else if hint = 1 then (s1, d, false)
    else (allocLine s1 k hint part { data := d }, d, false)

/-- Overwrites bytes of a line from an offset, as far as they lie in it. -/
def spliceBytes (d : List Byte) (off : Nat) (bs : List Byte) : List Byte :=
  (d.take off ++ bs ++ d.drop (off + bs.length)).take d.length

/-- A write of one piece of a line over the unit path (R278, R280, R311, Table 7.2). The Bool says the bytes were lost. -/
def unitWriteLine (s : State) (k off : Nat) (bs : List Byte) (hint : Nat) (part : Option Nat) : State × Bool :=
  let s0 := { s with count := Tbl.del s.count k }
  if addrFailed s (k * 128) then (s, true)
  else if bs.length = 128 then
    let s1 := countAccess s0 k true
    if hint = 1 then
      ((rawPiece (hbmRequest { s1 with lines := Tbl.del s1.lines k } (k * 128) false true) (k * 128) bs).1, false)
    else match lineOf s k with
      | some l => ({ s1 with lines := Tbl.put s1.lines k (ScLine.mk true l.way false bs) }, false)
      | none =>
        if (scOf s (homeRegion (k * 128))).allocEn then
          (allocLine s1 k hint part { dirty := true, data := bs }, false)
        else ((rawPiece (hbmRequest s1 (k * 128) false true) (k * 128) bs).1, false)
  else match lineOf s k with
    | some l =>
      if l.poison then (s, true)
      else
        let s1 := countAccess s0 k true
        let l1 : ScLine := { l with dirty := true, data := spliceBytes l.data off bs }
        ({ s1 with lines := Tbl.put s1.lines k l1 }, false)
    | none =>
      if poisoned s (k * 128) then (s, true)
      else
        let s1 := countAccess s0 k false
        if (scOf s (homeRegion (k * 128))).allocEn then
          (allocLine s1 k hint part { dirty := true, data := spliceBytes (hbmLine s k) off bs }, false)
        else ((rawPiece (hbmRequest s1 (k * 128) false true) (k * 128 + off) bs).1, false)

/-- Writes back the dirty lines that meet [a, a + n) and keeps them valid and clean. -/
def cleanRange (s : State) (a n : Nat) : State :=
  s.lines.foldl (fun s (p : Nat × ScLine) =>
    if p.2.dirty && decide (a < p.1 * 128 + 128) && decide (p.1 * 128 < a + n) then
      let s := writeBack s p.1 p.2
      { s with lines := Tbl.put s.lines p.1 { p.2 with dirty := false } }
    else s) s

/-- Invalidates the clean lines that meet [a, a + n). -/
def dropClean (s : State) (a n : Nat) : State :=
  { s with lines := s.lines.filter (fun p =>
      p.2.dirty || decide (p.1 * 128 + 128 ≤ a) || decide (a + n ≤ p.1 * 128)) }

/-! ## The registers of a control window (Tables 7.3 and 7.4) -/

/-- The valid lines of region r, or those of them now in reserved ways. -/
def validLines (s : State) (r : Nat) (pinned : Bool) : Nat :=
  (s.lines.filter (fun p => homeRegion (p.1 * 128) == r && (!pinned || wayReserved (scOf s r) p.2.way))).length

/-- The 64-bit register at an offset of region r's control window; an offset not listed reads as zero. -/
def scReg (s : State) (r off : Nat) : W64 :=
  let x := scOf s r
  match off with
  | 0x0000 => BitVec.ofNat 64 r
  | 0x0008 => x.hits
  | 0x0010 => x.misses
  | 0x0018 => x.atomics
  | 0x0020 => x.nrepOps
  | 0x0028 => x.sheafRef
  | 0x0030 => x.ce
  | 0x0038 => x.ue
  | 0x0040 => x.seConf
  | 0x0048 => BitVec.ofNat 64 (validLines s r false)
  | 0x0050 => BitVec.ofNat 64 (validLines s r true)
  | 0x1000 => BitVec.ofNat 64 ((if x.rsvErr then 16 else 0) + (if x.allocEn then 1 else 0))
  | 0x1010 => if x.busy then 1 else 0
  | 0x1018 => BitVec.ofNat 64 x.droveWays
  | 0x1020 => BitVec.ofNat 64 x.scrubInt
  | _ =>
    if 0x1100 ≤ off ∧ off < 0x1300 then BitVec.ofNat 64 (Tbl.get 0 x.wayRsv ((off - 0x1100) / 8)).toNat else 0

/-- One byte of a control window. -/
def scWinByte (s : State) (a : Nat) : Byte :=
  let o := a - scWin
  BitVec.ofNat 8 ((scReg s (o / 0x10000) (o % 0x10000 / 8 * 8)).toNat >>> (8 * (o % 8)))

/-! ## Reads and writes over the unit path and from the host -/

/-- HP_ERR.POISON_RX: the host returned poisoned data to a device read (R563). (Log entry 71: DEDUCED.) -/
def markRx (s : State) (a n : Nat) : State :=
  if isHost a && rawPoison s a n then { s with host := { s.host with poisonRx := true } } else s

/-- A read of a piece within one line or granule: its bytes, and whether it met poison. -/
def devReadPiece (s : State) (a n : Nat) (hint : Nat) (part : Option Nat) : State × List Byte × Bool :=
  if isHbm a then
    let r := unitReadLine s (a / 128) hint part
    (r.1, (r.2.1.drop (a % 128)).take n, r.2.2)
  else if isScWin a then (s, (List.range n).map (fun i => scWinByte s (a + i)), false)
  else (reachStore (markRx s a n) a, memBytes s a n, rawPoison s a n)

/-- The pieces of a range, cut at multiples of g: each a start and a length. -/
def cutRange (g : Nat) : Nat → Nat → Nat → List (Nat × Nat)
  | 0, _, _ => []
  | fuel + 1, a, n =>
    if n = 0 then [] else
      let k := min n (g - a % g)
      (a, k) :: cutRange g fuel (a + k) (n - k)

/-- A read over the unit path. The Bool says that poison was met, in which case the bytes are no data (R273, R310). -/
def devRead (s : State) (a n : Nat) (hint : Nat) (part : Option Nat) : State × List Byte × Bool :=
  (cutRange 128 (n / 128 + 2) a n).foldl
    (fun (x : State × List Byte × Bool) p =>
      let r := devReadPiece x.1 p.1 p.2 hint part
      (r.1, x.2.1 ++ r.2.1, x.2.2 || r.2.2)) (s, [], false)

/-- A write over the unit path. The Bool says that bytes were lost to poison (R710). A write to a control window's page 0 is
ignored (R270). -/
def devWrite (s : State) (a : Nat) (bs : List Byte) (hint : Nat) (part : Option Nat) : State × Bool :=
  if isHbm a then
    (cutGran 128 (bs.length / 128 + 2) a bs).foldl
      (fun (x : State × Bool) p =>
        let r := unitWriteLine x.1 (p.1 / 128) (p.1 % 128) p.2 hint part
        (r.1, x.2 || r.2)) (s, false)
  else if isScWin a then (s, false)
  else if isHost a then (hostWrite s a bs, false)
  else rawWrite s a bs

/-- A byte as the unit path sees it, changing nothing (for evaluation of what memory holds). -/
def viewByte (s : State) (a : Nat) : Byte :=
  if isHbm a then
    match lineOf s (a / 128) with
    | some l => l.data.getD (a % 128) 0
    | none => memByte s a
  else memByte s a

/-! ## Units, contexts and residents -/

def ctxOf (s : State) (c : Nat) : Option Ctx := Tbl.find? s.ctxs c
def setCtx (s : State) (c : Nat) (x : Ctx) : State := { s with ctxs := Tbl.put s.ctxs c x }
def updCtx (s : State) (c : Nat) (f : Ctx → Ctx) : State :=
  match ctxOf s c with
  | none => s
  | some x => setCtx s c (f x)
def resKey (u c : Nat) : Nat := u * 4096 + c
def resOf (s : State) (u c : Nat) : Option Res := Tbl.find? s.res (resKey u c)
def setRes (s : State) (u c : Nat) (x : Res) : State := { s with res := Tbl.put s.res (resKey u c) x }
def updRes (s : State) (u c : Nat) (f : Res → Res) : State :=
  match resOf s u c with
  | none => s
  | some x => setRes s u c (f x)
def seOf (s : State) (st : Nat) : SeSt := Tbl.get {} s.se st
def setSe (s : State) (st : Nat) (x : SeSt) : State := { s with se := Tbl.put s.se st x }
def updSe (s : State) (st : Nat) (f : SeSt → SeSt) : State := setSe s st (f (seOf s st))
/-- An engine with other commands: a busy interval ends with the last running one (SE_BUSY_NS, R359). -/
def withCmds (now : W64) (y : SeSt) (cs : List SeCmd) : SeSt :=
  let idle := y.cmds.any (·.running) && cs.all (fun m => !m.running)
  { y with cmds := cs, busyNs := if idle then y.busyNs + (now - y.busyFrom) / 16 else y.busyNs }
/-- The contexts resident on a unit, with their states. -/
def residents (s : State) (u : Nat) : List (Nat × Res) :=
  (s.res.filter (fun p => p.1 / 4096 == u)).map (fun p => (p.1 % 4096, p.2))
/-- Where a context's unit-store share and operand-cache share lie (R200): offsets and sizes in bytes. -/
def shareOff (x : Ctx) : Nat := x.usOff * 0x10000
def shareSize (x : Ctx) : Nat := x.usSize * 0x10000
def ocOff (x : Ctx) : Nat := x.ocOff * 0x10000
def ocSize (x : Ctx) : Nat := x.ocSize * 0x10000
def saveOff (x : Ctx) : Nat := x.saveOff * 4096
def saveSize : Nat := 368 * 1024
def ctxPart (s : State) (c : Nat) : Option Nat := (ctxOf s c).map (·.part)

/-! ## Harts: the context running on a unit, an instance of a stack program, a resident context in any state -/

/-- What a command's operand h names: the running context of unit h, instance i of stack st for h = 256 + 8 × st + i, and for
h ≥ 65536 the resident context h mod 4096 of unit h / 4096 mod 16, whatever its state. -/
inductive Hart where
  | res (u c : Nat)
  | inst (st i : Nat)
  deriving DecidableEq, Repr

/-- A context takes no further step once it has faulted (R221). -/
def live (s : State) (c : Nat) : Bool :=
  match ctxOf s c with
  | none => false
  | some x => !x.faulted && !x.stopped

/-- Log entry 9: DESIGN CHOICE. -/
def hartOf (s : State) (h : Nat) : Option Hart :=
  if h < 256 then
    match (unitOf s h).running with
    | none => none
    | some c =>
      match resOf s h c with
      | some r => if r.st == .running && live s c then some (.res h c) else none
      | none => none
  else if h < 448 then
    let st := (h - 256) / 8
    let i := (h - 256) % 8
    match Tbl.find? (seOf s st).inst i with
    | some x => if x.active && live s x.ctx then some (.inst st i) else none
    | none => none
  else if 65536 ≤ h then
    let u := (h - 65536) / 4096
    let c := (h - 65536) % 4096
    match resOf s u c with
    | some r => if r.st != .faulted && live s c then some (.res u c) else none
    | none => none
  else none

def instOf (s : State) (st i : Nat) : Inst := Tbl.get {} (seOf s st).inst i

def hartCore (s : State) : Hart → Option Core
  | .res u c => (resOf s u c).map (·.core)
  | .inst st i => some (instOf s st i).core

def setHartCore (s : State) (t : Hart) (k : Core) : State :=
  match t with
  | .res u c => updRes s u c (fun r => { r with core := k })
  | .inst st i => updSe s st (fun e => { e with inst := Tbl.put e.inst i { instOf s st i with core := k } })

/-- The context a hart runs for, and the unit it belongs to. -/
def hartCtx (s : State) : Hart → Nat
  | .res _ c => c
  | .inst st i => (instOf s st i).ctx
def hartUnit (s : State) : Hart → Nat
  | .res u _ => u
  | .inst st i => (instOf s st i).unit
def isInst : Hart → Bool
  | .res _ _ => false
  | .inst _ _ => true

/-- The core that operand h names, if it can take a step. -/
def coreOf (s : State) (h : Nat) : Option Core :=
  match hartOf s h with
  | none => none
  | some t => hartCore s t

def setCore (s : State) (h : Nat) (k : Core) : State :=
  match hartOf s h with
  | none => s
  | some t => setHartCore s t k

/-- A hart with its core and its context, if it can take a step: what most meanings start from. -/
def withHart (s : State) (h : Nat) (f : Hart → Core → Ctx → State) : State :=
  match hartOf s h with
  | none => s
  | some t =>
    match hartCore s t, ctxOf s (hartCtx s t) with
    | some k, some x => f t k x
    | _, _ => s

/-- A hart issues while its context runs on the unit (Table 5.6), and an instance while its stack is not held (R331). -/
def issues (s : State) : Hart → Bool
  | .res u c => (resOf s u c).any (fun r => r.st == .running)
  | .inst st _ => !((seOf s st).held)

/-- A hart that issues: the sequencer, the vector engine and the acceptance of array entries start from here (R214, R215, R331). -/
def withRun (s : State) (h : Nat) (f : Hart → Core → Ctx → State) : State :=
  withHart s h fun t k x => if issues s t then f t k x else s

/-! ## Registers (R183): g0 reads as zero and p0 as 1, writes to them are discarded -/

def gGet (k : Core) (r : Nat) : W64 := if r = 0 then 0 else Tbl.get 0 k.g r
def gSet (k : Core) (r : Nat) (v : W64) : Core := if r = 0 then k else { k with g := Tbl.set 0 k.g r v }
def pGet (k : Core) (p : Nat) : Bool := p == 0 || k.p.getLsbD p
def pSet (k : Core) (p : Nat) (v : Bool) : Core :=
  if p = 0 then k
  else { k with p := if v then k.p ||| BitVec.ofNat 8 (2 ^ p) else k.p &&& ~~~(BitVec.ofNat 8 (2 ^ p)) }
/-- Whether a register is pending (R155). -/
def isPend (k : Core) (r : Nat) : Bool := r != 0 && k.pend.any (fun p => p.1 == r)
/-- An engine writes a pending register; the entry that owed it is `seq`. -/
def gDeliver (k : Core) (r seq : Nat) (v : W64) : Core :=
  { gSet k r v with pend := k.pend.filter (fun p => !(p.1 == r && p.2 == seq)) }
/-- The register is no longer owed, with nothing written. -/
def gRelease (k : Core) (seq : Nat) : Core := { k with pend := k.pend.filter (fun p => p.2 != seq) }
/-- A scalar register as an entry captured it (R154). -/
def cap (e : QEnt) (r : Nat) : W64 := if r = 0 then 0 else Tbl.get 0 e.g r
/-- An entry is complete (R197). -/
def doneEnt (k : Core) (seq : Nat) : Core := { k with live := k.live.filter (fun p => p.1 != seq) }
/-- ORs flags into the sticky flag word (R86). -/
def orSticky (k : Core) (f : BitVec 9) : Core := { k with sticky := k.sticky ||| f.setWidth 32 }

/-! ## Events (R577 to R581) -/

def clsNotice : Nat := 0
def clsWarning : Nat := 1
def clsError : Nat := 2
def clsCritical : Nat := 3

/-- Detects an event: it is written by EVENT_WRITE. -/
def raiseEv (s : State) (code cls : Nat) (arg0 : Nat) (arg1 : Nat) : State :=
  { s with evs := s.evs ++ [{ code := code, cls := cls, arg0 := BitVec.ofNat 32 arg0, arg1 := BitVec.ofNat 64 arg1, time := s.time.now }] }

/-- ARG0 fields C and L (R581). -/
def argC (c : Nat) : Nat := c * 2 ^ 20
def argL (u : Nat) : Nat := u * 2 ^ 12

/-! ## Results (R573 to R576) -/

def ringOf (s : State) (r : Nat) : RingSt := Tbl.get {} s.host.rings r
def setRing (s : State) (r : Nat) (x : RingSt) : State := { s with host := { s.host with rings := Tbl.put s.host.rings r x } }
def updRing (s : State) (r : Nat) (f : RingSt → RingSt) : State := setRing s r (f (ringOf s r))

/-- The first three words of a result (Table 15.4). -/
def resWords (s : State) (j : Job) (code check : Nat) (detail : W64) : Rec :=
  { w0 := BitVec.ofNat 64 (j.opc * 2 ^ 56 + code * 2 ^ 40 + check * 2 ^ 32 + j.tag % 2 ^ 32), w1 := detail, w2 := s.time.now }

/-- Where the record for SEQ q of a ring lies. -/
def resSlot (x : RingSt) (q : Nat) : Nat := x.resBase + q % 2 ^ x.log2n * 32

/-- A command completes (R572): its record takes the next SEQ of its ring, and words 0 to 2 are written while host memory can be
reached; the stamp follows (R575). A NORES command leaves no record (R568). -/
def finishJob (s : State) (j : Job) (code check : Nat) (detail : W64) : State :=
  let x := ringOf s j.ring
  let x1 := { x with owed := x.owed.filter (fun k => k.seq != j.seq) }
  if j.nores then setRing s j.ring x1
  else
    let r := resWords s j code check detail
    let q := (x.resSeq.toNat + x.done.length) % 2 ^ 32
    let up := s.host.cacheEn && decide (subMod 32 q x.resHead.toNat < 2 ^ x.log2n)
    let s1 := if up then hostWrite s (resSlot x q) (leBytes 8 r.w0.toNat ++ leBytes 8 r.w1.toNat ++ leBytes 8 r.w2.toNat) else s
    setRing s1 j.ring { x1 with done := x1.done ++ [{ r with body := up }] }

/-! ## Context faults (R219, R220) -/

def fIllegal : Nat := 1
def fExtent : Nat := 2
def fPoison : Nat := 3
def fQueue : Nat := 4

/-- The fault of place `seq` was dispatched before the one that context x is to report: both on one unit, the event not yet raised. (Log entry 96: DEDUCED.) -/
def earlierFault (x : Ctx) (lun : Nat) (seq : Option Nat) : Bool :=
  !x.faultEv && lun == x.flun && (match seq, x.fseq with
    | some a, some b => decide (a < b)
    | _, _ => false)

/-- A fault is raised in a context: the first in dispatch order is reported, the others are counted (R220). `seq` is the faulting
instruction's place in its unit's dispatch order, none for an error that belongs to no instruction. The stop on every unit of the set
and the event are CONTEXT_FAULT's (R221). (Log entry 96: DEDUCED.) -/
def raiseFaultAt (s : State) (c kind pc lun : Nat) (stk : Option Nat) (seq : Option Nat) : State :=
  updCtx s c (fun x =>
    let y : Ctx := { x with faulted := true, fkind := kind, fpc := pc, flun := lun, fstack := stk, fseq := seq }
    if !x.faulted then y
    else if earlierFault x lun seq then { y with fmore := min 127 (x.fmore + 1) }
    else { x with fmore := min 127 (x.fmore + 1) })

def raiseFault (s : State) (c kind pc lun : Nat) (stk : Option Nat) : State := raiseFaultAt s c kind pc lun stk none

/-- A fault of a hart at a place of its unit's dispatch order (R338: an instance's fault is the issuing context's, marked as from a
stack program; its place is its command's). -/
def faultSeq (s : State) (t : Hart) (kind : Nat) (pc : Addr) (seq : Nat) : State :=
  match t with
  | .res u c => raiseFaultAt s c kind pc.toNat u none (some seq)
  | .inst st i => raiseFaultAt s (instOf s st i).ctx kind pc.toNat (instOf s st i).unit (some st) (some (instOf s st i).seq)

/-- A fault of the sequencer: everything dispatched so far comes before it. -/
def faultAt (s : State) (t : Hart) (kind : Nat) (pc : Addr) : State :=
  faultSeq s t kind pc (((hartCore s t).map (·.seq)).getD 0)

/-- A fault of a queue entry, with the PC captured at its dispatch (R220). -/
def faultEnt (s : State) (t : Hart) (kind : Nat) (e : QEnt) : State := faultSeq s t kind e.pc e.seq

/-! ## Extents (R205 to R208) -/

def extEnd (e : Extent) : Nat := e.cbase + e.size * 4096
def extHas (e : Extent) (a : Nat) : Bool := e.kind != 0 && decide (e.cbase ≤ a) && decide (a < extEnd e)
def findExt (x : Ctx) (a : Nat) : Option Extent := x.extents.find? (fun e => extHas e a)

/-- The device address of a context address within an extent (R206). -/
def extDev (e : Extent) (a : Nat) : Nat :=
  let o := a - e.cbase
  let st := bitList 24 e.stackSet
  match e.kind with
  | 1 => e.dbase + o
  | 2 => stackBase (st.headD 0) + e.dbase + o
  | _ =>
    let g := o / 4096
    let n := st.length
    stackBase (st.getD (g % n) 0) + e.dbase + (g / n) * 4096 + o % 4096

/-- The device address a context address maps to. -/
def ctxDev (x : Ctx) (a : Nat) : Option Nat := (findExt x a).map (fun e => extDev e a)

/-- Every byte of [a, b) lies in an extent that `ok` accepts; a range may span adjacent extents (R208). -/
def covers (es : List Extent) (ok : Extent → Bool) : Nat → Nat → Nat → Bool
  | 0, _, _ => false
  | fuel + 1, a, b =>
    if b ≤ a then true
    else match es.find? (fun e => extHas e a) with
      | none => false
      | some e => ok e && covers es ok fuel (extEnd e) b

def allowed (x : Ctx) (ok : Extent → Bool) (a n : Nat) : Bool := covers x.extents ok (x.extents.length + 2) a (a + n)

/-- The context ranges of [a, b), extent by extent, as device ranges of direct extents and granules of the others. -/
def pieces (x : Ctx) : Nat → Nat → Nat → List (Nat × Nat)
  | 0, _, _ => []
  | fuel + 1, a, b =>
    if b ≤ a then []
    else match findExt x a with
      | none => []
      | some e =>
        let stop := if e.kind == 1 then min b (extEnd e) else min b (a / 4096 * 4096 + 4096)
        (extDev e a, stop - a) :: pieces x fuel stop b

/-- The device pieces of a context range. -/
def devPieces (x : Ctx) (a n : Nat) : List (Nat × Nat) := pieces x (n / 4096 + x.extents.length + 3) a (a + n)

/-! ## The unit-store window guard (R45, R46) -/

/-- [lo, hi) of a unit store lies within the given areas (offset, size), which do not overlap. -/
def inAreas (as : List (Nat × Nat)) : Nat → Nat → Nat → Bool
  | 0, _, _ => false
  | fuel + 1, lo, hi =>
    if hi ≤ lo then true
    else match as.find? (fun p => decide (p.1 ≤ lo) && decide (lo < p.1 + p.2)) with
      | none => false
      | some p => inAreas as fuel (p.1 + p.2) hi

/-- The contexts resident on a unit. -/
def residentCtxs (s : State) (u : Nat) : List Ctx :=
  (residents s u).filterMap (fun p => ctxOf s p.1)

/-- [lo, hi) of unit u touches no resident's tile save area. -/
def offSave (s : State) (u lo hi : Nat) : Bool :=
  (residentCtxs s u).all (fun x => decide (hi ≤ saveOff x) || decide (saveOff x + saveSize ≤ lo))

/-- [lo, hi) of unit u, as a context of partition `part` may reach it from outside: within shares of residents of its
partition, off every save area, in the lower 8 MiB. -/
def windowOk (s : State) (part u lo hi : Nat) : Bool :=
  decide (hi ≤ 0x800000) && offSave s u lo hi
  && inAreas (((residentCtxs s u).filter (fun x => x.part == part)).map (fun x => (shareOff x, shareSize x))) 6 lo hi

/-- A device piece that lies in the unit-store windows, cut by unit, passes the guard. -/
def pieceOk (s : State) (part a n : Nat) : Bool :=
  if isUs a then
    (cutRange 0x1000000 (n / 0x1000000 + 2) (a - usWin) n).all (fun p =>
      windowOk s part (p.1 / 0x1000000) (p.1 % 0x1000000) (p.1 % 0x1000000 + p.2))
  else true

/-- The check of R208 with the window guard: every byte of the context range has the permission and passes R45 and R46. -/
def ctxOk (s : State) (x : Ctx) (ok : Extent → Bool) (a n : Nat) : Bool :=
  allowed x ok a n && (!(x.extents.any (fun e => e.kind == 1)) || (devPieces x a n).all (fun p => pieceOk s x.part p.1 p.2))


/-- Whether an access to a device address has to wait: a gated region's store (R36), a stack that holds, sleeps or has a bank
under repair (R316, R670, R639), host memory while CACHE_EN is 0 (R564). -/
def addrWaits (s : State) (a : Nat) : Bool :=
  if isHbm a then stackWaits s a
  else if isUs a then
    let u := (a - usWin) / 0x1000000
    s.pwr.gated.contains (regionOf u)
  else if isHost a then !s.host.cacheEn
  else false

/-! ## A context's reads and writes -/

/-- A read by context address over the unit path; the pieces are in order. -/
def ctxRead (s : State) (x : Ctx) (a n hint : Nat) : State × List Byte × Bool :=
  (devPieces x a n).foldl
    (fun (r : State × List Byte × Bool) p =>
      let y := devRead r.1 p.1 p.2 hint (some x.part)
      (y.1, r.2.1 ++ y.2.1, r.2.2 || y.2.2)) (s, [], false)

/-- A write by context address over the unit path. -/
def ctxWrite (s : State) (x : Ctx) (a : Nat) (bs : List Byte) (hint : Nat) : State × Bool :=
  ((devPieces x a bs.length).foldl
    (fun (r : (State × Bool) × List Byte) p =>
      let y := devWrite r.1.1 p.1 (r.2.take p.2) hint (some x.part)
      ((y.1, r.1.2 || y.2), r.2.drop p.2)) ((s, false), bs)).1

/-- A range of the unit-store share lies within it (R188). -/
def inShare (x : Ctx) (off n : Nat) : Bool := decide (off + n ≤ shareSize x)

/-- Device address of an offset in a context's share on a unit. -/
def shareAddr (x : Ctx) (u off : Nat) : Nat := usAddr u (shareOff x + off)

/-- Bytes of the share, and whether they met poison. -/
def shareRead (s : State) (x : Ctx) (u off n : Nat) : List Byte × Bool :=
  (memBytes s (shareAddr x u off) n, rawPoison s (shareAddr x u off) n)

def shareWrite (s : State) (x : Ctx) (u off : Nat) (bs : List Byte) : State × Bool :=
  rawWrite s (shareAddr x u off) bs

/-! ## Time -/

/-- Fabric time moves to t when t is not behind it (R654), and the pseudo-channels serve one line each 2.5 ns of it, while they have
requests (Table 7.5). (Log entries 7: DESIGN CHOICE, 101: DESIGN CHOICE.) -/
def advance (s : State) (t : W64) : State :=
  if (t - s.time.now).toNat < 2 ^ 63 then
    { s with time := { s.time with now := t }, hbm := serveHbm t (min 48 ((t - s.time.now).toNat / 40)) s.hbm }
  else s

/-- The next free-value number. (Log entry 8: DESIGN CHOICE.) -/
def bump (s : State) : State := { s with freeCtr := s.freeCtr + 1 }

end Sys2Proof.Machine
end

