-- ==== Sys2Proof/Machine/Net.lean ====
section
/-!
DEFINITION. Sys2Proof/Machine/Net.lean: the sending of packets: sizes and classes (R513, R520, R521), credits (R523), link sequence and
replay buffer (R517), routing by range, trunk and port set (R526 to R528, R646), the events of discarded packets, and source tags.
-/

namespace Sys2Proof.Machine

def portOf (s : State) (p : Nat) : PortSt := Tbl.get {} s.ports p
def setPort (s : State) (p : Nat) (x : PortSt) : State := { s with ports := Tbl.put s.ports p x }
def updPort (s : State) (p : Nat) (f : PortSt → PortSt) : State := setPort s p (f (portOf s p))
def updFab (s : State) (f : FabSt → FabSt) : State := { s with fab := f s.fab }
def isUp (s : State) (p : Nat) : Bool := (portOf s p).st == .up

/-- Class of a packet type (Table 14.5): 0 request, 1 response, 2 collective. -/
def typClass (typ : Nat) : Nat := if typ ≤ 3 then 0 else if typ ≤ 5 then 1 else 2
def creditKey (cls : Nat) (vc1 : Bool) : Nat := cls * 2 + (if vc1 then 1 else 0)
def pktKey (p : Pkt) : Nat := creditKey (typClass p.typ) p.vc1

/-- Bytes a packet occupies on a link (R513). -/
def pktBytes (p : Pkt) : Nat := 32 + 16 * ((p.data.length + 15) / 16)
def listBytes (l : List Pkt) : Nat := (l.map pktBytes).foldl (· + ·) 0

/-- A port sends a packet when it is Up, the class has credit and the 256 KiB replay buffer has room. (Log entry 53: DESIGN CHOICE.) -/
def canSend (x : PortSt) (p : Pkt) : Bool :=
  x.st == .up && decide (0 < Tbl.get 0 x.credits (pktKey p)) && decide (listBytes x.replayBuf + pktBytes p ≤ 262144)

def sendOne (x : PortSt) (p : Pkt) : PortSt :=
  { x with
    replayBuf := x.replayBuf ++ [{ p with lseq := x.lseq }]
    lseq := (x.lseq + 1) % 65536
    credits := Tbl.set 0 x.credits (pktKey p) (Tbl.get 0 x.credits (pktKey p) - 1)
    txBytes := x.txBytes + BitVec.ofNat 64 (pktBytes p) }

/-- Sends what can be sent, in queue order within each class and virtual channel; a full class blocks no other. -/
def drainTx (x : PortSt) : PortSt :=
  let r := x.txq.foldl (fun (a : PortSt × List Pkt × List Nat) p =>
    if !(a.2.2.contains (pktKey p)) && canSend a.1 p then (sendOne a.1 p, a.2.1, a.2.2)
    else (a.1, a.2.1 ++ [p], pktKey p :: a.2.2)) ({ x with txq := [] }, [], [])
  { r.1 with txq := r.2.1 }

def pushTx (s : State) (p : Nat) (k : Pkt) : State :=
  updPort s p (fun x => drainTx { x with txq := x.txq ++ [k] })

/-! ## Routing -/

/-- The route entry of a destination: the lowest-numbered valid range that holds it (R526). -/
def routeOf (s : State) (dst : Nat) : Option Nat :=
  (s.fab.rtRange.find? (fun e => bit e.2 63 && decide (fld e.2 19 0 ≤ dst) && decide (dst ≤ fld e.2 39 20))).map (·.1)

def rangeWord (s : State) (e : Nat) : W64 := Tbl.get 0 s.fab.rtRange e
def pathWord (s : State) (e : Nat) : W64 := Tbl.get 0 s.fab.rtPath e

/-- The Up port with the fewest bytes queued, the lowest number among equals (R528). (Log entry 57: DESIGN CHOICE.) -/
def leastQueued (s : State) (ps : List Nat) : Option Nat :=
  (ps.filter (isUp s)).foldl (fun acc p => match acc with
    | none => some p
    | some q => if listBytes (portOf s p).txq < listBytes (portOf s q).txq then some p else some q) none

/-- Ports of a trunk. -/
def trunkPorts (s : State) (t : Nat) : List Nat := bitList 12 (Tbl.get 0 s.fab.trunk t).toNat

/-- Ports for an ORD = 0 packet: those of the entry, or, when all of them are Down, their alternates (R646). -/
def pathPorts (s : State) (e : Nat) : List Nat :=
  let ps := bitList 12 (fld (rangeWord s e) 51 40)
  if ps.all (fun p => (portOf s p).st == .down) then
    bitList 12 (ps.foldl (fun a p => if (portOf s p).altEn then a ||| (portOf s p).alt.toNat else a) 0)
  else ps

/-- A trunk port with credit for the class, or else the least queued one (R527). -/
def trunkPort (s : State) (t : Nat) (k : Pkt) : Option Nat :=
  let up := (trunkPorts s t).filter (isUp s)
  match up.find? (fun p => canSend (portOf s p) k) with
  | some p => some p
  | none => leastQueued s up

/-- An event at most once per ms (16,000,000 units of fabric time). -/
def msPassed (s : State) (at_ : Option W64) : Bool :=
  match at_ with
  | none => true
  | some t => decide (16000000 ≤ (s.time.now - t).toNat)

/-- A packet discarded for want of a route (R526, R527): counted, and reported at most once per ms. (Log entry 57: DESIGN CHOICE.) -/
def routeMiss (s : State) (dst : Nat) : State :=
  let s1 := updFab s (fun f => { f with rtMiss := f.rtMiss + 1 })
  if msPassed s s.fab.missAt then
    updFab (raiseEv s1 0x0604 clsWarning 0 dst) (fun f => { f with missAt := some s.time.now })
  else s1

/-- Counts a packet discarded without an event. -/
def missOnly (s : State) : State := updFab s (fun f => { f with rtMiss := f.rtMiss + 1 })

/-- Routes one packet whose destination is another device (R523, R526 to R528). -/
def routePkt (s : State) (k : Pkt) : State :=
  match routeOf s k.dst with
  | none => routeMiss s k.dst
  | some e =>
    let k1 := if bit (rangeWord s e) 62 then { k with vc1 := true } else k
    if k.ord then
      let t := fld (pathWord s e) 63 60
      if t = 15 then missOnly s
      else match trunkPort s t k1 with
        | none => missOnly s
        | some p =>
          let q := Tbl.get 0 s.fab.trunkSeq t
          pushTx (updFab s (fun f => { f with trunkSeq := Tbl.set 0 f.trunkSeq t ((q + 1) % 65536) })) p { k1 with tseq := q }
    else match leastQueued s (pathPorts s e) with
      | none => routeMiss s k.dst
      | some p => pushTx s p { k1 with tseq := 0 }

/-- A packet this device originates: it leaves on VC0 with HOPS 0; MODE gives ORD for requests (R529). -/
def originate (s : State) (k : Pkt) : State :=
  routePkt s { k with src := s.fab.devId, hops := 0, vc1 := false, ord := typClass k.typ == 0 && !s.fab.mode }

/-! ## Link words and packets received (R514, R517, R523) -/

/-- Sends a link word: `kind` is its place in Table 14.2 (0 IDENT, 1 KEEPALIVE, 2 ANSWER, 3 TIMING, 4 CREDIT, 5 ACKSEQ, 6 REPLAY). -/
def sendWord (x : PortSt) (kind : Nat) (args : List Nat) : PortSt := { x with words := x.words ++ [{ kind := kind, args := args }] }

/-- ACKSEQ carries the highest link sequence received whole; nothing is sent while no packet awaits it. (Log entry 53: DESIGN CHOICE.) -/
def sendAckseq (x : PortSt) : PortSt :=
  if x.unacked = 0 then x else { sendWord x 5 [(x.rxSeq + 65535) % 65536] with unacked := 0 }

/-- The port is Up and the packet is the next of its link: any other is discarded where it comes in (R517). (Log entry 54: DESIGN CHOICE.) -/
def linkOk (s : State) (l : LinkHdr) : Bool := isUp s l.port && l.lseq % 65536 == (portOf s l.port).rxSeq

/-- Packets of at most 8,192 bytes that a payload of n bytes takes. -/
def pktsOf (n : Nat) : Nat := max 1 ((n + 8191) / 8192)

/-- k packets have come in whole and in sequence: they count, and sixteen packets send ACKSEQ. (Log entries 53: DESIGN CHOICE, 54: DESIGN CHOICE.) -/
def received (x : PortSt) (k bytes : Nat) : PortSt :=
  let y : PortSt := { x with rxSeq := (x.rxSeq + k) % 65536, rxBad := false, rxBytes := x.rxBytes + BitVec.ofNat 64 bytes, unacked := x.unacked + k }
  if 16 ≤ y.unacked then sendAckseq y else y

/-- The link's part of a payload of n bytes that comes in. -/
def linkTake (s : State) (l : LinkHdr) (n : Nat) : State :=
  updPort s l.port (fun x => received x (pktsOf n) (32 * pktsOf n + 16 * ((n + 15) / 16)))

/-- The receive buffers free: their credit goes back (Table 14.2, R523). (Log entry 53: DESIGN CHOICE.) -/
def freeBuf (s : State) (l : LinkHdr) (typ n : Nat) : State :=
  if isUp s l.port then updPort s l.port (fun x => sendWord x 4 [typClass typ, if l.vc1 then 1 else 0, pktsOf n]) else s

/-- A packet that is acted on as it comes in. -/
def linkIn (s : State) (l : LinkHdr) (typ n : Nat) (f : State → State) : State :=
  if linkOk s l then f (freeBuf (linkTake s l n) l typ n) else s

/-- The trunk of a port as this device knows it: the lowest-numbered one that holds it, or the port alone. (Log entry 106: DESIGN CHOICE.) -/
def rxTrunk (s : State) (p : Nat) : Nat := ((List.range 12).find? (fun t => (trunkPorts s t).contains p)).getD (16 + p)

/-! ## Source tags -/

/-- A new source tag: what owes its acknowledgement is (a, b, c), the peer's bytes still unacknowledged are counted under the tag. Tags
below 4,096 are left to re-shard entries, whose packets carry a TAG of 12 bits and no source tag (Table 14.5). (Log entry 59: DESIGN CHOICE.) -/
def newTag (s : State) (a b c : Nat) : State × Nat :=
  let n := if s.fab.tagN < 4096 then 4096 else s.fab.tagN
  (updFab s (fun f => { f with tagN := (n + 1) % 2 ^ 32, tags := Tbl.put f.tags n (a, b, c) }), n)

def tagOf (s : State) (n : Nat) : Option (Nat × Nat × Nat) := Tbl.find? s.fab.tags n

/-- Bytes sent under a tag become unacknowledged. -/
def addUnacked (s : State) (tag n : Nat) : State :=
  updFab s (fun f => { f with unacked := Tbl.set 0 f.unacked tag (Tbl.get 0 f.unacked tag + n) })

def ackBytes (s : State) (tag n : Nat) : State :=
  updFab s (fun f => { f with unacked := Tbl.set 0 f.unacked tag (Tbl.get 0 f.unacked tag - n) })

/-- The tag is closed: nothing more is owed for it. -/
def dropTag (s : State) (tag : Nat) : State :=
  updFab s (fun f => { f with unacked := Tbl.del f.unacked tag, tags := Tbl.del f.tags tag })

/-- A WRITE packet of one entry (Table 14.5). -/
def writePkt (dst a tag before : Nat) (bs : List Byte) : Pkt :=
  { typ := 1, dst := dst, a := a, b := BitVec.ofNat 64 (tag % 2 ^ 32 * 2 ^ 32 + before % 2 ^ 32), data := bs }

def flagPkt (dst a tag : Nat) (v : W64) : Pkt :=
  { typ := 2, dst := dst, a := a, b := BitVec.ofNat 64 tag, data := leBytes 8 v.toNat }

/-! ## The gathered bytes of REMOTE entries (R522) -/

/-- Sends the first n bytes that a REMOTE entry has gathered, in packets that cross no 8 KiB boundary of the destination. (Log entry 30: DESIGN CHOICE.) -/
def flushRemote (s : State) (e : MvEnt) (n : Nat) : State × MvEnt :=
  let ps := cutGran 8192 (n / 8192 + 2) (e.gathAt % 2 ^ 48) (e.gath.take n)
  let r := ps.foldl (fun (a : State × Nat) p =>
    (originate (addUnacked a.1 e.tag p.2.length) (writePkt e.dev p.1 e.tag a.2 p.2), a.2 + p.2.length)) (s, e.read - e.gath.length)
  (r.1, { e with gath := e.gath.drop n, gathAt := e.gathAt + n })

/-- The gathered bytes of a queue's REMOTE entries go out. -/
def flushQueue (s : State) (m : MvQ) : State × MvQ :=
  let r := m.ents.foldl (fun (a : State × List MvEnt) e =>
    let y := if e.gath.isEmpty then (a.1, e) else flushRemote a.1 e e.gath.length
    (y.1, a.2 ++ [y.2])) (s, [])
  (r.1, { m with ents := r.2 })

/-- A context that stops issuing sends what its REMOTE entries have gathered: requests already issued retire (R215). (Log entry 30: DESIGN CHOICE.) -/
def flushGathered (s : State) (u c : Nat) : State :=
  match resOf s u c with
  | none => s
  | some r =>
    let y := r.core.mq.foldl (fun (a : State × List (Nat × MvQ)) p =>
      let m := flushQueue a.1 p.2
      (m.1, a.2 ++ [(p.1, m.2)])) (s, [])
    setRes y.1 u c { r with core := { r.core with mq := y.2 } }

/-! ## What LQUIET watches (R531) -/

/-- A packet this device originated is still queued or held for replay. -/
def ownQueued (s : State) : Bool :=
  s.ports.any (fun p => (p.2.txq ++ p.2.replayBuf).any (fun k => k.src == s.fab.devId && typClass k.typ != 1))

/-- The group has a collective that this member has launched; an OPEN held before the launch is not one (R544). -/
def collActive (g : GroupSt) : Bool := g.active.any (fun c => c.phase != .idle)

/-- LQUIET (R531). -/
def lquiet (s : State) : Bool :=
  s.fab.unacked.isEmpty && !(ownQueued s) && s.groups.all (fun g => !(collActive g.2))

end Sys2Proof.Machine
end

