-- ==== Sys2Proof/Machine/Operands.lean ====
section
/-!
DEFINITION. Sys2Proof/Machine/Operands.lean: which scalar registers an instruction reads and writes (R154, R155, R234, R257), the
queues of a core by number (R195), and where local addresses of a hart lie (R188, R158, Table 8.4).
-/

namespace Sys2Proof.Machine

/-- The g registers a vector instruction captures (Table 6.11a, R252, R254). -/
def vecReads (w : W64) : List Nat :=
  match iClass w, iOp w with
  | 5, 0x11 =>
    let o := (cvtOther w).1
    let out := (cvtOther w).2
    (if o = 0xE then [iGB w] else [])
    ++ (if iRM w = 4 then (if (isMx o || o == 0xD) && out then [iVC w + 1, iVC w + 2] else [iVC w, iVC w + 1]) else [])
  | 5, 0x3C => [iGA w, iGB w]
  | 5, 0x3D => [iGA w]
  | 5, 0x40 => [iGA w]
  | 5, 0x45 => [iGA w]
  | 5, 0x50 => [iGA w]
  | 5, 0x51 => [iGA w]
  | 5, 0x52 => [iGB w]
  | 5, 0x53 => [iVC w]
  | 5, 0x54 => [iGA w, iGB w]
  | 5, 0x55 => [iGA w, iVC w]
  | _, _ => []

/-- The g register a vector instruction writes (R155). -/
def vecDest (w : W64) : Nat :=
  if iClass w = 5 ∧ (iOp w = 0x3E ∨ iOp w = 0x3F ∨ iOp w = 0x41 ∨ iOp w = 0x46) then iGD w else 0

/-- The g registers an engine instruction captures at dispatch (R154, R114, R129, Table 6.15). -/
def capRegs (w : W64) : List Nat :=
  match iClass w with
  | 4 => if iOp w ≤ 1 then [iMA w, iMA w + 1, iMB w, iMB w + 1, iMK w] else if iOp w = 3 then [iDst w] else []
  | 5 => vecReads w
  | 7 => if iOp w = 3 then [iQA w] else if iOp w ≤ 0x10 then [iQA w, iQB w, iQC w] else []
  | 8 => [iQA w]
  | 0xA => [iQA w]
  | 0xB => [iQA w]
  | _ => []

/-- The g register an engine instruction owes (R155, R192, R257); 0 owes nothing. -/
def destReg (w : W64) : Nat :=
  match iClass w with
  | 4 => 0
  | 5 => vecDest w
  | 6 => 0
  | _ => if iClass w = 7 ∧ iOp w = 0x18 then 0 else iQD w

/-- The g registers a sequencer instruction reads or writes (R234). -/
def seqRegs (w : W64) : List Nat :=
  let op := iOp w
  match iClass w with
  | 0 =>
    if 0x20 ≤ op ∧ op ≤ 0x25 then [iGA w, iGB w]
    else if 0x28 ≤ op ∧ op ≤ 0x2B then []
    else [iGD w, iGA w, iGB w]
  | 1 => if 0x20 ≤ op ∧ op ≤ 0x25 then [iGA w] else [iGD w, iGA w]
  | 2 => [iGD w, iGA w]
  | 3 => [iGD w, iGA w, iGB w]
  | 9 => [iGD w, iGA w, iGB w]
  | 0xC => [iGD w, iGA w]
  | _ => []

/-- Fields the word does not use are zero, so they name g0, which is never pending. For `sy.wait` and `sy.mark` the register fields
hold the queue number or nothing. -/
def seqHeld (k : Core) (w : W64) : Bool :=
  let rs := if iClass w = 9 ∧ iOp w ≤ 1 then [] else seqRegs w
  rs.any (fun r => isPend k r)

/-- An engine instruction waits at dispatch for the final value of each register it captures and for the one it writes. -/
def engHeld (k : Core) (w : W64) : Bool := (destReg w :: capRegs w).any (fun r => isPend k r)

/-! ## Queues by number (R195): 0 to 2 AQ, 3 VQ, 4 to 11 MQ, 12 SQ, 13 CQ -/

def mqOf (k : Core) (q : Nat) : MvQ := Tbl.get {} k.mq q
def setMq (k : Core) (q : Nat) (x : MvQ) : Core := { k with mq := Tbl.put k.mq q x }

def queueEnts (k : Core) (q : Nat) : List QEnt :=
  match q with
  | 0 => k.aq0
  | 1 => k.aq1
  | 2 => k.aq2
  | 3 => k.vq
  | 12 => k.sq
  | 13 => k.cq
  | _ => (mqOf k (q - 4)).ents.map (·.ent)

def queueLen (k : Core) (q : Nat) : Nat := (queueEnts k q).length
def queueFull (k : Core) (q : Nat) : Bool := decide (queueDepth q ≤ queueLen k q)

/-- Places an entry at a queue's tail. -/
def pushEnt (k : Core) (q : Nat) (e : QEnt) : Core :=
  match q with
  | 0 => { k with aq0 := k.aq0 ++ [e] }
  | 1 => { k with aq1 := k.aq1 ++ [e] }
  | 2 => { k with aq2 := k.aq2 ++ [e] }
  | 3 => { k with vq := k.vq ++ [e] }
  | 12 => { k with sq := k.sq ++ [e] }
  | 13 => { k with cq := k.cq ++ [e] }
  | _ => setMq k (q - 4) { mqOf k (q - 4) with ents := (mqOf k (q - 4)).ents ++ [{ ent := e }] }

/-- Takes the entry `seq` out of a queue. -/
def dropEnt (k : Core) (q seq : Nat) : Core :=
  let f (l : List QEnt) := l.filter (fun e => e.seq != seq)
  match q with
  | 0 => { k with aq0 := f k.aq0 }
  | 1 => { k with aq1 := f k.aq1 }
  | 2 => { k with aq2 := f k.aq2 }
  | 3 => { k with vq := f k.vq }
  | 12 => { k with sq := f k.sq }
  | 13 => { k with cq := f k.cq }
  | _ => setMq k (q - 4) { mqOf k (q - 4) with ents := (mqOf k (q - 4)).ents.filter (fun e => e.ent.seq != seq) }

/-- The uncompleted entries of the queues a qmask names (R193 to R195). -/
def liveOf (k : Core) (mask : Nat) : List Nat :=
  (k.live.filter (fun p => mask.testBit p.2)).map (·.1)

/-- Places an instruction's entry in its queue: captured registers, a place in dispatch order, its register pending (R154, R155,
R190). -/
def dispatch (k : Core) (q : Nat) (w : W64) (caps : List Nat) (dest : Nat) (mark : Bool) (awaits : List Nat) : Core :=
  let e : QEnt := { mark := mark, w := w, pc := k.pc, g := k.g.filter (fun p => caps.contains p.1), seq := k.seq, awaits := awaits }
  let k1 := pushEnt k q e
  { k1 with
    seq := k.seq + 1
    live := k1.live ++ [(k.seq, q)]
    pend := if dest = 0 then k1.pend else k1.pend ++ [(dest, k.seq)] }

/-- The instruction has issued: the sequencer goes on. -/
def retire (k : Core) : Core := { k with pc := k.pc + 8, ir := none }

/-! ## Local stores -/

/-- Device key of an offset in a hart's local store: the context's unit-store share, or the instance's engine-store share. -/
def localAddr (s : State) (t : Hart) (x : Ctx) (off : Nat) : Nat :=
  match t with
  | .res u _ => shareAddr x u off
  | .inst st i => esAddr st ((instOf s st i).base + off)

def localSize (s : State) (t : Hart) (x : Ctx) : Nat :=
  match t with
  | .res _ _ => shareSize x
  | .inst st i => (instOf s st i).share

/-- The same for the operand cache; in a stack program the engine-store share stands in its place (Table 8.4). -/
def ocAddrOf (s : State) (t : Hart) (x : Ctx) (off : Nat) : Nat :=
  match t with
  | .res u _ => ocAddr u (ocOff x + off)
  | .inst st i => esAddr st ((instOf s st i).base + off)

def ocSizeOf (s : State) (t : Hart) (x : Ctx) : Nat :=
  match t with
  | .res _ _ => ocSize x
  | .inst st i => (instOf s st i).share

/-- An access of n bytes at a 64-bit offset lies within a local store of the given size. -/
def inLocal (size : Nat) (off : W64) (n : Nat) : Bool := decide (off.toNat + n ≤ size)

end Sys2Proof.Machine
end

