-- ==== Sys2Proof/Machine/Flags.lean ====
section
/-!
DEFINITION. Sys2Proof/Machine/Flags.lean: the flag state of a context: the sticky flag word (R86, Table 2.4), the lane flag words
(R177, R178) and the array flag words (R82).
-/

namespace Sys2Proof.Machine

/-- Lane flag word of lane l (R177): bits [7:6] are always 0. -/
def lfGet (k : Core) (l : Nat) : BitVec 9 := Tbl.get 0 k.lf l

/-- The bits a lane flag word can hold (Table 4.1). -/
def lfMask : BitVec 9 := 0x13F

/-- A lane ORs flags into its word and the sticky word (R86, R177). -/
def laneFlags (k : Core) (l : Nat) (f : Flags) : Core :=
  if f = 0 then k
  else orSticky { k with lf := Tbl.set 0 k.lf l (lfGet k l ||| (f &&& lfMask)) } f

/-- The flags of a list of lanes. -/
def lanesFlags (k : Core) (fs : List (Nat × Flags)) : Core := fs.foldl (fun k p => laneFlags k p.1 p.2) k

/-- The array flag word of array n takes the flags of a drained tile, and the sticky word its AOVF and AINV (R82). -/
def drainFlags (k : Core) (n : Nat) (ovf inv : Bool) : Core :=
  let v : BitVec 2 := (if ovf then 1 else 0) ||| (if inv then 2 else 0)
  orSticky { k with aflag := Tbl.put k.aflag n v } ((if ovf then flAOVF else 0) ||| (if inv then flAINV else 0))

end Sys2Proof.Machine
end

