-- ==== Sys2Proof/Machine/VecBase.lean ====
section
/-!
DEFINITION. Sys2Proof/Machine/VecBase.lean: the vector engine's registers (R141 to R146), masks and active lanes (R143 to R145), the
entry at the head of VQ (R153), and the element-wise functions of Tables 6.11 and 2.4 on one lane.
-/

namespace Sys2Proof.Machine

/-! ## Registers -/

def zero128 : List W32 := List.replicate 128 0
def vGet (k : Core) (r : Nat) : List W32 := Tbl.get zero128 k.v r
def vSet (k : Core) (r : Nat) (x : List W32) : Core := { k with v := Tbl.set zero128 k.v r x }
def laneOf (x : List W32) (l : Nat) : W32 := x.getD l 0
/-- k0 reads as all ones (Table 4.1). -/
def kGet (k : Core) (r : Nat) : BitVec 128 := if r = 0 then BitVec.allOnes 128 else Tbl.get 0 k.k r
/-- A result for k0 is discarded (R144). -/
def kSet (k : Core) (r : Nat) (x : BitVec 128) : Core := if r = 0 then k else { k with k := Tbl.set 0 k.k r x }
def tileOf (k : Core) (t : Nat) : Tile := Tbl.get {} k.t t
def tileElem (x : Tile) (i j : Nat) : W32 := x.v.getD (64 * i + j) 0
def zeroTile : List W32 := List.replicate 4096 0
/-- The values of a tile register, row by row. -/
def tileVals (x : Tile) : List W32 := if x.v.isEmpty then zeroTile else x.v
def curGet (k : Core) (c : Nat) : W32 := Tbl.get 0 k.cur c
def curSet (k : Core) (c : Nat) (v : W32) : Core := { k with cur := Tbl.set 0 k.cur c v }

/-- Whether lane l is active under mask register km (R143). -/
def active (k : Core) (km l : Nat) : Bool := (kGet k km).getLsbD l
def activeLanes (k : Core) (km : Nat) : List Nat := (List.range 128).filter (fun l => active k km l)

/-- Lane results under mask and Z (R143). (Log entry 24: DESIGN CHOICE.) -/
def maskLanes (k : Core) (km : Nat) (z : Bool) (old new : List W32) : List W32 :=
  (List.range 128).map (fun l => if active k km l then laneOf new l else if z then 0 else laneOf old l)

def vPut (k : Core) (w : W64) (r : Nat) (new : List W32) : Core :=
  vSet k r (maskLanes k (iKM w) (iZ w) (vGet k r) new)

/-- A vector register as one number, lane 0 lowest (R142). -/
def regNat : List W32 → Nat
  | [] => 0
  | x :: t => x.toNat + 2 ^ 32 * regNat t
def natReg : Nat → Nat → List W32
  | 0, _ => []
  | n + 1, x => BitVec.ofNat 32 x :: natReg n (x / 2 ^ 32)

/-- Packed element e of width w of a register (R142). -/
def pElem (w : Nat) (x : List W32) (e : Nat) : Nat := packGet w (regNat x) e

/-! ## Elements of one lane -/

/-- Bits per element by ET. -/
def etBits (et : Nat) : Nat := if et = 0 then 32 else if et = 1 then 16 else 8

/-- Applies a function of element codes to each element of a lane, joining the flags (R142, R143). -/
def laneMap (w : Nat) (f : Nat → Nat → Nat → Nat × Flags) (a b c : W32) : W32 × Flags :=
  let n := 32 / w
  let rs := (List.range n).map (fun i => f (packGet w a.toNat i) (packGet w b.toNat i) (packGet w c.toNat i))
  (BitVec.ofNat 32 (packAll w (rs.map (·.1))), rs.foldl (fun acc r => acc ||| r.2) 0)

/-- The float format that ET and FMT select (Table 6.10). -/
def elFmt (w : W64) : FpFmt := if iET w = 0 then fp32 else elemFmt (iVFmt w)

/-- The function on element codes of an OP of class 0x5 in Table 6.11, rows 0x00 to 0x28 without `vx.cvt` and `vx.sel`. (Log entry 114: DESIGN CHOICE.) -/
def elemOp (w : W64) (a b c : Nat) : Nat × Flags :=
  let f := elFmt w
  let n := etBits (iET w)
  let signed := iVFmt w != 11
  match iOp w with
  | 0x00 => fpAdd f (iRM w) a b
  | 0x01 => fpSub f (iRM w) a b
  | 0x02 => fpMul f (iRM w) a b
  | 0x03 => fpFma f (iRM w) a b c
  | 0x04 => (fpMin f a b, 0)
  | 0x05 => (fpMaxOp f a b, 0)
  | 0x06 => (a % 2 ^ (n - 1), 0)
  | 0x07 => (if a < 2 ^ (n - 1) then a + 2 ^ (n - 1) else a - 2 ^ (n - 1), 0)
  | 0x08 => fpDiv f (iRM w) a b
  | 0x09 => fpSqrt f (iRM w) a
  | 0x18 => intFit n signed (iSAT w) (intOf n signed a + intOf n signed b)
  | 0x19 => intFit n signed (iSAT w) (intOf n signed a - intOf n signed b)
  | 0x1A => intFit n signed (iSAT w) (intOf n signed a * intOf n signed b)
  | 0x1B => (if intOf n (iSX w) b < intOf n (iSX w) a then b else a, 0)
  | 0x1C => (if intOf n (iSX w) a < intOf n (iSX w) b then b else a, 0)
  | 0x20 => (a &&& b, 0)
  | 0x21 => (a ||| b, 0)
  | 0x22 => (a ^^^ b, 0)
  | 0x23 => (a &&& (2 ^ n - 1 - b), 0)
  | 0x24 => (a * 2 ^ (b % n) % 2 ^ n, 0)
  | 0x25 => (a / 2 ^ (b % n), 0)
  | 0x26 => (((intOf n true a) / (2 ^ (b % n) : Nat) % (2 ^ n : Nat)).toNat, 0)
  | _ => transcend (iOp w) a

/-- One lane of an element-wise instruction; `sel` is the selector bit of `vx.sel`. -/
def laneFn (w : W64) (a b c : W32) (sel : Bool) : W32 × Flags :=
  if iOp w = 0x28 then (if sel then a else b, 0)
  else laneMap (etBits (iET w)) (elemOp w) a b c

/-- Results and flags of the active lanes among 128 (R145: the others do nothing). -/
def runLanes (k : Core) (km : Nat) (f : Nat → W32 × Flags) : List (W32 × Flags) :=
  (List.range 128).map (fun l => if active k km l then f l else (0, 0))

/-- Lane flags of a list of results. -/
def flagLanes (k : Core) (rs : List (W32 × Flags)) : Core := lanesFlags k (rs.zipIdx.map (fun p => (p.2, p.1.2)))

/-- An element-wise instruction in its ordinary form. -/
def elementwise (k : Core) (w : W64) : Core :=
  let a := vGet k (iGA w)
  let b := vGet k (iGB w)
  let c := vGet k (iVC w)
  let ks := kGet k (iVC w % 8)
  let rs := runLanes k (iKM w) (fun l => laneFn w (laneOf a l) (laneOf b l) (laneOf c l) (ks.getLsbD l))
  flagLanes (vPut k w (iGD w) (rs.map (·.1))) rs

/-! ## The head of VQ -/

/-- Whether a drain to tile register t is under way on any array (R130, R150). -/
def tileBusy (k : Core) (t : Nat) : Bool :=
  k.arr.any (fun p => [p.2.b0, p.2.b1].any (fun b => b.st == .draining && iOp b.ent.w == 2 && iDst b.ent.w == t))

/-- The head entry of VQ when it is of class `cls` with an OP that `ok` accepts. -/
def withVq (s : State) (h cls : Nat) (ok : W64 → Bool) (f : Hart → Core → Ctx → QEnt → State) : State :=
  withRun s h fun t k x =>
    match k.vq with
    | [] => s
    | e :: _ => if !e.mark && iClass e.w == cls && ok e.w then f t k x e else s

/-- The head entry has completed: it leaves VQ (R191, R197), and a register it did not write is owed no longer. -/
def vqDone (k : Core) (e : QEnt) : Core := gRelease (doneEnt (dropEnt k 3 e.seq) e.seq) e.seq

/-- A vector instruction whose whole effect is on the core. -/
def vecStep (s : State) (h cls : Nat) (ok : W64 → Bool) (f : Core → QEnt → Core) : State :=
  withVq s h cls ok fun t k _ e => setHartCore s t (vqDone (f k e) e)

/-- OP lies in a range and the form is not a sweep. -/
def opIn (lo hi : Nat) (w : W64) : Bool := decide (lo ≤ iOp w) && decide (iOp w ≤ hi) && !(iTF w)

end Sys2Proof.Machine
end

