-- ==== Sys2Proof/Machine/Matrix.lean ====
section
/-!
DEFINITION. Sys2Proof/Machine/Matrix.lean: the matrix arrays (R102 to R139) and the matrix block of a stack program (R336): acceptance
and its checks, the feeders, k-steps and cells (R75 to R81), drains (R82, R127 to R130).
-/

namespace Sys2Proof.Machine

def arrOf (k : Core) (n : Nat) : ArraySt := Tbl.get {} k.arr n
def setArr (k : Core) (n : Nat) (a : ArraySt) : Core := { k with arr := Tbl.put k.arr n a }
def bankOf (a : ArraySt) (b : Bool) : Bank := if b then a.b1 else a.b0
def setBank (a : ArraySt) (b : Bool) (x : Bank) : ArraySt := if b then { a with b1 := x } else { a with b0 := x }

/-- The open bank, of which there is at most one (R122). -/
def openBank (a : ArraySt) : Option Bool :=
  if a.b0.st == .opened then some false else if a.b1.st == .opened then some true else none
def freeBank (a : ArraySt) : Option Bool :=
  if a.b0.st == .free then some false else if a.b1.st == .free then some true else none

def isSaving (s : State) : Hart → Bool
  | .res u c => (resOf s u c).any (fun r => r.st == .saving)
  | .inst _ _ => false

/-- The arrays of a hart work while its context runs or is being saved (R138), in no other state of it. -/
def worksOn (s : State) (t : Hart) : Bool := live s (hartCtx s t) && (issues s t || isSaving s t)

/-- The hart whose arrays operand h names: as in `hartOf`, a unit's context also in Saving. -/
def engHart (s : State) (h : Nat) : Option Hart :=
  let t := if h < 256 then ((unitOf s h).running).map (fun c => Hart.res h c) else hartOf s h
  t.filter (worksOn s)

def withEng (s : State) (h : Nat) (f : Hart → Core → Ctx → State) : State :=
  match engHart s h with
  | none => s
  | some t =>
    match hartCore s t, ctxOf s (hartCtx s t) with
    | some k, some x => f t k x
    | _, _ => s

/-! ## Operand and dimension registers (Table 3.4) -/

def opStride (g : W64) : Nat := fld g 39 24 * 16
def opBase (g : W64) : Nat := fld g 22 0
def dimN (g : W64) : Nat := fld g 45 40 + 1
def dimM (g : W64) : Nat := fld g 37 32 + 1
def dimK (g : W64) : Nat := fld g 20 0

/-- One operand of a matrix instruction, from its captured pair. -/
structure Panel where
  fmt    : Nat := 0
  trans  : Bool := false
  base   : Nat := 0
  stride : Nat := 0
  scale  : Nat := 0
  rows   : Nat := 64
  deriving DecidableEq, Repr

def panelA (e : QEnt) : Panel :=
  { fmt := iFA e.w, trans := iTA e.w, base := opBase (cap e (iMA e.w)), stride := opStride (cap e (iMA e.w)),
    scale := fld (cap e (iMA e.w + 1)) 22 0, rows := dimM (cap e (iMK e.w)) }
def panelB (e : QEnt) : Panel :=
  { fmt := iFB e.w, trans := iTB e.w, base := opBase (cap e (iMB e.w)), stride := opStride (cap e (iMB e.w)),
    scale := fld (cap e (iMB e.w + 1)) 22 0, rows := dimN (cap e (iMK e.w)) }
def entK (e : QEnt) : Nat := dimK (cap e (iMK e.w))
def isMxEnt (e : QEnt) : Bool := isMx (iFA e.w)
def isIntEnt (e : QEnt) : Bool := isInt8 (iFA e.w)

/-- Bytes of one k-step of direct order (R112). -/
def kBytes (p : Panel) : Nat := 64 * fmtBits p.fmt / 8

/-- R114 and R115 for one operand, R69 for K. -/
def panelOk (p : Panel) (k : Nat) : Bool :=
  p.stride != 0 && p.base % 16 == 0 && (!(isMx p.fmt) || p.scale % 64 == 0)
  && decide ((if p.trans then k * fmtBits p.fmt / 8 else kBytes p) ≤ p.stride)

def mmValuesOk (e : QEnt) : Bool :=
  let k := entK e
  decide (1 ≤ k) && decide (k ≤ 1048576) && panelOk (panelA e) k && panelOk (panelB e) k
  && (!(isMxEnt e) || k % 32 == 0)

/-- One past the last byte of a panel (R117). -/
def panelEnd (p : Panel) (k : Nat) : Nat :=
  if p.trans then p.base + (p.rows - 1) * p.stride + k * fmtBits p.fmt / 8
  else p.base + (k - 1) * p.stride + kBytes p

def panelIn (p : Panel) (k size : Nat) : Bool :=
  decide (panelEnd p k ≤ size) && (!(isMx p.fmt) || decide (p.scale + k / 32 * 64 ≤ size))

/-- Every byte the instruction reads lies within the share (R117). -/
def mmInShare (e : QEnt) (size : Nat) : Bool := panelIn (panelA e) (entK e) size && panelIn (panelB e) (entK e) size

/-! ## Acceptance -/

/-- The head entry of AQn. -/
def aqHead (k : Core) (n : Nat) : Option QEnt := (queueEnts k n).head?

def withAq (s : State) (h n op : Nat) (f : Hart → Core → Ctx → QEnt → State) : State :=
  withRun s h fun t k x =>
    match aqHead k n with
    | none => s
    | some e => if n < 3 ∧ !e.mark ∧ iClass e.w = 4 ∧ iOp e.w = op then f t k x e else s

/-- The banks in use of a core's arrays, and whether one is open. -/
def usedBanks (k : Core) : Nat := (k.arr.map (fun p => ([p.2.b0, p.2.b1].filter (fun b => b.st != .free)).length)).foldl (· + ·) 0
def anyOpen (k : Core) : Bool := k.arr.any (fun p => (openBank p.2).isSome)

/-- A stack engine has one matrix block with two banks, of which one at most is open (R336, R122): an instance's `mm.clr` waits while the
other instances leave it none. (Log entry 100: DESIGN CHOICE.) -/
def blockTaken (s : State) (t : Hart) (k : Core) : Bool :=
  match t with
  | .res _ _ => false
  | .inst st i =>
    let os := ((seOf s st).inst.filter (fun p => p.1 != i && p.2.active)).map (·.2.core)
    os.any anyOpen || decide (2 ≤ usedBanks k + (os.map usedBanks).foldl (· + ·) 0)

def zeroCells : List Cell := List.replicate 4096 {}

/-- The array takes the entry from the head of its queue and adds its k-steps to its work. -/
def acceptMm (k : Core) (n : Nat) (e : QEnt) (b : Bool) (x : Bank) : Core :=
  let k1 := dropEnt k n e.seq
  let a := setBank (arrOf k1 n) b x
  setArr k1 n { a with work := a.work ++ [{ ent := e, k := 0, bank := b }] }

def execMmClr (h n : Nat) (s : State) : Out :=
  .next (withAq s h n 0 fun t k x e =>
    let a := arrOf k n
    if (openBank a).isSome then faultEnt s t fIllegal e
    else if blockTaken s t k then s
    else match freeBank a with
      | none => s
      | some b =>
        if !(mmValuesOk e) then faultEnt s t fIllegal e
        else if !(mmInShare e (localSize s t x)) then faultEnt s t fExtent e
        else setHartCore s t (acceptMm k n e b
          { st := .opened, m := (panelA e).rows, n := (panelB e).rows, int := isIntEnt e, cells := zeroCells }))

def execMmAcc (h n : Nat) (s : State) : Out :=
  .next (withAq s h n 1 fun t k x e =>
    let a := arrOf k n
    match openBank a with
    | none => faultEnt s t fIllegal e
    | some b =>
      let y := bankOf a b
      if y.m ≠ (panelA e).rows ∨ y.n ≠ (panelB e).rows ∨ y.int ≠ isIntEnt e ∨ !(mmValuesOk e) then faultEnt s t fIllegal e
      else if !(mmInShare e (localSize s t x)) then faultEnt s t fExtent e
      else setHartCore s t (acceptMm k n e b y))

/-- The bank drains; the entry has left the queue and completes with its last row (R122, Table 5.3). -/
def acceptDrain (k : Core) (n : Nat) (e : QEnt) (b : Bool) : Core :=
  let k1 := dropEnt k n e.seq
  let a := arrOf k1 n
  setArr k1 n (setBank a b { bankOf a b with st := .draining, ent := e, started := false })

def execMmDrainTile (h n : Nat) (s : State) : Out :=
  .next (withAq s h n 2 fun t k _ e =>
    match openBank (arrOf k n) with
    | none => faultEnt s t fIllegal e
    | some b => if tileBusy k (iDst e.w) then s else setHartCore s t (acceptDrain k n e b))

/-- Offset and row stride of a unit-store drain (R129). -/
def drainOff (e : QEnt) : Nat := fld (cap e (iDst e.w)) 22 0
def drainStride (e : QEnt) : Nat := fld (cap e (iDst e.w)) 39 24 * 32
def roundUp (x g : Nat) : Nat := (x + g - 1) / g * g

def execMmDrainUs (h n : Nat) (s : State) : Out :=
  .next (withAq s h n 3 fun t k x e =>
    let a := arrOf k n
    match openBank a with
    | none => faultEnt s t fIllegal e
    | some b =>
      let y := bankOf a b
      if drainOff e % 32 ≠ 0 ∨ drainStride e < roundUp (y.n * 4) 32 then faultEnt s t fIllegal e
      else if localSize s t x < drainOff e + (y.m - 1) * drainStride e + y.n * 4 then faultEnt s t fExtent e
      else setHartCore s t (acceptDrain k n e b))

/-! ## Feeders (R109 to R113, R116, R120, R121) -/

/-- Offset of the bytes of row i at k-step kk, and their count; sub-byte elements lie in the k-step's own bit string. -/
def elemByte (p : Panel) (kk i : Nat) : Nat :=
  if p.trans then p.base + i * p.stride + kk * fmtBits p.fmt / 8
  else p.base + kk * p.stride + i * fmtBits p.fmt / 8

/-- The local-store ranges one k-step reads: start and length. -/
def kRanges (p : Panel) (kk : Nat) : List (Nat × Nat) :=
  (if p.trans then (List.range p.rows).map (fun i => (elemByte p kk i, fmtBits p.fmt / 8))
   else [(p.base + kk * p.stride, (p.rows * fmtBits p.fmt + 7) / 8)])
  ++ (if isMx p.fmt then [(p.scale + kk / 32 * 64, p.rows)] else [])

/-- The 64 element codes of k-step kk: +0 beyond the panel's rows. (Log entry 23: DEDUCED.) -/
def kElems (s : State) (addr : Nat → Nat) (p : Panel) (kk : Nat) : List Nat :=
  let direct := leNat (memBytes s (addr (p.base + kk * p.stride)) (if p.trans then 0 else kBytes p))
  (List.range 64).map (fun i =>
    if i < p.rows then
      (if p.trans then leNat (memBytes s (addr (elemByte p kk i)) (fmtBits p.fmt / 8))
       else packGet (fmtBits p.fmt) direct i)
    else 0)

/-- The 64 scale bytes of the block of k-step kk; rows beyond the panel's take 2^0. -/
def kScales (s : State) (addr : Nat → Nat) (p : Panel) (kk : Nat) : List Nat :=
  if isMx p.fmt then
    (List.range 64).map (fun i => if i < p.rows then (memByte s (addr (p.scale + kk / 32 * 64 + i))).toNat else 127)
  else []

/-- The entries a feeder may fetch for, in order: the accepted ones, then those of its queue up to a mark. -/
def feedEnts (k : Core) (n : Nat) : List (QEnt × Nat × Bool) :=
  (arrOf k n).work.map (fun c => (c.ent, c.k, true))
  ++ ((queueEnts k n).takeWhile (fun e => !e.mark)).filterMap (fun e => if iOp e.w ≤ 1 then some (e, 0, false) else none)

/-- The next k-step to fetch: the first entry with one left. (Log entry 25: DESIGN CHOICE.) -/
def feedNext (a : ArraySt) : List (QEnt × Nat × Bool) → Option (QEnt × Nat × Bool)
  | [] => none
  | (e, k0, acc) :: t =>
    let got := k0 + (a.feed.filter (fun d => d.seq == e.seq)).length
    if got < entK e then some (e, got, acc) else feedNext a t

/-- What a held k-step takes of the feeder's buffers (R112, R113, R120): element bytes of A and of B, each by its own entry's formats,
and scale bytes, held once for the k-steps of a block that are fetched together. -/
def feedBytes (l : List KData) : Nat × Nat × Nat :=
  (l.zipIdx.map (fun p =>
    let prev := (l.take p.2).getLast?
    (p.1.abytes, p.1.bbytes,
      if prev.any (fun q => q.seq == p.1.seq && q.blkNo == p.1.blkNo) then 0 else p.1.sa.length + p.1.sb.length))).foldl
    (fun t x => (t.1 + x.1, t.2.1 + x.2.1, t.2.2 + x.2.2)) (0, 0, 0)

/-- The buffers hold the k-steps fetched and the one to fetch: 16 KiB of each operand, 512 bytes of scales (R120). -/
def feedRoom (held : List KData) (d : KData) : Bool :=
  let t := feedBytes (held ++ [d])
  decide (t.1 ≤ 16384) && decide (t.2.1 ≤ 16384) && decide (t.2.2 ≤ 512)

/-- Log entry 25: DESIGN CHOICE. -/
def fetchK (s : State) (addr : Nat → Nat) (e : QEnt) (kk : Nat) : KData :=
  { seq := e.seq, abytes := kBytes (panelA e), bbytes := kBytes (panelB e), blkNo := kk / 32
    a := kElems s addr (panelA e) kk, b := kElems s addr (panelB e) kk,
    sa := kScales s addr (panelA e) kk, sb := kScales s addr (panelB e) kk }

/-- Fetches the next k-step's operands. A poisoned word met for an accepted instruction is a poison fault (R273); a run-ahead
read of one is dropped without trace (R121), as is one that would leave the share. While the context is being saved only the
rest of an MX block is fetched (R138). (Log entry 25: DESIGN CHOICE.) -/
def execFeederFetch (h n : Nat) (s : State) : Out :=
  .next (withEng s h fun t k x =>
    let a := arrOf k n
    match feedNext a (feedEnts k n) with
    | none => s
    | some (e, kk, acc) =>
      let addr := localAddr s t x
      if isSaving s t && a.blk.isEmpty then s
      else if !(mmValuesOk e && mmInShare e (localSize s t x) && feedRoom a.feed (fetchK s addr e kk)) then s
      else if (kRanges (panelA e) kk ++ kRanges (panelB e) kk).any (fun p => rawPoison s (addr p.1) p.2) then
        (if acc then faultEnt s t fPoison e else s)
      else setHartCore s t (setArr k n { a with feed := a.feed ++ [fetchK s addr e kk] }))

/-! ## Cells (R75 to R81) -/

/-- A cell that reaches NaN (R81). -/
def nanCell : Cell := { acc := 0x7FC00000, sat := false, nan := true }

/-- A cell that overflows: the largest finite value with a sign (R80). -/
def satCell (neg : Bool) : Cell := { acc := BitVec.ofNat 32 (fpMax fp32 neg), sat := true, nan := false }

/-- Adds an exact product, or an exact block, to an FP32 cell with one rounding to nearest even (R75, R76, R80, R81). -/
def cellAdd (c : Cell) (p : Num) : Cell :=
  if c.nan then c
  else match p with
    | .nan _ => { nanCell with sat := c.sat }
    | .inf neg => if c.sat then c else satCell neg
    | .fin neg m e =>
      if c.sat then c
      else match numAdd rmRNE (fpDecode fp32 c.acc.toNat) (.fin neg m e) with
        | .fin q n f =>
          let r := fpRound fp32 rmRNE true 0 q n f
          { c with acc := BitVec.ofNat 32 r.1, sat := r.2 &&& flOF != 0 }
        | _ => c

/-- Adds an exact integer product to an INT32 cell (R77, R80). -/
def cellAddInt (c : Cell) (p : Int) : Cell :=
  if c.sat then c
  else
    let r := intFit 32 true true (c.acc.toInt + p)
    { c with acc := BitVec.ofNat 32 r.1, sat := r.2 != 0 }

/-- The product of one pair of element codes. (Log entry 23: DEDUCED.) -/
def pairNum (fa fb a b : Nat) : Num := numMul (plainValue fa a) (plainValue fb b)
def pairInt (fa fb a b : Nat) : Int := intOf 8 (fa == 10) a * intOf 8 (fb == 10) b

/-- What one MX block adds to a cell (R76, R81): NaN, an infinity with the sign of the first infinite product, or the exact scaled
sum. -/
def blockNum (fa fb sa sb : Nat) (prs : List (Nat × Nat)) : Num :=
  if sa = 0xFF ∨ sb = 0xFF then .nan false
  else
    let ps := prs.map (fun q => numMul (fpDecode (elemFmt fa) q.1) (fpDecode (elemFmt fb) q.2))
    if ps.any isNan then .nan false
    else match ps.find? isInf with
      | some p => p
      | none =>
        match ps.foldl (fun acc p => numAdd rmRNE acc p) (.fin false 0 0) with
        | .fin neg m e => .fin neg m (e + sa + sb - 254)
        | p => p

/-- Every cell of a bank, by row and column. -/
def mapCells (cells : List Cell) (f : Nat → Nat → Cell → Cell) : List Cell :=
  cells.zipIdx.map (fun p => f (p.2 / 64) (p.2 % 64) p.1)

/-- One k-step of a format without block scales. -/
def stepCells (e : QEnt) (d : KData) (cells : List Cell) : List Cell :=
  mapCells cells (fun i j c =>
    let a := d.a.getD i 0
    let b := d.b.getD j 0
    if isIntEnt e then cellAddInt c (pairInt (iFA e.w) (iFB e.w) a b)
    else cellAdd c (pairNum (iFA e.w) (iFB e.w) a b))

/-- A whole MX block; `blk` is newest first. -/
def blockCells (e : QEnt) (blk : List KData) (cells : List Cell) : List Cell :=
  let ds := blk.reverse
  let d := ds.headD {}
  mapCells cells (fun i j c =>
    cellAdd c (blockNum (iFA e.w) (iFB e.w) (d.sa.getD i 127) (d.sb.getD j 127)
      (ds.map (fun x => (x.a.getD i 0, x.b.getD j 0)))))

/-- The array's next k-step enters (R104, R105). The instruction completes with its last accumulator update (Table 5.3). -/
def kStepArr (a : ArraySt) (c : MmCur) (d : KData) (rest : List KData) : ArraySt :=
  let y := bankOf a c.bank
  let mx := isMxEnt c.ent
  let full := mx && c.k % 32 == 31
  let cells := if mx then (if full then blockCells c.ent (d :: a.blk) y.cells else y.cells) else stepCells c.ent d y.cells
  let a1 := setBank a c.bank { y with cells := cells }
  { a1 with
    feed := rest
    blk := if mx && !full then d :: a.blk else []
    work := if c.k + 1 = entK c.ent then a.work.tail else { c with k := c.k + 1 } :: a.work.tail }

def execKStep (h n : Nat) (s : State) : Out :=
  .next (withEng s h fun t k _ =>
    let a := arrOf k n
    match a.work, a.feed with
    | c :: _, d :: rest =>
      if d.seq ≠ c.ent.seq ∨ (isSaving s t && a.blk.isEmpty) then s
      else
        let k1 := setArr k n (kStepArr a c d rest)
        setHartCore s t (if c.k + 1 = entK c.ent then doneEnt k1 c.ent.seq else k1)
    | _, _ => s)

/-! ## Drains (R82, R127 to R130) -/

/-- The bank whose drain has started, or can start because none of its k-steps is left. -/
def drainBank (a : ArraySt) (started : Bool) : Option Bool :=
  let can (b : Bool) : Bool := (bankOf a b).st == .draining && (bankOf a b).started == started
    && (started || a.work.all (fun c => c.bank != b))
  -- the drain accepted first goes first
  if can false && can true then some (decide (a.b1.ent.seq < a.b0.ent.seq))
  else if can false then some false else if can true then some true else none

def execDrainStart (h n : Nat) (s : State) : Out :=
  .next (withEng s h fun t k _ =>
    let a := arrOf k n
    match drainBank a true, drainBank a false with
    | none, some b => setHartCore s t (setArr k n (setBank a b { bankOf a b with started := true }))
    | _, _ => s)

/-- The value a drain writes at (i, j): +0 beyond M and N (R128). -/
def drainVal (b : Bank) (i j : Nat) : W32 := if i < b.m ∧ j < b.n then (b.cells.getD (64 * i + j) {}).acc else 0

def drainTile (b : Bank) : List W32 := (List.range 4096).map (fun x => drainVal b (x / 64) (x % 64))

/-- The rows of a unit-store drain: address and bytes (R129). -/
def drainRows (b : Bank) (addr : Nat → Nat) : List (Nat × List Byte) :=
  (List.range b.m).map (fun i =>
    (addr (drainOff b.ent + i * drainStride b.ent), (List.range b.n).flatMap (fun j => leBytes 4 (drainVal b i j).toNat)))

/-- The last row is written: the bank is free, the array's flags replaced, the entry complete (Table 3.5, R82). -/
def finishDrain (k : Core) (n : Nat) (b : Bool) : Core :=
  let a := arrOf k n
  let y := bankOf a b
  let k1 := setArr k n (setBank a b {})
  doneEnt (drainFlags k1 n (y.cells.any (·.sat)) (y.cells.any (·.nan))) y.ent.seq

def execDrainComplete (h n : Nat) (s : State) : Out :=
  .next (withEng s h fun t k x =>
    let a := arrOf k n
    match drainBank a true with
    | none => s
    | some b =>
      let y := bankOf a b
      if iOp y.ent.w = 2 then
        let k1 := { k with t := Tbl.put k.t (iDst y.ent.w) { v := drainTile y, written := true } }
        setHartCore s t (finishDrain k1 n b)
      else
        let r := (drainRows y (localAddr s t x)).foldl
          (fun (r : State × Bool) p => let z := rawWrite r.1 p.1 p.2; (z.1, r.2 || z.2)) (s, false)
        let s1 := setHartCore r.1 t (finishDrain k n b)
        if r.2 then faultEnt s1 t fPoison y.ent else s1)

end Sys2Proof.Machine
end

