-- ==== Sys2Proof/Machine/Switch.lean ====
section
/-!
DEFINITION. Sys2Proof/Machine/Switch.lean: the states of a resident context (Table 5.6): leaving Running, saving, becoming Ready, being
selected (R210 to R215), and the evaluation of a wait (R397 to R402).
-/

namespace Sys2Proof.Machine

/-- Another resident of the unit is Ready (R396). -/
def otherReady (s : State) (u c : Nat) : Bool :=
  (residents s u).any (fun p => p.1 != c && p.2.st == .ready)

/-- R211: a has the better claim to run than b: priority, then the time it left Running, then the lower CTX_ID. -/
def better (s : State) (a b : Nat × Res) : Bool :=
  let pa : Nat := ((ctxOf s a.1).map (·.prio)).getD 0
  let pb : Nat := ((ctxOf s b.1).map (·.prio)).getD 0
  if pa ≠ pb then decide (pb < pa)
  else if a.2.left ≠ b.2.left then decide (a.2.left < b.2.left)
  else decide (a.1 < b.1)

/-- A resident that may be selected. -/
def mayRun (s : State) (p : Nat × Res) : Bool := p.2.st == .ready && live s p.1 && !p.2.held

def bestReady (s : State) (u : Nat) : Option (Nat × Res) :=
  ((residents s u).filter (mayRun s)).foldl
    (fun acc p => match acc with
      | none => some p
      | some q => if better s p q then some p else some q) none

/-- The running context leaves Running for Saving (R210, R214), and its unit selects the resident to run after it (R211). (Log entry 98: DEDUCED.) -/
def leaveRunning (s : State) (u c : Nat) : State :=
  match resOf s u c with
  | some r =>
    if r.st == .running then
      let s1 : State := { setRes s u c { r with st := .saving, left := s.order } with order := s.order + 1 }
      flushGathered (updUnit s1 u (fun x => { x with next := (bestReady s1 u).map (·.1) })) u c
    else s
  | none => s

/-- The context waits; with SWAIT = 1 and another resident Ready it leaves Running (R396). (Log entry 13: DEDUCED.) -/
def afterWait (s : State) (t : Hart) (x : Ctx) : State :=
  match t with
  | .res u c => if x.swait && otherReady s u c then leaveRunning s u c else s
  | .inst _ _ => s

/-- The movers' issued requests have retired (R215). -/
def retired (k : Core) : Bool := k.mq.all (fun p => p.2.ents.all (fun e => e.out.isEmpty))

/-- A wait keeps a Saved context Saved until its condition is met; a `sy.wait` or a context with no wait is Ready at once. -/
def waitHolds (k : Core) : Bool :=
  match k.wait with
  | .none => false
  | .queues _ => false
  | .sleep _ _ _ => true
  | .bar _ _ => true
  | .halt => true

/-- Saved to Ready, when nothing keeps it (Table 5.6, R215). (Log entry 15: DESIGN CHOICE.) -/
def settle (s : State) (u c : Nat) : State :=
  updRes s u c (fun r =>
    if r.st == .saved && !(waitHolds r.core) && retired r.core && !r.held then { r with st := .ready } else r)

/-- Arrays have reached a block boundary and every drain that can run has completed (R138). -/
def arraysStill (k : Core) : Bool :=
  k.arr.all (fun p => p.2.blk.isEmpty && (drainBank p.2 true).isNone && (drainBank p.2 false).isNone)

/-- What is not saved: feeder buffers (R139), a fetch under way. -/
def savedCore (k : Core) : Core :=
  { k with arr := k.arr.map (fun p => (p.1, { p.2 with feed := [] })), miss := none }

/-! The tile save area (Table 5.7). Its contents are not architectural (R201): the blocks are the rule's, the places within a block the
model's. The vector block holds the tile images last (R180). An image is a list of pieces, each an offset in the area and its bytes. -/

/-- Log entry 16: DESIGN CHOICE. -/
def tileImage : Nat := 0x15000 + 16656

/-- The tile registers whose image the bank word at offset w of the save area touches. (Log entry 16: DESIGN CHOICE.) -/
def tilesAt (w : Nat) : List Nat :=
  (List.range 16).filter (fun t => decide (tileImage + t * 16384 < w + 32) && decide (w < tileImage + (t + 1) * 16384))

/-- The word holds nothing but tile images. (Log entry 16: DESIGN CHOICE.) -/
def tileOnly (w : Nat) : Bool := decide (tileImage ≤ w) && decide (w + 32 ≤ tileImage + 16 * 16384)

/-- A save writes the word: the three blocks of state, and the images of tile registers whose written bit is 1. (Log entry 16: DESIGN CHOICE.) -/
def savedWord (k : Core) (w : Nat) : Bool :=
  decide (w < 0x14C00) || (decide (0x15000 ≤ w) && decide (w < tileImage)) || (tilesAt w).any (fun t => (Tbl.get {} k.t t).written)

/-- Poisoned words of context x's save area on unit u, by offset. (Log entry 16: DESIGN CHOICE.) -/
def savePoison (s : State) (x : Ctx) (u : Nat) : List Nat :=
  let b := usAddr u (saveOff x)
  (s.poison.filter (fun p => decide (b ≤ p) && decide (p < b + saveSize))).map (fun p => p - b)

/-- A queue entry's image: instruction word, PC with the mark bit above it, captured registers, at `o`. (Log entry 16: DESIGN CHOICE.) -/
def entImage (o : Nat) (e : QEnt) : List (Nat × List Byte) :=
  (o, leBytes 8 e.w.toNat) :: (o + 8, leBytes 8 (e.pc.toNat + if e.mark then 2 ^ 63 else 0)) ::
    e.g.zipIdx.map (fun p => (o + 16 + 8 * p.2, leBytes 8 p.1.2.toNat))

/-- Log entry 16: DESIGN CHOICE. -/
def queueImage (o size : Nat) (l : List QEnt) : List (Nat × List Byte) := l.zipIdx.flatMap (fun p => entImage (o + size * p.2) p.1)

/-- A wait's image: its kind, destination, condition and deadline. (Log entry 16: DESIGN CHOICE.) -/
def waitImage : WaitSt → List (Nat × List Byte)
  | .none => []
  | .queues _ => [(0x120, [1])]
  | .sleep gd v d => [(0x120, [2, BitVec.ofNat 8 gd]), (0x128, leBytes 8 v.toNat), (0x130, leBytes 8 d.toNat)]
  | .bar gd level => [(0x120, [3, BitVec.ofNat 8 gd, BitVec.ofNat 8 level])]
  | .halt => [(0x120, [4])]

/-- The sequencer block: registers, the tile registers' written and poison bits, the arrays' k positions, queue entries with captured
operands, marks, and how far each mover entry and sweep has come. (Log entry 16: DESIGN CHOICE.) -/
def seqImage (k : Core) : List (Nat × List Byte) :=
  k.g.map (fun p => (8 * p.1, leBytes 8 p.2.toNat))
  ++ [(0x100, leBytes 8 k.pc.toNat), (0x108, leBytes 1 k.p.toNat), (0x10C, leBytes 4 k.sticky.toNat), (0x118, leBytes 8 k.seq)]
  ++ k.aflag.map (fun p => (0x110 + p.1, leBytes 1 p.2.toNat)) ++ waitImage k.wait
  ++ [(0x114, leBytes 1 (if k.xln then 1 else 0))]
  ++ k.pend.map (fun p => (0x140 + 8 * p.1, leBytes 8 (p.2 + 1)))
  ++ k.t.flatMap (fun p => [(0x240 + p.1, leBytes 1 ((if p.2.written then 1 else 0) + (if p.2.poison then 2 else 0)))])
  ++ k.arr.map (fun p => (0x250 + 8 * p.1, leBytes 8 ((p.2.work.head?.map (·.k)).getD 0)))
  ++ queueImage 0x400 0x38 k.aq0 ++ queueImage 0x780 0x38 k.aq1 ++ queueImage 0xB00 0x38 k.aq2 ++ queueImage 0xE80 0x28 k.vq
  ++ k.mq.flatMap (fun p => queueImage (0x1380 + 0xA00 * p.1) 0x28 (p.2.ents.map (·.ent)))
  ++ queueImage 0x6380 0x18 k.sq ++ queueImage 0x6500 0x18 k.cq
  ++ k.mq.flatMap (fun p => p.2.ents.zipIdx.map (fun e => (0x65C0 + 0x200 * p.1 + 8 * e.2, leBytes 8 (e.1.row * e.1.rowBytes + e.1.off))))
  ++ k.vq.zipIdx.map (fun p => (0x75C0 + p.2, leBytes 1 p.1.row))

/-- An array's block: the open bank row by row, its saturated marks, its NaN marks (R138). (Log entry 16: DESIGN CHOICE.) -/
def arrImage (o : Nat) (a : ArraySt) : List (Nat × List Byte) :=
  match openBank a with
  | none => []
  | some b =>
    let cs := (bankOf a b).cells
    let marks (f : Cell → Bool) : List Byte := leBytes 512 (cs.zipIdx.foldl (fun n c => if f c.1 then n + 2 ^ c.2 else n) 0)
    cs.zipIdx.map (fun c => (o + 4 * c.2, leBytes 4 c.1.acc.toNat)) ++ [(o + 0x4000, marks (·.sat)), (o + 0x4200, marks (·.nan))]

/-- The vector engine's block (R180): v0 to v31, k1 to k7, LF, the cursors, then the tile registers that are written. (Log entry 16: DESIGN CHOICE.) -/
def vecImage (k : Core) : List (Nat × List Byte) :=
  let b := 0x15000
  k.v.map (fun p => (b + 512 * p.1, p.2.flatMap (fun x => leBytes 4 x.toNat)))
  ++ k.k.map (fun p => (b + 16384 + 16 * (p.1 - 1), leBytes 16 p.2.toNat))
  ++ [(b + 16496, leBytes 144 (k.lf.foldl (fun n p => n + p.2.toNat * 2 ^ (9 * p.1)) 0))]
  ++ k.cur.map (fun p => (b + 16640 + 4 * p.1, leBytes 4 p.2.toNat))
  ++ (k.t.filter (fun p => p.2.written)).map (fun p => (tileImage + 16384 * p.1, p.2.v.flatMap (fun x => leBytes 4 x.toNat)))

/-- The image that a save writes (Table 5.7). (Log entry 16: DESIGN CHOICE.) -/
def saveImage (k : Core) : List (Nat × List Byte) :=
  seqImage k ++ k.arr.flatMap (fun p => if p.1 < 3 then arrImage (0x8000 + 0x4400 * p.1) p.2 else []) ++ vecImage k

/-- The save area is written: the words that the image covers hold it, and their poison and held-data bits follow (R37, R180, R217,
R274). (Log entry 16: DESIGN CHOICE.) -/
def writeSave (s : State) (u : Nat) (x : Ctx) (k : Core) : State :=
  let b := usAddr u (saveOff x)
  let gone (a : Nat) : Bool := decide (b ≤ a) && decide (a < b + saveSize) && savedWord k ((a - b) / 32 * 32)
  { s with
    mem := (saveImage k).foldl (fun m p => putBytes m (b + p.1) p.2) (s.mem.filter (fun c => !(gone c.1)))
    poison := s.poison.filter (fun p => !(gone p))
    heldData := ((List.range 92).map (fun i => u * 2048 + x.saveOff + i)).foldl NSet.ins s.heldData }

/-- A restore (R628): a poisoned tile image poisons its register, any other poisoned word of the save area tears the context down (R27). (Log entry 16: DESIGN CHOICE.) -/
def restoreSave (s : State) (u c : Nat) : State :=
  match ctxOf s c, resOf s u c with
  | some x, some r =>
    let ws := savePoison s x u
    if ws.any (fun w => !(tileOnly w)) then
      bump (raiseFault s c fPoison ((Config.freeWord s.freeCtr).toNat % 2 ^ 48) u none)
    else if ws.isEmpty then s
    else
      let bad := ws.flatMap tilesAt
      setRes s u c { r with core := { r.core with
        t := r.core.t.map (fun p => (p.1, { p.2 with poison := p.2.poison || (p.2.written && bad.contains p.1) })) } }
  | _, _ => s

/-- Log entry 15: DESIGN CHOICE. -/
def doSaved (s : State) (u c : Nat) : State :=
  match resOf s u c with
  | some r =>
    if r.st == .saving && live s c && arraysStill r.core then
      let s0 := match ctxOf s c with
        | none => s
        | some x => writeSave s u x r.core
      let s1 := setRes s0 u c { r with st := .saved, core := savedCore r.core }
      settle (updUnit s1 u (fun x => if x.running == some c then { x with running := none } else x)) u c
    else s
  | none => s

/-- The resident to run: the one selected when the last one left Running, while it still may run, or else the best Ready one (R211). (Log entry 98: DEDUCED.) -/
def selected (s : State) (u : Nat) : Option (Nat × Res) :=
  match (unitOf s u).next with
  | none => bestReady s u
  | some c =>
    match resOf s u c with
    | some r => if mayRun s (c, r) then some (c, r) else bestReady s u
    | none => bestReady s u

/-- The unit selects the Ready resident to run and restores it (R211, R181); its island starts (R667). A unit that is out of service runs
nothing. (Log entry 17: DESIGN CHOICE.) -/
def doSelect (s : State) (u : Nat) : State :=
  let x := unitOf s u
  if x.running.isSome || !x.en || x.quar != .inService || !(islandOn s (islandOf s u) || islandReady s (islandOf s u)) then s
  else match selected s u with
    | none => s
    | some (c, r) =>
      restoreSave (setUnit (setRes (startIsland s (islandOf s u)) u c { r with st := .running }) u
        { x with running := some c, next := none, net := r.core.xln }) u c

/-- A running context that waits with SWAIT = 1 leaves Running as soon as another resident is Ready, whichever of the two
came first (R396, Table 5.6; DEDUCED). A `sy.wait` never leaves Running. (Log entry 13: DEDUCED.) -/
def yieldWait (s : State) (u : Nat) : State :=
  match (unitOf s u).running with
  | none => s
  | some c =>
    match resOf s u c, ctxOf s c with
    | some r, some x => if waitHolds r.core && x.swait && otherReady s u c && live s c then leaveRunning s u c else s
    | _, _ => s

/-- The unit selects under R211; a waiting context with SWAIT = 1 first leaves Running. (Log entry 13: DEDUCED.) -/
def execUnitSelect (u : Nat) (s : State) : Out := .next (yieldWait (doSelect s u) u)

/-- The context is no longer Saving on unit u: a CTX_PREEMPT completes with its last unit (Table 15.3). -/
def preemptSaved (s : State) (u c : Nat) : State :=
  match ctxOf s c with
  | none => s
  | some x =>
    if (resOf s u c).any (fun r => r.st == .saving) then s
    else
      let us := x.preemptU.filter (fun v => v != u)
      if us.isEmpty then
        x.preempt.foldl (fun s j => finishJob s j 0 0 0) (setCtx s c { x with preempt := [], preemptU := [] })
      else setCtx s c { x with preemptU := us }

def execSaveComplete (u c : Nat) (s : State) : Out := .next (preemptSaved (doSaved s u c) u c)

/-- R212: slices end on multiples of SLICE µs of fabric time (16,000 units of 1/16 ns each). -/
def execSliceEnd (u : Nat) (t : W64) (s : State) : Out :=
  .next (
    let s := advance s t
    match (unitOf s u).running with
    | none => s
    | some c =>
      match ctxOf s c with
      | none => s
      | some x =>
        if x.slice ≠ 0 ∧ s.time.now.toNat % (x.slice * 16000) = 0 ∧ live s c then leaveRunning s u c else s)

/-! ## Waits and wakes -/

/-- Fields of a condition word (Table 10.1). -/
def cValue (v : W64) : Nat := fld v 63 32
def cTimeout (v : W64) : Nat := fld v 31 20
def cBar (v : W64) : Bool := bit v 19
def cSrc (v : W64) : Nat := fld v 15 14
def cCmp (v : W64) : Nat := fld v 13 12
def cIndex (v : W64) : Nat := fld v 11 0

/-- No reserved value (R399). -/
def condOk (v : W64) : Bool :=
  fld v 18 16 == 0 && cCmp v != 3
  && (match cSrc v with
      | 0 => decide (cIndex v ≤ 15)
      | 1 => decide (cIndex v ≤ 255)
      | _ => cCmp v == 0 && cIndex v == 0)

/-- The watched word is 8-byte aligned and within the share (R400). -/
def watchOk (x : Ctx) (v : W64) : Bool := cSrc v != 2 || (cValue v % 8 == 0 && inShare x (cValue v) 8)

/-- The source a condition looks at: the low 32 bits of it, and the whole of a watched word. -/
def condSource (s : State) (u : Nat) (x : Ctx) (r : Res) (v : W64) : Nat :=
  match cSrc v with
  | 0 => (Tbl.get 0 r.sig (cIndex v)).toNat
  | 1 => (Tbl.get 0 x.ctr (cIndex v)).toNat
  | 2 => leNat (memBytes s (shareAddr x u (cValue v)) 8)
  | _ => 0

/-- The watched word lies in a poisoned bank word: no value is read from it (R273, R627; DEDUCED). (Log entry 14: DEDUCED.) -/
def condPoison (s : State) (u : Nat) (x : Ctx) (v : W64) : Bool := cSrc v == 2 && rawPoison s (shareAddr x u (cValue v)) 8

/-- R400. -/
def condMet (v : W64) (src : Nat) : Bool :=
  match cSrc v with
  | 3 => false
  | 2 => src != 0
  | _ =>
    match cCmp v with
    | 0 => decide (subMod 32 src (cValue v) < 2 ^ 31)
    | 1 => src &&& cValue v != 0
    | _ => src != cValue v

/-- Why a sleep ends (Table 10.2), the lowest code that holds; `timeout` and `host` say what else has happened. -/
def sleepReason (r : Res) (v : W64) (src : Nat) (timeout host : Bool) : Option Nat :=
  if condMet v src then some 0
  else if cBar v && r.barDone.any (fun p => p.2 == 0) then some 1
  else if cBar v && r.barDone.any (fun p => p.2 == 1) then some 2
  else if timeout then some 3
  else if host then some 4
  else none

/-- What gd receives (R402). -/
def sleepResult (v : W64) (src reason : Nat) : W64 :=
  BitVec.ofNat 64 ((if cSrc v = 3 then 0 else src % 2 ^ 32) * 2 ^ 32 + reason)

/-- Barrier outcomes that a sleep reports are consumed with it. -/
def takeBars (r : Res) (reason : Nat) : Res :=
  if reason = 1 then { r with barDone := r.barDone.filter (fun p => p.2 != 0) }
  else if reason = 2 then { r with barDone := r.barDone.filter (fun p => p.2 != 1) }
  else r

/-- Evaluates the wait of resident context c on unit u (R397, R398); a wait that ends makes a Saved context Ready. A sleep that
would read a poisoned watched word takes a poison fault at its `sy.sleep`. -/
def evalWait (s : State) (u c : Nat) (timeout host : Bool) : State :=
  let wake (s : State) (r : Res) : State := settle (setRes (startIsland s (islandOf s u)) u c r) u c
  match resOf s u c, ctxOf s c with
  | some r, some x =>
    match r.core.wait with
    | .sleep gd v _ =>
      let src := condSource s u x r v
      if condPoison s u x v then raiseFaultAt s c fPoison (r.core.pc - 8).toNat u none (some r.core.seq)
      else (match sleepReason r v src timeout host with
       | none => s
       | some n => wake s { takeBars r n with core := { gSet r.core gd (sleepResult v src n) with wait := .none } })
    | .bar gd level =>
      (match Tbl.find? r.barDone level with
       | none => s
       | some o =>
         wake s { r with barDone := Tbl.del r.barDone level, core := { gSet r.core gd (BitVec.ofNat 64 o) with wait := .none } })
    | .halt => if host then wake s { r with core := { r.core with wait := .none } } else s
    | _ => s
  | _, _ => s

/-- The wake line fires (R397). (Log entry 14: DEDUCED.) -/
def execWakeLineFire (u c : Nat) (s : State) : Out := .next (if live s c then evalWait s u c false false else s)

/-- A sleep's timeout has expired in fabric time (R403). -/
def timedOut (s : State) (r : Res) : Bool :=
  match r.core.wait with
  | .sleep _ v d => cTimeout v != 0 && decide ((s.time.now - d).toNat < 2 ^ 63)
  | _ => false

def execSleepTimeout (u c : Nat) (t : W64) (s : State) : Out :=
  .next (
    let s := advance s t
    match resOf s u c with
    | some r => if live s c && timedOut s r then evalWait s u c true false else s
    | none => s)

end Sys2Proof.Machine
end

