-- ==== Sys2Proof/Machine/MoverBase.lean ====
section
/-!
DEFINITION. Sys2Proof/Machine/MoverBase.lean: what all mover entries share (R360 to R369, R366): queues and the order of beginning, the
ends of a copy as device pieces, reads and writes of pieces, the rick's places (R423, R436), completion and its status (R257).
-/

namespace Sys2Proof.Machine

/-! ## Entries of a queue -/

def updMv (s : State) (t : Hart) (q seq : Nat) (f : MvEnt → MvEnt) : State :=
  match hartCore s t with
  | none => s
  | some k =>
    setHartCore s t (setMq k q { mqOf k q with ents := (mqOf k q).ents.map (fun e => if e.ent.seq = seq then f e else e) })

def mvEntOf (s : State) (t : Hart) (q seq : Nat) : Option MvEnt :=
  match hartCore s t with
  | none => none
  | some k => (mqOf k q).ents.find? (fun e => e.ent.seq == seq)

/-- A dispatched `mv.cancel` that has not acted. -/
def isCancel (e : MvEnt) : Bool := !e.ent.mark && e.kind == .fresh && iClass e.ent.w == 7 && iOp e.ent.w == 0x19

def streamSlots (e : MvEnt) : Nat := if e.rowBytes = 0 then 0 else (e.total + e.rowBytes - 1) / e.rowBytes

/-- The entry has issued its last transfer (R361); a stream when it is complete (R382). -/
def allIssued (e : MvEnt) : Bool :=
  e.stop || (match e.kind with
    | .fresh => false
    | .copy => decide (e.rows ≤ e.row)
    | .push => decide (e.rows ≤ e.row)
    | .pop => decide (e.rows ≤ e.row)
    | .remote => decide (e.rows ≤ e.row)
    | .droveSend => decide (e.rows ≤ e.row)
    | .list => e.listLeft == 0 && decide (e.rows ≤ e.row)
    | .stream => decide (streamSlots e ≤ e.fill)
    | .atom => true
    | .red => true
    | .flag => true
    | .seal => true
    | .sampler => true)

/-- The entry that may begin next: the first that has not begun, when every earlier one has issued its last transfer, no mark stands
before it, and no cancel is dispatched or under way (R361, R386, R193). -/
def beginEnt (m : MvQ) : Option QEnt :=
  if m.cancel.isSome || m.ents.any isCancel then none
  else if (m.ents.takeWhile (fun e => e.kind != .fresh)).all allIssued then
    match m.ents.dropWhile (fun e => e.kind != .fresh) with
    | [] => none
    | e :: _ => if e.ent.mark then none else some e.ent
  else none


/-- The entry at the place of beginning of queue q, when `ok` accepts its word. -/
def withBegin (s : State) (h q : Nat) (ok : W64 → Bool) (f : Hart → Core → Ctx → QEnt → State) : State :=
  withHart s h fun t k x =>
    if !(issues s t) then s
    else match beginEnt (mqOf k q) with
      | none => s
      | some e => if ok e.w then f t k x e else s

def isMv (op : Nat) (w : W64) : Bool := iClass w == 7 && iOp w == op

/-- An accepted cancel fence covers the entry: it is carried to completion whatever its context's state (R387, R393). -/
def coveredBy (k : Core) (q seq : Nat) : Bool := (mqOf k q).cancel.any (fun c => c.covers.contains seq)

/-- An entry under way goes on: its hart issues, or a fence carries it to completion (R215, R393). -/
def goesOn (s : State) (t : Hart) (k : Core) (q : Nat) (e : MvEnt) : Bool := issues s t || coveredBy k q e.ent.seq

/-- A context may have become Ready (R215). -/
def settleHart (s : State) : Hart → State
  | .res u c => settle s u c
  | .inst _ _ => s

/-- Status word (Table 6.14), DETAIL saturating. -/
def statusWord (code detail : Nat) : W64 := BitVec.ofNat 64 (min detail (2 ^ 48 - 1) * 2 ^ 16 + code)

/-- Whether the entry's GD field is a register: `mv.lim` has none. -/
def mvDest (e : QEnt) : Nat := if isMv 0x18 e.w then 0 else iQD e.w

/-- The entry completes: it leaves its queue, GD receives v or is released, its flags reach the sticky word (R257, R292). -/
def finishMv (s : State) (t : Hart) (q : Nat) (e : QEnt) (f : BitVec 9) (v : Option W64) : State :=
  match hartCore s t with
  | none => s
  | some k =>
    let k1 := orSticky (doneEnt (dropEnt k (4 + q) e.seq) e.seq) f
    let k2 := match v with
      | some x => if mvDest e = 0 then k1 else gDeliver k1 (mvDest e) e.seq x
      | none => gRelease k1 e.seq
    settleHart (setHartCore s t k2) t

/-! ## Places -/

/-- Device address of byte o of a rick, by logical offset, and the bytes from there to the end of its ring (R423, R436). -/
def rickAt (x : Ctx) (b : RickBind) (u o : Nat) : Option (Nat × Nat) :=
  if b.fold then
    if b.foldBytes = 0 then none
    else some (usAddr u (shareOff x + b.foldOff + o % b.foldBytes), b.foldBytes - o % b.foldBytes)
  else
    let ub := b.unitGran * 4096
    if ub = 0 then none
    else
      let i := o % ub
      (ctxDev x (b.handle * 4096 + (x.units.filter (fun v => decide (v < u))).length * ub + i)).map
        (fun d => (d, min (4096 - i % 4096) (ub - i)))

/-- The device pieces of a range of logical offsets. -/
def rickPieces (x : Ctx) (b : RickBind) (u : Nat) : Nat → Nat → Nat → List (Nat × Nat)
  | 0, _, _ => []
  | fuel + 1, o, n =>
    if n = 0 then []
    else match rickAt x b u o with
      | none => []
      | some (d, m) => (d, min n m) :: rickPieces x b u fuel (o + min n m) (n - min n m)

/-- Where the model keeps a peer's addresses apart: R366 compares them with one another only. -/
def remoteBase : Nat := 2 ^ 80

/-- One end of a copy as device pieces. -/
def endPieces (s : State) (t : Hart) (x : Ctx) (sp : Space) (a n : Nat) : List (Nat × Nat) :=
  if n = 0 then [] else
  match sp with
  | .ctx => devPieces x a n
  | .share => [(localAddr s t x a, n)]
  | .rick =>
    (match x.rick with
     | none => []
     | some b => rickPieces x b (hartUnit s t) (n / 4096 + 3) a n)
  | .remote => [(remoteBase + a, n)]

def meet (p q : Nat × Nat) : Bool := decide (p.1 < q.1 + q.2) && decide (q.1 < p.1 + p.2)
def anyMeet (l m : List (Nat × Nat)) : Bool := l.any (fun p => m.any (fun q => meet p q))

/-- The requests that a piece makes on the internal path (R303), one a line; a piece of a unit store reaches the store (R29). -/
def innerRequests (s : State) (p : Nat × Nat) (write : Bool) : State :=
  (cutRange 128 (p.2 / 128 + 2) p.1 p.2).foldl (fun s q => hbmRequest (reachStore s q.1) q.1 true write) s

/-- Pieces read over the unit path, or, for a stack program or an ENG stream, over the internal path (R318, R383). -/
def readPieces (s : State) (inner : Bool) (ps : List (Nat × Nat)) (hint : Nat) (part : Option Nat) : State × List Byte × Bool :=
  if inner then (ps.foldl (fun s p => innerRequests s p false) s, (ps.map (fun p => memBytes s p.1 p.2)).flatten,
    ps.any (fun p => rawPoison s p.1 p.2))
  else ps.foldl (fun (r : State × List Byte × Bool) p =>
    let y := devRead r.1 p.1 p.2 hint part
    (y.1, r.2.1 ++ y.2.1, r.2.2 || y.2.2)) (s, [], false)

/-- Pieces written the same way; the Bool says that bytes were lost to poison. -/
def writePieces (s : State) (inner : Bool) (ps : List (Nat × Nat)) (bs : List Byte) (hint : Nat) (part : Option Nat) : State × Bool :=
  (ps.foldl (fun (r : (State × Bool) × List Byte) p =>
    let y := if inner then rawWrite (innerRequests r.1.1 p true) p.1 (r.2.take p.2) else devWrite r.1.1 p.1 (r.2.take p.2) hint part
    ((y.1, r.1.2 || y.2), r.2.drop p.2)) ((s, false), bs)).1

def piecesWait (s : State) (ps : List (Nat × Nat)) : Bool := ps.any (fun p => addrWaits s p.1)

/-- The residents of a unit, other than context c, whose share or save area holds a poisoned word of a piece (R273). (Log entry 26: DESIGN CHOICE.) -/
def poisonOwners (s : State) (c : Nat) (p : Nat × Nat) : List (Nat × Nat) :=
  if isUs p.1 && rawPoison s p.1 p.2 then
    let u := (p.1 - usWin) / 0x1000000
    let bad := (granules 32 p.1 p.2).filter (poisoned s)
    (residents s u).filterMap (fun r =>
      match ctxOf s r.1 with
      | none => none
      | some x =>
        if r.1 ≠ c ∧ bad.any (fun b =>
            let o := b - usAddr u 0
            (decide (shareOff x ≤ o) && decide (o < shareOff x + shareSize x))
            || (decide (saveOff x ≤ o) && decide (o < saveOff x + saveSize))) then some (r.1, u) else none)
  else []

/-- Poison met by a read made for hart t: its context faults, and so do the contexts that own a poisoned unit-store word (R273). The
PC such an owner reports is not stated: a free value. (Log entry 26: DESIGN CHOICE.) -/
def poisonRead (s : State) (t : Hart) (e : QEnt) (ps : List (Nat × Nat)) : State :=
  let own := (ps.map (poisonOwners s (hartCtx s t))).flatten
  let s1 := faultEnt s t fPoison e
  own.foldl (fun s p => bump (raiseFault s p.1 fPoison ((Config.freeWord s.freeCtr).toNat % 2 ^ 48) p.2 none)) s1

/-- A write of words by the mover into the share, as a control block takes them; lost bytes fault the context (R274). -/
def putShare (s : State) (t : Hart) (x : Ctx) (off : Nat) (bs : List Byte) (e : QEnt) : State :=
  let r := rawWrite s (localAddr s t x off) bs
  if r.2 then faultEnt r.1 t fPoison e else r.1

/-- Adds to a signal word of a context on a unit (R380, R407). -/
def addSignal (s : State) (u c w n : Nat) : State :=
  updRes s u c (fun r => { r with sig := Tbl.set 0 r.sig w (Tbl.get 0 r.sig w + BitVec.ofNat 32 n) })

/-- The device adds n to a signal word of context c on unit u, from a network stop: at once, or behind a signal on the same way (R60,
R380, R409, R471). (Log entry 104: DEDUCED.) -/
def sendAdd (s : State) (stop u c w n : Nat) : State :=
  let g : Signal := { stop := stop, fromU := u, fromC := c, op := 2, value := BitVec.ofNat 32 n, target := BitVec.ofNat 32 (c * 2 ^ 20 + w * 2 ^ 16 + u) }
  if s.signals.any (sameWay s g) then { s with signals := s.signals ++ [g] } else addSignal s u c w n

/-! ## Entries that wait at a drove (R470, R478) -/

/-- Drops wait records; the channel's time of waiting ends with the last. -/
def dropWaits (now : W64) (x : DrvSt) (gone : DrvWait → Bool) : DrvSt :=
  let l := x.waits.filter (fun z => !(gone z))
  match x.waitFrom with
  | none => { x with waits := l }
  | some w => if l.isEmpty then { x with waits := [], waitFrom := none, waitNs := x.waitNs + (now - w) / 16 } else { x with waits := l }

/-- A send on a unit waits no more. -/
def sendMoves (s : State) (c u q seq : Nat) : State :=
  match Tbl.find? s.drv c with
  | none => s
  | some x => { s with drv := Tbl.put s.drv c (dropWaits s.time.now x (fun z => z.unit == u && z.q == q && z.seq == seq)) }

/-! ## Checks of a copy's ends -/

/-- A range of context addresses meets the extent of a bound rick that lies in HBM (R424). -/
def touchesRick (x : Ctx) (a n : Nat) : Bool :=
  match x.rick with
  | none => false
  | some b =>
    !b.fold && (match findExt x (b.handle * 4096) with
      | none => false
      | some e => decide (a < extEnd e) && decide (e.cbase < a + n))

/-- A context range lies where a stack program reaches: HBM of its own stack, or a unit-store window (R337). -/
def instReach (x : Ctx) (st a n : Nat) : Bool :=
  (devPieces x a n).all (fun p => isUs p.1 || (isHbm p.1 && stackOf p.1 == st && stackOf (p.1 + p.2 - 1) == st))

/-- An end of a copy that passes R208, R368 and, in a stack program, R337 and the S of R300. -/
def endOk (s : State) (t : Hart) (x : Ctx) (sp : Space) (ok : Extent → Bool) (a n : Nat) : Bool :=
  match sp with
  | .share => decide (a + n ≤ localSize s t x)
  | .ctx =>
    (match t with
      | .res _ _ => ctxOk s x ok a n
      | .inst st _ => ctxOk s x (fun e => e.s && ok e) a n && instReach x st a n)
  | _ => true

def endRick (x : Ctx) (sp : Space) (a n : Nat) : Bool :=
  match sp with
  | .ctx => touchesRick x a n
  | _ => false

/-- Accepts a copy of one row: the entry's plan. -/
def planRow (e : MvEnt) (kind : MvKind) (sp : Space) (src : Nat) (dp : Space) (dst n hint : Nat) : MvEnt :=
  { e with kind := kind, sp := sp, src := src, dp := dp, dst := dst, rowBytes := n, rows := 1, total := n, row := 0, off := 0, hint := hint }

/-- Handle address of the bound rick. -/
def rickHandle (x : Ctx) (a : W64) : Bool :=
  match x.rick with
  | none => false
  | some b => a.toNat == b.handle * 4096

/-- An open drove channel of context c with this send handle (R469). -/
def droveOf (s : State) (c : Nat) (a : W64) : Option Nat :=
  (s.drv.find? (fun p => p.2.st == .opened && p.2.sctx == c && a.toNat == p.2.handle * 4096)).map (·.1)

def isRes : Hart → Bool
  | .res _ _ => true
  | .inst _ _ => false

end Sys2Proof.Machine
end

