-- ==== Sys2Proof/Machine/Mover.lean ====
section
/-!
DEFINITION. Sys2Proof/Machine/Mover.lean: mover entries (R360 to R383): acceptance with the checks of R208, transfers, descriptors,
weight streams, remote writes and flags, limits and cancel fences (R386 to R393).
-/

namespace Sys2Proof.Machine

/-! ## Copies -/

/-- Acceptance of `mv.get`, `mv.put` and `mv.copy` (R368): a length beyond 32 bits is refused, a zero length completes at once. -/
def acceptRow (s : State) (t : Hart) (x : Ctx) (q : Nat) (e : QEnt) (sp dp : Space) : State :=
  let src := (cap e (iQA e.w)).toNat
  let dst := (cap e (iQB e.w)).toNat
  let n := (cap e (iQC e.w)).toNat
  if 2 ^ 32 ≤ n then faultEnt s t fQueue e
  else if n = 0 then finishMv s t q e 0 (some (statusWord 0 0))
  else if endRick x sp src n || endRick x dp dst n then faultEnt s t fQueue e
  else if !(endOk s t x sp (·.r) src n && endOk s t x dp (·.w) dst n) then faultEnt s t fExtent e
  else updMv s t q e.seq (fun m => planRow m .copy sp src dp dst n 0)

/-- A pop is an `mv.get` of the rick's handle (R424). -/
def isPop (t : Hart) (x : Ctx) (e : QEnt) : Bool := isRes t && isMv 0 e.w && rickHandle x (cap e (iQA e.w))
def isPush (t : Hart) (x : Ctx) (e : QEnt) : Bool := isRes t && isMv 1 e.w && rickHandle x (cap e (iQB e.w))
def isSend (s : State) (t : Hart) (e : QEnt) : Bool :=
  isRes t && isMv 1 e.w && (droveOf s (hartCtx s t) (cap e (iQB e.w))).isSome

def execMvGet (h q : Nat) (s : State) : Out :=
  .next (withBegin s h q (isMv 0) fun t _ x e => if isPop t x e then s else acceptRow s t x q e .ctx .share)

def execMvPut (h q : Nat) (s : State) : Out :=
  .next (withBegin s h q (isMv 1) fun t _ x e =>
    if isPush t x e || isSend s t e then s else acceptRow s t x q e .share .ctx)

def execMvCopy (h q : Nat) (s : State) : Out :=
  .next (withBegin s h q (isMv 2) fun t _ x e => acceptRow s t x q e .ctx .ctx)

/-! ## Descriptors (R370, Table 9.1) -/

def dKind (d : List W64) : Nat := wf d 0 63 60
def dHint (d : List W64) : Nat := wf d 0 59 58
def dSus (d : List W64) : Bool := wf d 0 57 57 == 1
def dDus (d : List W64) : Bool := wf d 0 56 56 == 1
def dEng (d : List W64) : Bool := wf d 0 55 55 == 1
def dSigen (d : List W64) : Bool := wf d 0 54 54 == 1
def dSigw (d : List W64) : Nat := wf d 0 53 50
def dCount (d : List W64) : Nat := wf d 0 31 0
def dSrc (d : List W64) : Nat := wf d 1 47 0
def dDst (d : List W64) : Nat := wf d 2 47 0
def dSstride (d : List W64) : Nat := wf d 3 63 32
def dDstride (d : List W64) : Nat := wf d 3 31 0
def dRow (d : List W64) : Nat := wf d 4 31 0
def dTotal (d : List W64) : Nat := (wd d 5).toNat
def dDevice (d : List W64) : Nat := wf d 5 19 0

/-- Reserved bits of every kind, and the reserved hint (R281). -/
def descOk (d : List W64) : Bool :=
  wf d 0 49 32 == 0 && wf d 1 63 48 == 0 && wf d 2 63 48 == 0 && wf d 4 63 32 == 0 && wd d 6 == 0 && wd d 7 == 0 && dHint d != 3

/-- The fields only a stream has. -/
def noStream (d : List W64) : Bool := !(dEng d) && !(dSigen d) && dSigw d == 0

def blockOk (d : List W64) : Bool := descOk d && noStream d && dCount d != 0 && dRow d != 0 && dTotal d == 0
def listOk (d : List W64) : Bool :=
  descOk d && noStream d && dCount d != 0 && dSrc d % 16 == 0 && dDst d == 0 && wd d 3 == 0 && dRow d == 0 && dTotal d == 0
def remoteOk (d : List W64) : Bool :=
  descOk d && noStream d && !(dDus d) && dCount d != 0 && dRow d != 0 && wf d 5 63 20 == 0
def streamOk (d : List W64) : Bool :=
  descOk d && !(dSus d) && dDus d && (dSigen d || dSigw d == 0) && decide (2 ≤ dCount d) && decide (dCount d ≤ 4096)
  && dDst d % 4096 == 0 && dSstride d == 0 && dDstride d % 32 == 0 && dRow d % 4096 == 0 && decide (4096 ≤ dRow d)
  && decide (dRow d ≤ 4 * 2 ^ 20) && decide (1 ≤ dTotal d) && decide (dTotal d ≤ 2 ^ 40)

/-- Reads the 64-byte descriptor of `mv.desc` (R370, R261): none after a fault. -/
def readDesc (s : State) (t : Hart) (x : Ctx) (e : QEnt) : State × Option (List W64) :=
  let off := (cap e (iQA e.w)).toNat
  if off % 32 ≠ 0 ∨ shareSize x < off + 64 then (faultEnt s t fExtent e, none)
  else
    let a := localAddr s t x off
    if rawPoison s a 64 then (faultEnt s t fPoison e, none)
    else (s, some (leWords 8 (memBytes s a 64)))

def srcSpace (d : List W64) : Space := if dSus d then .share else .ctx
def dstSpace (d : List W64) : Space := if dDus d then .share else .ctx

/-- Every row of a strided end passes. -/
def rowsOk (rows stride base : Nat) (ok : Nat → Bool) : Bool := (List.range rows).all (fun r => ok (base + r * stride))

def acceptBlock (s : State) (t : Hart) (x : Ctx) (q : Nat) (e : QEnt) (d : List W64) : State :=
  if !(blockOk d) then faultEnt s t fQueue e
  else
    let n := dRow d
    if !(rowsOk (dCount d) (dSstride d) (dSrc d) (fun a => !(endRick x (srcSpace d) a n)))
      || !(rowsOk (dCount d) (dDstride d) (dDst d) (fun a => !(endRick x (dstSpace d) a n))) then faultEnt s t fQueue e
    else if rowsOk (dCount d) (dSstride d) (dSrc d) (fun a => endOk s t x (srcSpace d) (·.r) a n)
      && rowsOk (dCount d) (dDstride d) (dDst d) (fun a => endOk s t x (dstSpace d) (·.w) a n) then
      updMv s t q e.seq (fun m => { planRow m .copy (srcSpace d) (dSrc d) (dstSpace d) (dDst d) n (dHint d) with
        desc := d, rows := dCount d, sstride := dSstride d, dstride := dDstride d, total := n * dCount d })
    else faultEnt s t fExtent e

/-- Log entry 27: DEDUCED. -/
def acceptList (s : State) (t : Hart) (x : Ctx) (q : Nat) (e : QEnt) (d : List W64) : State :=
  if !(listOk d) then faultEnt s t fQueue e
  else if shareSize x < dSrc d + 16 * dCount d then faultEnt s t fExtent e
  else updMv s t q e.seq (fun m => { m with
    kind := .list, desc := d, sp := srcSpace d, dp := dstSpace d, hint := dHint d, listLeft := dCount d, listAt := dSrc d,
    rows := 0, row := 0, off := 0 })

/-- A REMOTE entry (R373): a source tag names it to the peer; HOLD keeps it at its queue's head (R531). -/
def acceptRemote (s : State) (t : Hart) (x : Ctx) (q : Nat) (e : QEnt) (d : List W64) : State :=
  if !(remoteOk d) || dDevice d == s.fab.devId then faultEnt s t fQueue e
  else if s.fab.hold then s
  else
    let n := dRow d
    if !(rowsOk (dCount d) (dSstride d) (dSrc d) (fun a => !(endRick x (srcSpace d) a n))) then faultEnt s t fQueue e
    else if rowsOk (dCount d) (dSstride d) (dSrc d) (fun a => endOk s t x (srcSpace d) (·.r) a n) then
      let g := newTag s (resKey (hartUnit s t) (hartCtx s t)) q e.seq
      updMv g.1 t q e.seq (fun m => { planRow m .remote (srcSpace d) (dSrc d) .remote (dDevice d * 2 ^ 48 + dDst d) n (dHint d) with
        desc := d, rows := dCount d, sstride := dSstride d, dstride := dDstride d, total := n * dCount d, tag := g.2, dev := dDevice d })
    else faultEnt s t fExtent e

/-! ## Weight streams (R376 to R383) -/

/-- The source of an ENG stream lies wholly on one stack in stack-local extents (R383). -/
def oneStack (x : Ctx) (a n : Nat) : Option Nat :=
  if allowed x (fun e => e.kind == 2) a n then
    match (devPieces x a n).map (fun p => stackOf p.1) with
    | [] => none
    | st :: l => if l.all (fun y => y == st) then some st else none
  else none

/-- R297: the home slices clean a read range and clean and drop a write range. -/
def slicesRead (s : State) (ps : List (Nat × Nat)) : State := ps.foldl (fun s p => cleanRange s p.1 p.2) s
def slicesWrite (s : State) (ps : List (Nat × Nat)) : State := ps.foldl (fun s p => dropClean (cleanRange s p.1 p.2) p.1 p.2) s

/-- The engine holds at most 64 accepted commands (R327). -/
def engineFull (s : State) (st : Nat) : Bool := decide (64 ≤ (seOf s st).cmds.length)

def acceptStream (s : State) (t : Hart) (x : Ctx) (q : Nat) (e : QEnt) (d : List W64) : State :=
  let ring := dCount d * dRow d
  let ctl := dDstride d
  if q < 6 ∨ !(streamOk d) then faultEnt s t fQueue e
  else if meet (dDst d, ring) (ctl, 16) || touchesRick x (dSrc d) (dTotal d) then faultEnt s t fQueue e
  else if shareSize x < dDst d + ring ∨ shareSize x < ctl + 16 then faultEnt s t fExtent e
  else if dEng d && (oneStack x (dSrc d) (dTotal d)).isNone && allowed x (·.r) (dSrc d) (dTotal d) then faultEnt s t fQueue e
  else if !(ctxOk s x (fun y => y.r && (!(dEng d) || y.s)) (dSrc d) (dTotal d)) then faultEnt s t fExtent e
  else
    let plan (m : MvEnt) : MvEnt :=
      { planRow m .stream .ctx (dSrc d) .share (dDst d) (dRow d) (dHint d) with desc := d, rows := 0, total := dTotal d }
    let st := (oneStack x (dSrc d) (dTotal d)).getD 0
    if dEng d && engineFull s st then s
    else
      let s1 := if dEng d then
          let s0 := slicesRead s (devPieces x (dSrc d) (dTotal d))
          updSe s0 st (fun y => { y with cmds := y.cmds ++
            [{ ctx := some (hartCtx s t), unit := hartUnit s t, ent := e, op := 0xFF, stream := true, rd := devPieces x (dSrc d) (dTotal d) }] })
        else s
      putShare (updMv s1 t q e.seq plan) t x ctl (zeros 16) e

def acceptDesc (s : State) (t : Hart) (x : Ctx) (q : Nat) (e : QEnt) (kinds : List Nat) (other : Bool) : State :=
  let r := readDesc s t x e
  match r.2 with
  | none => if other then r.1 else s
  | some d =>
    if dKind d = 2 ∧ kinds.contains 2 then acceptList s t x q e d
    else if dKind d = 3 ∧ kinds.contains 3 then acceptRemote s t x q e d
    else if dKind d = 4 ∧ kinds.contains 4 then acceptStream s t x q e d
    else if dKind d = 1 ∧ kinds.contains 1 then acceptBlock s t x q e d
    else if other ∧ (dKind d = 0 ∨ 4 < dKind d) then faultEnt s t fQueue e
    else s

/-- A descriptor that cannot be read or names no kind is refused here too. -/
def execMvDescBlock (h q : Nat) (s : State) : Out :=
  .next (withBegin s h q (isMv 3) fun t _ x e => acceptDesc s t x q e [1] true)
def execMvDescList (h q : Nat) (s : State) : Out :=
  .next (withBegin s h q (isMv 3) fun t _ x e => acceptDesc s t x q e [2] false)
def execMvDescRemote (h q : Nat) (s : State) : Out :=
  .next (withBegin s h q (isMv 3) fun t _ x e => acceptDesc s t x q e [3] false)
def execMvDescStream (h q : Nat) (s : State) : Out :=
  .next (withBegin s h q (isMv 3) fun t _ x e => acceptDesc s t x q e [4] false)

/-- The entry of a queue that `ok` picks, of a hart in any state. -/
def withMvEnt (s : State) (h q : Nat) (ok : MvEnt → Bool) (f : Hart → Core → Ctx → MvEnt → State) : State :=
  withHart s h fun t k x =>
    match (mqOf k q).ents.find? ok with
    | none => s
    | some m => f t k x m

/-- The mover reads and checks the next list entry once the one before it has issued its transfers (R372, Table 9.2). -/
def execListEntryRead (h q : Nat) (s : State) : Out :=
  .next (withMvEnt s h q (fun m => m.kind == .list && !m.stop && decide (m.rows ≤ m.row) && decide (0 < m.listLeft)) fun t _ x m =>
    if !(issues s t) then s else
    let a := localAddr s t x m.listAt
    if rawPoison s a 16 then faultEnt s t fPoison m.ent
    else
      let d := leWords 2 (memBytes s a 16)
      let n := wf d 0 63 48
      let src := wf d 0 47 0
      let dst := wf d 1 47 0
      let m1 (y : MvEnt) : MvEnt := { y with listAt := y.listAt + 16, listLeft := y.listLeft - 1 }
      if wf d 1 63 48 ≠ 0 then faultEnt s t fQueue m.ent
      else if n = 0 then updMv s t q m.ent.seq m1
      else if endRick x m.sp src n || endRick x m.dp dst n then faultEnt s t fQueue m.ent
      else if !(endOk s t x m.sp (·.r) src n && endOk s t x m.dp (·.w) dst n) then faultEnt s t fExtent m.ent
      else updMv s t q m.ent.seq (fun y => { m1 y with src := src, dst := dst, rowBytes := n, rows := 1, row := 0, off := 0,
                                                       total := y.total + n }))

/-! ## Transfers (R362 to R367) -/

def outstanding (m : MvQ) : Nat := (m.ents.map (fun e => e.out.length)).foldl (· + ·) 0

/-- Source, destination and length of the next transfer of an entry, with the row or slot it belongs to. (Log entry 30: DESIGN CHOICE.) -/
def nextXfer (e : MvEnt) : Option Xfer :=
  if e.kind == .stream then
    if e.total ≤ e.off ∨ e.rowBytes = 0 then none
    else
      let i := e.off / e.rowBytes
      let n := min (min (512 - (e.src + e.off) % 512) (e.total - e.off)) (e.rowBytes - e.off % e.rowBytes)
      some { sp := e.sp, sa := e.src + e.off, dp := e.dp, da := e.dst + i % dCount e.desc * e.rowBytes + e.off % e.rowBytes, len := n, row := i }
  else if e.row < e.rows then
    let a := e.src + e.row * e.sstride + e.off
    let n := min (512 - a % 512) (e.rowBytes - e.off)
    some { sp := e.sp, sa := a, dp := e.dp, da := e.dst + e.row * e.dstride + e.off, len := n, row := e.read + n }
  else none

/-- The entry of the queue with transfers left, when nothing before it has any. -/
def issueEnt (m : MvQ) : Option MvEnt :=
  m.ents.find? (fun e => e.kind != .fresh && !(allIssued e) && !e.stop)

/-- The slot's credit (R379). -/
def hasCredit (e : MvEnt) (y : Xfer) : Bool := e.kind != .stream || decide (y.row - e.release < dCount e.desc)

/-- The engine command of an ENG stream. -/
def engStream (s : State) (t : Hart) (e : MvEnt) : Option (Nat × SeCmd) :=
  (s.se.filterMap (fun p => (p.2.cmds.find? (fun c =>
    c.stream && c.ctx == some (hartCtx s t) && c.unit == hartUnit s t && c.ent.seq == e.ent.seq)).map (fun c => (p.1, c)))).head?

def isEng (e : MvEnt) : Bool := e.kind == .stream && dEng e.desc

/-- An ENG stream keeps issuing while its context is Saving or Saved (R383); anything else only while it runs. -/
def mayIssue (s : State) (t : Hart) (m : MvQ) (e : MvEnt) : Bool :=
  if isEng e then (match engStream s t e with
    | none => false
    | some p => p.2.running)
  else issues s t && decide (outstanding m < m.limit)

def endsOf (s : State) (t : Hart) (x : Ctx) (y : Xfer) : List (Nat × Nat) × List (Nat × Nat) :=
  (endPieces s t x y.sp y.sa y.len, endPieces s t x y.dp y.da y.len)

/-- R366: the transfer's destination meets no bytes of an outstanding transfer of the queue, its source no destination of one. -/
def clear (s : State) (t : Hart) (x : Ctx) (m : MvQ) (y : Xfer) : Bool :=
  let e := endsOf s t x y
  (m.ents.map (·.out)).flatten.all (fun z =>
    let o := endsOf s t x z
    !(anyMeet e.2 o.1) && !(anyMeet e.2 o.2) && !(anyMeet e.1 o.2))

/-- The entry after one transfer has issued. -/
def afterIssue (e : MvEnt) (y : Xfer) : MvEnt :=
  let e1 := { e with out := e.out ++ [y], read := e.read + y.len }
  if e.kind == .stream then { e1 with off := e.off + y.len }
  else if e.off + y.len = e.rowBytes then { e1 with row := e.row + 1, off := 0 }
  else { e1 with off := e.off + y.len }

/-! ### Remote packets (R522) -/

/-- Adds a transfer's bytes to what is gathered. What does not join on goes out first; then everything up to the last 8 KiB boundary goes,
and the rest too when the entry or the queue's limit ends there. (Log entry 30: DESIGN CHOICE.) -/
def gather (s : State) (e0 e : MvEnt) (y : Xfer) (full : Bool) : State × MvEnt :=
  let j := if !e0.gath.isEmpty && e0.gathAt + e0.gath.length != y.da then flushRemote s e0 e0.gath.length else (s, e0)
  let e1 : MvEnt := { e with gath := j.2.gath ++ y.data, gathAt := if j.2.gath.isEmpty then y.da else j.2.gathAt }
  let n := e1.gath.length
  let past := (e1.gathAt + n) % 8192
  if allIssued e1 || full then flushRemote j.1 e1 n
  else if past < n then flushRemote j.1 e1 (n - past)
  else (j.1, e1)

/-! ### Issue -/

/-- The next transfer of a queue, when nothing but the engine's turn holds it back (R361 to R366, R379). -/
def readyXfer (s : State) (t : Hart) (x : Ctx) (m : MvQ) : Option (MvEnt × Xfer) :=
  if m.cancel.isSome || m.ents.any isCancel then none
  else match issueEnt m with
  | none => none
  | some e =>
    if e.kind == .droveSend then none
    else match nextXfer e with
    | none => none
    | some y =>
      if mayIssue s t m e && hasCredit e y && clear s t x m y && !(piecesWait s (endPieces s t x y.sp y.sa y.len)) then some (e, y)
      else none

/-- R365: the queue whose turn it is, round-robin from the one that issued last. A stack engine serves the ENG streams (R383). (Log entry 105: DESIGN CHOICE.) -/
def rrPick (s : State) (t : Hart) (k : Core) (x : Ctx) : Option Nat :=
  ((List.range 8).map (fun i => (k.mqRr + 1 + i) % 8)).find? (fun q => (readyXfer s t x (mqOf k q)).any (fun p => !(isEng p.1)))

/-- The queue has issued. (Log entry 105: DESIGN CHOICE.) -/
def tookTurn (s : State) (t : Hart) (q : Nat) : State :=
  match hartCore s t with
  | none => s
  | some k => setHartCore s t { k with mqRr := q }

/-- A REMOTE entry whose next row lies over bytes it still gathers sends them, since the row waits for them (R366, R371). (Log entry 30: DESIGN CHOICE.) -/
def sendAhead (s : State) (t : Hart) (x : Ctx) (q : Nat) (m : MvQ) : State :=
  match issueEnt m with
  | none => s
  | some e =>
    if e.kind == .remote && !e.gath.isEmpty && issues s t && (nextXfer e).any (fun y => !(clear s t x m y)) then
      let g := flushRemote s e e.gath.length
      updMv g.1 t q e.ent.seq (fun _ => g.2)
    else s

/-- Issues the next transfer of a queue whose turn it is. A read that meets poison is marked: it faults when it retires. -/
def doIssue (s : State) (t : Hart) (k : Core) (x : Ctx) (q : Nat) : State :=
  let m := mqOf k q
  match readyXfer s t x m with
  | none => sendAhead s t x q m
  | some (e, y) =>
    if !(isEng e) && rrPick s t k x != some q then s
    else
      let src := endPieces s t x y.sp y.sa y.len
      let r := readPieces s (!(isRes t) || isEng e) src e.hint (some x.part)
      let y1 : Xfer := { y with data := r.2.1, bad := r.2.2 }
      let s1 := if isEng e then r.1 else tookTurn r.1 t q
      if e.kind == .remote then
        if r.2.2 then poisonRead s1 t e.ent src
        else
          let g := gather s1 e (afterIssue e { y1 with data := [] }) y1 (decide (m.limit ≤ outstanding m + 1))
          updMv g.1 t q e.ent.seq (fun _ => g.2)
      else updMv s1 t q e.ent.seq (fun z => afterIssue z y1)

/-- The engine issues a drove send's entries by other rules (Machine/Drove.lean). -/
def execTransferIssue (h q : Nat) (s : State) : Out :=
  .next (withHart s h fun t k x => doIssue s t k x q)

/-- The k-th outstanding transfer of a queue with its entry's number and its place there. -/
def kthOut (m : MvQ) (k : Nat) : Option (MvEnt × Nat × Xfer) :=
  ((m.ents.filter (fun e => e.kind != .remote)).map (fun e => e.out.zipIdx.map (fun p => (e, p.2, p.1)))).flatten[k]?

/-- Counts a performed transfer. -/
def afterPerform (e : MvEnt) (i : Nat) (y : Xfer) : MvEnt :=
  let e1 := { e with out := e.out.eraseIdx i, written := e.written + y.len }
  if e.kind == .stream then { e1 with slotB := Tbl.put e.slotB y.row (Tbl.get 0 e.slotB y.row + y.len) } else e1

def addWasted (s : State) (t : Hart) (q n : Nat) : State :=
  match hartCore s t with
  | none => s
  | some k =>
    match (mqOf k q).cancel with
    | none => s
    | some c => setHartCore s t (setMq k q { mqOf k q with cancel := some { c with wasted := c.wasted + n } })

/-- The write of a transfer is performed (R367), or, for an entry under a cancel fence, its read retires and is dropped (R387,
R391). (Log entry 26: DESIGN CHOICE.) -/
def execTransferPerformed (h q k : Nat) (s : State) : Out :=
  .next (withHart s h fun t c x =>
    match kthOut (mqOf c q) k with
    | none => s
    | some (e, i, y) =>
      if e.cancel then
        settleHart (addWasted (updMv s t q e.ent.seq (fun z => { z with out := z.out.eraseIdx i })) t q y.len) t
      else if y.bad then poisonRead s t e.ent (endPieces s t x y.sp y.sa y.len)
      else
        let dst := endPieces s t x y.dp y.da y.len
        if piecesWait s dst then s
        else
          let w := writePieces s (!(isRes t) || isEng e) dst y.data e.hint (some x.part)
          let s1 := updMv w.1 t q e.ent.seq (fun z => afterPerform z i y)
          if w.2 then faultEnt s1 t fPoison e.ent else settleHart s1 t)

/-! ## Completion -/

/-- All its transfers have been performed (Table 5.3), or it has failed. -/
def mvDone (e : MvEnt) : Bool :=
  !e.cancel && (match e.kind with
    | .fresh => false
    | .copy => allIssued e && e.out.isEmpty
    | .push => allIssued e && e.out.isEmpty
    | .pop => allIssued e && e.out.isEmpty
    | .list => allIssued e && e.out.isEmpty
    | .remote => e.stop || (allIssued e && e.gath.isEmpty && decide (e.total ≤ e.acked))
    | .stream => decide (streamSlots e ≤ e.fill)
    | .atom => decide (e.rows ≤ e.row)
    | .red => decide (e.rows ≤ e.row)
    | .flag => e.stop || decide (8 ≤ e.acked)
    | .seal => e.finished
    | .sampler => e.finished
    | .droveSend => e.finished)

/-- Bytes acknowledged are the DETAIL of a REMOTE entry and a flag; refused lines that of a reduction (Table 9.3, R293). (Log entry 28: DEDUCED.) -/
def mvStatus (e : MvEnt) : Option W64 :=
  match e.kind with
  | .remote => some (statusWord e.code e.acked)
  | .flag => some (statusWord e.code e.acked)
  | .red => some (statusWord (if e.refused = 0 then 0 else 1) e.refused)
  | .atom => if 0xA ≤ iAOP e.ent.w then none else some e.old
  | _ => some (statusWord e.code e.detail)

/-- Takes an ENG stream's command off its engine. -/
def dropEngStream (s : State) (t : Hart) (e : MvEnt) : State :=
  match engStream s t e with
  | none => s
  | some p => updSe s p.1 (fun y => withCmds s.time.now y (y.cmds.filter (fun c => c != p.2)))

/-- A pop of the rick has ended (R429). -/
def popDone (s : State) (t : Hart) (base : Nat) : State :=
  match t with
  | .res u c => updRes s u c (fun r => { r with rick := { r.rick with
      frames := r.rick.frames.map (fun f => if f.sealed && f.base == base then { f with busy := f.busy - 1 } else f) } })
  | .inst _ _ => s

def completeMv (s : State) (t : Hart) (q : Nat) (e : MvEnt) : State :=
  let s1 := if isEng e then dropEngStream s t e else s
  let s2 := if e.kind == .remote || e.kind == .flag then dropTag s1 e.tag else s1
  let s3 := if e.kind == .pop then popDone s2 t e.elem else s2
  finishMv s3 t q e.ent e.flags (mvStatus e)

/-- The first entry of the queue that is done completes; entries of one queue complete in any order (R367). -/
def execMoverEntryComplete (h q : Nat) (s : State) : Out :=
  .next (withMvEnt s h q mvDone fun t _ _ e => completeMv s t q e)

/-- A REMOTE entry or a flag fails with CODE 0x01 (R374, R536). Under a cancel fence, what it read and no peer acknowledged is wasted
(R392); one that the fence has stopped owes nothing more and leaves with the fence. (Log entry 28: DEDUCED.) -/
def failRemote (s : State) (t : Hart) (k : Core) (q : Nat) (e : MvEnt) : State :=
  if e.cancel then dropTag s e.tag
  else completeMv (if coveredBy k q e.ent.seq then addWasted s t q (e.read - e.acked) else s) t q { e with code := 1, stop := true }

/-- R374: an entry with bytes sent and not acknowledged fails. (Log entry 7: DESIGN CHOICE.) -/
def execRemoteAckTimeout (h q : Nat) (s : State) : Out :=
  .next (withMvEnt s h q (fun e => (e.kind == .remote || e.kind == .flag) && decide (0 < Tbl.get 0 s.fab.unacked e.tag))
    fun t k _ e => failRemote s t k q e)

/-! ## Streams -/

/-- Bytes of slot i. -/
def slotSize (e : MvEnt) (i : Nat) : Nat := min e.rowBytes (e.total - i * e.rowBytes)

def execStreamSlotFilled (h q : Nat) (s : State) : Out :=
  .next (withMvEnt s h q (fun e => e.kind == .stream && !e.cancel && !e.stop && decide (e.fill < streamSlots e)
      && Tbl.get 0 e.slotB e.fill == slotSize e e.fill) fun t _ x e =>
    let s1 := updMv s t q e.ent.seq (fun z => { z with fill := z.fill + 1 })
    let s2 := putShare s1 t x (dDstride e.desc) (leBytes 8 (e.fill + 1)) e.ent
    if dSigen e.desc then sendAdd s2 (unitStop s (hartUnit s t)) (hartUnit s t) (hartCtx s t) (dSigw e.desc) 1 else s2)

/-- The mover takes the RELEASE word as it stands (R381). -/
def execStreamReleaseCredit (h q : Nat) (s : State) : Out :=
  .next (withMvEnt s h q (fun e => e.kind == .stream && !e.cancel && !e.stop) fun t _ x e =>
    let a := localAddr s t x (dDstride e.desc + 8)
    if rawPoison s a 8 then faultEnt s t fPoison e.ent
    else
      let v := leNat (memBytes s a 8)
      if v < e.release ∨ e.fill < v then
        faultEnt (updMv s t q e.ent.seq (fun z => { z with stop := true })) t fQueue e.ent
      else updMv s t q e.ent.seq (fun z => { z with release := v, slotB := z.slotB.filter (fun p => decide (v ≤ p.1)) }))

/-! ## Flags and limits -/

/-- R375: refused for the device's own identifier; held by ROUTE_CTL.HOLD (R531). (Log entry 27: DEDUCED.) -/
def acceptFlag (s : State) (t : Hart) (q : Nat) (e : QEnt) : State :=
  let a := (cap e (iQA e.w)).toNat
  let dev := fld (cap e (iQC e.w)) 19 0
  if dev = s.fab.devId ∨ a % 8 ≠ 0 ∨ 2 ^ 48 ≤ a then faultEnt s t fQueue e
  else if s.fab.hold then s
  else
    let g := newTag s (resKey (hartUnit s t) (hartCtx s t)) q e.seq
    let s1 := updMv g.1 t q e.seq (fun m => { m with kind := .flag, tag := g.2, dev := dev, total := 8, rows := 1, row := 1 })
    originate (addUnacked s1 g.2 8) (flagPkt dev a g.2 (cap e (iQB e.w)))

def execMvFlag (h q : Nat) (s : State) : Out :=
  .next (withBegin s h q (isMv 0x10) fun t _ _ e => acceptFlag s t q e)

def acceptLim (s : State) (t : Hart) (k : Core) (q : Nat) (e : QEnt) : State :=
  finishMv (setHartCore s t (setMq k q { mqOf k q with limit := iImm9 e.w })) t q e 0 none

def execMvLim (h q : Nat) (s : State) : Out :=
  .next (withBegin s h q (isMv 0x18) fun t k _ e => acceptLim s t k q e)

/-! ## Cancel fences (R386 to R393) -/

/-- Entries that go on to their own completion under a cancel (R387, R431). (Log entry 29: DEDUCED.) -/
def carried (e : MvEnt) : Bool :=
  match e.kind with
  | .atom => true
  | .red => true
  | .flag => true
  | .seal => true
  | .sampler => true
  | .remote => allIssued e
  | _ => false

/-- Written into slots not given back (R392). -/
def slotWaste (e : MvEnt) : Nat :=
  if e.kind == .stream then ((e.slotB.filter (fun p => decide (e.release ≤ p.1))).map (·.2)).foldl (· + ·) 0 else 0

/-- An entry covered by a cancel before it began, or a mark, leaves the queue. -/
def discardMv (s : State) (t : Hart) (q : Nat) (e : MvEnt) : State :=
  if e.ent.mark then finishMv s t q e.ent 0 none
  else if e.kind == .fresh then finishMv s t q e.ent 0 (some (statusWord 3 0))
  else if carried e then s
  else
    updMv (if e.kind == .droveSend then sendMoves s e.elem (hartUnit s t) q e.ent.seq else s) t q e.ent.seq
      (fun z => { z with cancel := true, stop := true })

/-- Log entry 27: DEDUCED. -/
def execMvCancel (h q : Nat) (s : State) : Out :=
  .next (withHart s h fun t k _ =>
    let m := mqOf k q
    if m.cancel.isSome || !(issues s t) then s
    else match m.ents.find? isCancel with
      | none => s
      | some c =>
        let cov := (m.ents.takeWhile (fun e => e.ent.seq != c.ent.seq)).filter (fun e => !(mvDone e))
        if cov.isEmpty then finishMv s t q c.ent 0 (some (statusWord 0 0))
        else
          let s1 := cov.foldl (fun s e => discardMv s t q e) s
          match hartCore s1 t with
          | none => s1
          | some k1 =>
            let f : CancelSt := { ent := c.ent, covers := cov.map (fun e => e.ent.seq), wasted := (cov.map slotWaste).foldl (· + ·) 0 }
            setHartCore s1 t (setMq k1 q { mqOf k1 q with cancel := some f }))

/-- A covered entry that was stopped gets CODE 0x03 with the bytes written at its destination (Table 9.3). (Log entry 28: DEDUCED.) -/
def endCancelled (s : State) (t : Hart) (q : Nat) (e : MvEnt) : State :=
  let s1 := if isEng e then dropEngStream s t e else s
  let s2 := if e.kind == .remote then dropTag s1 e.tag else s1
  let s3 := if e.kind == .pop then popDone s2 t e.elem else s2
  finishMv s3 t q e.ent 0 (some (statusWord 3 (if e.kind == .remote then e.acked else e.written)))

/-- A stopped REMOTE entry waits for what it has sent. -/
def cancelReady (s : State) (e : MvEnt) : Bool :=
  if e.kind == .remote then Tbl.get 0 s.fab.unacked e.tag == 0 else e.out.isEmpty

def execCancelComplete (h q : Nat) (s : State) : Out :=
  .next (withHart s h fun t k _ =>
    let m := mqOf k q
    match m.cancel with
    | none => s
    | some c =>
      let left := m.ents.filter (fun e => c.covers.contains e.ent.seq)
      if left.all (fun e => e.cancel && cancelReady s e) then
        let gone := (left.map (fun e => if e.kind == .remote then e.read - e.acked else 0)).foldl (· + ·) 0
        let s1 := left.foldl (fun s e => endCancelled s t q e) s
        match hartCore s1 t with
        | none => s1
        | some k1 =>
          finishMv (setHartCore s1 t (setMq k1 q { mqOf k1 q with cancel := none })) t q c.ent 0 (some (statusWord 0 (c.wasted + gone)))
      else s)

end Sys2Proof.Machine
end

