-- ==== Sys2Proof/Machine/Atomic.lean ====
section
/-!
DEFINITION. Sys2Proof/Machine/Atomic.lean: atomics and in-memory reductions (R259, R260, R287 to R296, Table 6.16): acceptance, and one
line-operation in the home slice.
-/

namespace Sys2Proof.Machine

/-- Bytes of a target element. -/
def tgtBytes (w : W64) : Nat := if iAOP w = 0xA then 16 else if iAOP w = 0xB then 4 else if iW64 w then 8 else 4

/-- Target checks of R287 and the NREP mark of R260. -/
def targetOk (s : State) (x : Ctx) (w : W64) (a n : Nat) : Bool :=
  let len := n * tgtBytes w
  a % tgtBytes w == 0 && ctxOk s x (·.a) a len && (devPieces x a len).all (fun p => isHbm p.1)
  && (iAOP w != 0xB || iNR w || allowed x (·.nrep) a len)

/-- Lines a target of n elements touches. -/
def tgtLines (w : W64) (a n : Nat) : Nat := if n = 0 then 0 else (a + n * tgtBytes w - 1) / 128 - a / 128 + 1

def acceptAtom (s : State) (t : Hart) (x : Ctx) (q : Nat) (e : QEnt) : State :=
  let a := (cap e (iQA e.w)).toNat
  if touchesRick x a (tgtBytes e.w) then faultEnt s t fQueue e
  else if !(targetOk s x e.w a 1) then faultEnt s t fExtent e
  else updMv s t q e.seq (fun m => { m with kind := .atom, dst := a, elem := 1, rows := 1, row := 0 })

def execMvAtom (h q : Nat) (s : State) : Out :=
  .next (withBegin s h q (isMv 8) fun t _ x e => acceptAtom s t x q e)

def acceptRed (s : State) (t : Hart) (x : Ctx) (q : Nat) (e : QEnt) : State :=
  let src := (cap e (iQA e.w)).toNat
  let a := (cap e (iQB e.w)).toNat
  let n := (cap e (iQC e.w)).toNat
  if n = 0 then finishMv s t q e 0 (some (statusWord 0 0))
  else if touchesRick x a (n * tgtBytes e.w) then faultEnt s t fQueue e
  else if shareSize x < src + 4 * n then faultEnt s t fExtent e
  else if !(targetOk s x e.w a n) then faultEnt s t fExtent e
  else updMv s t q e.seq (fun m => { m with kind := .red, src := src, dst := a, elem := n, rows := tgtLines e.w a n, row := 0 })

def execMvRed (h q : Nat) (s : State) : Out :=
  .next (withBegin s h q (isMv 9) fun t _ x e => acceptRed s t x q e)

/-! ## Element operations -/

/-- Integer operations of Table 6.16 on w-bit values: old value, operand, comparand (R291). -/
def aopInt (aop w old b c : Nat) : Nat :=
  match aop with
  | 0x0 => (old + b) % 2 ^ w
  | 0x1 => old &&& b
  | 0x2 => old ||| b
  | 0x3 => old ^^^ b
  | 0x4 => if sgn w b < sgn w old then b else old
  | 0x5 => if sgn w old < sgn w b then b else old
  | 0x6 => min old b
  | 0x7 => max old b
  | 0x8 => b
  | _ => if old = c then b else old

/-- One element operation on the element's old number: the new number and the flags. -/
def aopElem (w : W64) (old b c : Nat) : Nat × Flags :=
  if iAOP w = 0xA then
    let r := sheafIn (iE9 w) (fpDecode fp32 (b % 2 ^ 32))
    ((BitVec.ofNat 128 old + r.1).toNat, r.2.1)
  else if iAOP w = 0xB then fpAdd fp32 rmRNE old (b % 2 ^ 32)
  else
    let n := 8 * tgtBytes w
    (aopInt (iAOP w) n old (b % 2 ^ n) (c % 2 ^ n), 0)

/-- A 32-bit source element of `mv.red` as the operand of its operation (Table 6.16). -/
def redOperand (w : W64) (v : Nat) : Nat :=
  if iW64 w ∧ (iAOP w = 0 ∨ iAOP w = 4 ∨ iAOP w = 5) then (sext 32 v).toNat else v

/-- Element indices of an entry that lie in its r-th line. -/
def lineElems (e : MvEnt) (r : Nat) : List Nat :=
  let z := tgtBytes e.ent.w
  let lo := e.dst / 128 * 128 + r * 128
  let first := (lo - e.dst + z - 1) / z
  let last := min e.elem ((lo + 128 - e.dst + z - 1) / z)
  (List.range (last - first)).map (fun i => first + i)

/-- The operand of element i. -/
def elemOperand (s : State) (t : Hart) (x : Ctx) (e : MvEnt) (i : Nat) : Nat :=
  if e.kind == .red then redOperand e.ent.w (leNat (memBytes s (localAddr s t x (e.src + 4 * i)) 4))
  else (cap e.ent (iQB e.ent.w)).toNat

/-- Applies element i to a line's bytes: the bytes, the flags so far, the old value. -/
def applyElem (s : State) (t : Hart) (x : Ctx) (e : MvEnt) (a : List Byte × Flags × Nat) (i : Nat) : List Byte × Flags × Nat :=
  let z := tgtBytes e.ent.w
  let o := (e.dst + i * z) % 128
  let old := leNat ((a.1.drop o).take z)
  let r := aopElem e.ent.w old (elemOperand s t x e i) (cap e.ent (iQC e.ent.w)).toNat
  (spliceBytes a.1 o (leBytes z r.1), a.2.1 ||| r.2, old)

/-- Stores a line a slice has computed. -/
def storeLine (s : State) (k : Nat) (d : List Byte) : State :=
  match lineOf s k with
  | some l => { s with lines := Tbl.put s.lines k { l with dirty := true, data := d } }
  | none => (rawPiece (hbmRequest s (k * 128) false true) (k * 128) d).1

/-- Counts of a line-operation (Table 7.3, R293, R294). -/
def countLineOp (s : State) (k : Nat) (w : W64) (n old : Nat) : State :=
  let s1 := updSc s (homeRegion (k * 128)) (fun x => { x with
    atomics := x.atomics + BitVec.ofNat 64 n
    nrepOps := if iAOP w = 0xB then x.nrepOps + BitVec.ofNat 64 n else x.nrepOps })
  { s1 with count := if iAOP w = 0xA then Tbl.put s1.count k (old + 1) else Tbl.del s1.count k }

/-- One line-operation of an entry (R288, R293 to R296). (Log entry 31: DEDUCED.) -/
def lineOp (s : State) (t : Hart) (x : Ctx) (q : Nat) (e : MvEnt) : State :=
  match ctxDev x (max e.dst (e.dst / 128 * 128 + e.row * 128)) with
  | none => s
  | some d =>
    let k := d / 128
    let is := lineElems e e.row
    let src := if e.kind == .red then is.map (fun i => (localAddr s t x (e.src + 4 * i), 4)) else []
    let cnt := Tbl.get 0 s.count k
    if addrWaits s d then s
    else if src.any (fun p => rawPoison s p.1 p.2) then poisonRead s t e.ent src
    else if iAOP e.ent.w = 0xA ∧ 2 ^ 31 ≤ cnt then
      updMv (updSc s (homeRegion d) (fun y => { y with sheafRef := y.sheafRef + 1 })) t q e.ent.seq
        (fun z => { z with row := z.row + 1, refused := z.refused + 1 })
    else
      let r := unitReadLine s k 0 (some x.part)
      if r.2.2 then faultEnt r.1 t fPoison e.ent
      else
        let a := is.foldl (applyElem s t x e) (r.2.1, 0, 0)
        updMv (countLineOp (storeLine r.1 k a.1) k e.ent.w is.length cnt) t q e.ent.seq
          (fun z => { z with row := z.row + 1, flags := z.flags ||| a.2.1, old := BitVec.ofNat 64 a.2.2 })

/-- The next line-operation of the first atomic or reduction of the queue that has one left. (Log entry 31: DEDUCED.) -/
def execAtomicLineOp (h q : Nat) (s : State) : Out :=
  .next (withMvEnt s h q (fun e => (e.kind == .atom || e.kind == .red) && decide (e.row < e.rows)) fun t k x e =>
    if goesOn s t k q e then lineOp s t x q e else s)

end Sys2Proof.Machine
end

