-- ==== Sys2Proof/Machine/Rick.lean ====
section
/-!
DEFINITION. Sys2Proof/Machine/Rick.lean: pushes, seals and pops of a context's rick (R424 to R437): acceptance, frames and their
freeing, the control block (Table 11.3), the trailer (Table 11.4), the stall event.
-/

namespace Sys2Proof.Machine

/-- The open frame: the last one, when it is not sealed (R425). -/
def openFrame (r : RickSt) : Option Frame :=
  match r.frames.getLast? with
  | none => none
  | some f => if f.sealed then none else some f

/-- A seal has been accepted whose trailer is not yet written. -/
def sealing (r : RickSt) : Bool := r.frames.any (fun f => f.sealed && f.fin == 0)

/-- The oldest sealed frame that still holds bytes (R428). -/
def popFrame (r : RickSt) : Option Frame := r.frames.find? (fun f => f.sealed && f.fin != 0 && decide (f.base < f.pop))

/-- The words of Table 11.3 that are offsets. -/
def rickPop (r : RickSt) : Nat := match popFrame r with
  | none => r.push
  | some f => f.pop
def rickOpen (r : RickSt) : Nat := match openFrame r with
  | none => r.push
  | some f => f.base

/-- KEEP (R436): in fold mode the base counted is that of the frame held, open or sealed. -/
def rickKeep (b : RickBind) (r : RickSt) : Nat :=
  if b.fold then max (match r.frames with
    | [] => r.push
    | f :: _ => f.base) (r.push - b.foldBytes) else r.tail

/-- The 64 bytes of the control block (Table 11.3). -/
def ctlBytes (b : RickBind) (r : RickSt) : List Byte :=
  leBytes 8 r.push ++ leBytes 8 (rickPop r) ++ leBytes 8 r.tail ++ leBytes 8 (rickOpen r) ++ leBytes 8 (rickKeep b r)
  ++ leBytes 4 r.freedN ++ leBytes 4 r.sealedN ++ zeros 16

def rickOf (s : State) (u c : Nat) : RickSt := ((resOf s u c).map (·.rick)).getD {}

/-- Sets the pointers of a unit and writes its control block (R434). -/
def setRick (s : State) (t : Hart) (x : Ctx) (b : RickBind) (r : RickSt) (e : QEnt) : State :=
  match t with
  | .res u c => putShare (updRes s u c (fun y => { y with rick := r })) t x b.ctlOff (ctlBytes b r) e
  | .inst _ _ => s

def unitBytes (b : RickBind) : Nat := b.unitGran * 4096

/-- Runs f when the place of beginning of the queue holds a rick entry that `is` accepts. -/
def withRick (s : State) (h q : Nat) (is : Hart → Ctx → QEnt → Bool)
    (f : Hart → Ctx → RickBind → RickSt → QEnt → State) : State :=
  withBegin s h q (fun w => isMv 0 w || isMv 1 w) fun t _ x e =>
    match x.rick with
    | none => s
    | some b => if is t x e then f t x b (rickOf s (hartUnit s t) (hartCtx s t)) e else s

def lenOf (e : QEnt) : Nat := (cap e (iQC e.w)).toNat

/-! ## Pushes (R425, R426, R436) -/

/-- A push finds room: space for it and the trailer, and a frame to belong to. -/
def pushRoom (b : RickBind) (r : RickSt) (n : Nat) : Bool :=
  !(sealing r)
  && (b.fold || decide (r.push + n + 128 - r.tail ≤ unitBytes b))
  && ((openFrame r).isSome || decide (r.frames.length < (if b.fold then 1 else b.maxfr)))

/-- The pointers after a push of n bytes is accepted. -/
def pushed (r : RickSt) (n : Nat) : RickSt :=
  let f := (openFrame r).getD { base := r.push }
  let rest := if (openFrame r).isSome then r.frames.dropLast else r.frames
  { r with push := r.push + n, frames := rest ++ [{ f with bytes := f.bytes + n, pushes := f.pushes + 1 }] }

def pushLenOk (b : RickBind) (e : QEnt) : Bool :=
  lenOf e % 128 == 0 && decide (128 ≤ lenOf e) && decide (lenOf e ≤ 2 ^ 31) && (cap e (iQA e.w)).toNat % 32 == 0
  && !(b.fold && decide (b.foldBytes < lenOf e))

def acceptPush (s : State) (t : Hart) (x : Ctx) (q : Nat) (b : RickBind) (r : RickSt) (e : QEnt) : State :=
  let n := lenOf e
  let a := (cap e (iQA e.w)).toNat
  if !(pushLenOk b e) then faultEnt s t fQueue e
  else if !(endOk s t x .share (·.r) a n) then faultEnt s t fExtent e
  else if !(pushRoom b r n) then s
  else
    updMv (setRick s t x b (pushed r n) e) t q e.seq (fun m =>
      { planRow m .push .share a .rick r.push n 1 with elem := rickOpen (pushed r n) })

def execRickPush (h q : Nat) (s : State) : Out :=
  .next (withRick s h q (fun t x e => isPush t x e && lenOf e != 0) fun t x b r e => acceptPush s t x q b r e)

/-! ## Seals (R427, R435) -/

/-- Table 11.4. -/
def trailer (s : State) (u c : Nat) (r : RickSt) (f : Frame) : List Byte :=
  leBytes 4 f.pushes ++ leBytes 4 ((r.sealedN + 1) % 2 ^ 32) ++ leBytes 8 f.bytes ++ leBytes 8 (c * 2 ^ 52 + u)
  ++ leBytes 8 f.base ++ leBytes 8 s.time.now.toNat ++ zeros 88

/-- A push of the frame at a base is still at work in some queue; one that a fence has stopped is, until its reads have retired (R431). -/
def pushesLeft (k : Core) (base : Nat) : Bool :=
  k.mq.any (fun p => p.2.ents.any (fun e => e.kind == .push && e.elem == base && !(e.cancel && e.out.isEmpty)))

/-- The frame after its seal has taken effect, ending at `fin`. -/
def sealedAt (r : RickSt) (base fin : Nat) : RickSt :=
  { r with push := fin, sealedN := (r.sealedN + 1) % 2 ^ 32,
           frames := r.frames.map (fun f => if f.base = base then { f with fin := fin, pop := f.base + f.bytes } else f) }

/-- The trailer is written once the pushes accepted before the seal have completed; the seal completes. -/
def endSeal (s : State) (t : Hart) (x : Ctx) (q : Nat) (e : MvEnt) : State :=
  match hartCore s t, x.rick with
  | some k, some b =>
    let r := rickOf s (hartUnit s t) (hartCtx s t)
    (match r.frames.find? (fun f => f.base == e.elem && f.sealed && f.fin == 0) with
     | none => s
     | some f =>
       if pushesLeft k f.base then s
       else if b.fold then finishMv (setRick s t x b (sealedAt r f.base r.push) e.ent) t q e.ent 0 (some (statusWord 0 0))
       else
         let ps := endPieces s t x .rick r.push 128
         if piecesWait s ps then s
         else
           let w := writePieces s false ps (trailer s (hartUnit s t) (hartCtx s t) r f) 1 (some x.part)
           finishMv (setRick w.1 t x b (sealedAt r f.base (r.push + 128)) e.ent) t q e.ent 0 (some (statusWord 0 0)))
  | _, _ => s

def acceptSeal (s : State) (t : Hart) (x : Ctx) (q : Nat) (b : RickBind) (r : RickSt) (e : QEnt) : State :=
  match openFrame r with
  | none => finishMv s t q e 0 (some (statusWord 0 0))
  | some f =>
    let r1 := { r with frames := r.frames.map (fun g => if g.base = f.base then { g with sealed := true } else g) }
    updMv (setRick s t x b r1 e) t q e.seq (fun m => { m with kind := .seal, elem := f.base })

/-- Accepts the seal at the queue's place of beginning, then ends the first accepted seal of the queue that can end. -/
def execRickSeal (h q : Nat) (s : State) : Out :=
  .next (
    let s1 := withRick s h q (fun t x e => isPush t x e && lenOf e == 0) fun t x b r e => acceptSeal s t x q b r e
    withMvEnt s1 h q (fun e => e.kind == .seal) fun t k x e => if goesOn s1 t k q e then endSeal s1 t x q e else s1)

/-! ## Pops (R428, R436) -/

def lowerPop (r : RickSt) (base n : Nat) : RickSt :=
  { r with frames := r.frames.map (fun f => if f.base = base ∧ f.sealed then { f with pop := f.pop - n, busy := f.busy + 1 } else f) }

def acceptPop (s : State) (t : Hart) (x : Ctx) (q : Nat) (b : RickBind) (r : RickSt) (e : QEnt) : State :=
  let n := lenOf e
  let dst := (cap e (iQB e.w)).toNat
  if n % 128 ≠ 0 ∨ dst % 32 ≠ 0 ∨ 2 ^ 32 ≤ n then faultEnt s t fQueue e
  else match popFrame r with
    | none => s
    | some f =>
      if n = 0 then
        let r1 := { r with frames := r.frames.map (fun g => if g.base = f.base then { g with pop := g.base } else g) }
        finishMv (setRick s t x b r1 e) t q e 0 (some (statusWord 0 0))
      else if f.pop - f.base < n ∨ (b.fold ∧ f.pop - n < rickKeep b r) then faultEnt s t fQueue e
      else if !(endOk s t x .share (·.w) dst n) then faultEnt s t fExtent e
      else
        updMv (setRick s t x b (lowerPop r f.base n) e) t q e.seq (fun m =>
          { planRow m .pop .rick (f.pop - n) .share dst n 1 with elem := f.base })

def execRickPop (h q : Nat) (s : State) : Out :=
  .next (withRick s h q isPop fun t x b r e => acceptPop s t x q b r e)

/-- Sets the pointers with no entry to answer for the control block: the PC of a write lost to poison is not stated, a free value (R274). (Log entry 26: DESIGN CHOICE.) -/
def setRickFree (s : State) (t : Hart) (x : Ctx) (b : RickBind) (r : RickSt) : State :=
  match t with
  | .res u c =>
    let w := rawWrite (updRes s u c (fun y => { y with rick := r })) (localAddr s t x b.ctlOff) (ctlBytes b r)
    if w.2 then bump (raiseFault w.1 c fPoison ((Config.freeWord s.freeCtr).toNat % 2 ^ 48) u none) else w.1
  | .inst _ _ => s

/-- R429: the oldest frame is freed when it is empty and its pops have completed. -/
def execRickFrameFree (h : Nat) (s : State) : Out :=
  .next (withHart s h fun t _ x =>
    match x.rick with
    | none => s
    | some b =>
      let r := rickOf s (hartUnit s t) (hartCtx s t)
      match r.frames with
      | [] => s
      | f :: rest =>
        if f.sealed && f.fin != 0 && f.pop == f.base && f.busy == 0 then
          setRickFree s t x b { r with tail := f.fin, freedN := (r.freedN + 1) % 2 ^ 32, frames := rest }
        else s)

/-! ## Stalls -/

/-- The entry waits for rick space, for a frame, or for a sealed frame to pop. -/
def rickWaits (t : Hart) (x : Ctx) (b : RickBind) (r : RickSt) (e : QEnt) : Bool :=
  if isPop t x e then (popFrame r).isNone else isPush t x e && lenOf e != 0 && pushLenOk b e && !(pushRoom b r (lenOf e))

/-- A push or pop has waited 10 ms: the event of R426 and R428, once per entry. -/
def execRickStall (h q : Nat) (s : State) : Out :=
  .next (withHart s h fun t k x =>
    match beginEnt (mqOf k q), x.rick with
    | some e, some b =>
      let r := rickOf s (hartUnit s t) (hartCtx s t)
      (match mvEntOf s t q e.seq with
       | none => s
       | some m =>
         if !m.stalled && rickWaits t x b r e then
           raiseEv (updMv s t q e.seq (fun z => { z with stalled := true })) 0x0106 clsWarning
             (argC (hartCtx s t) + argL (hartUnit s t) + (if isPop t x e then 1 else 0)) (lenOf e)
         else s)
    | _, _ => s)

end Sys2Proof.Machine
end

