-- ==== Sys2Proof/Machine/Hash.lean ====
section
/-!
DEFINITION. Sys2Proof/Machine/Hash.lean: SHA-256, which the spec names for digests and trust (R356, R357, R494, R591, R597, R608) and does
not restate, and HMAC-SHA-256 with the key derivation over it (R587, R594).
-/

namespace Sys2Proof.Machine

/-- Big-endian bytes of a number. -/
def beBytes : Nat → Nat → List Byte
  | 0, _ => []
  | n + 1, x => BitVec.ofNat 8 (x / 256 ^ n) :: beBytes n x

def beNat (l : List Byte) : Nat := l.foldl (fun v b => v * 256 + b.toNat) 0

/-! ## SHA-256 -/

/-- The largest whole k-th root of n below 2^36. -/
def wholeRoot (k n : Nat) : Nat := (List.range 36).foldr (fun i r => if (r + 2 ^ i) ^ k ≤ n then r + 2 ^ i else r) 0

/-- The first 32 bits of the fractional part of the k-th root of p. -/
def rootBits (k p : Nat) : W32 := BitVec.ofNat 32 (wholeRoot k (p * 2 ^ (32 * k)))

/-- The first 64 primes. -/
def shaPrimes : List Nat := (List.range 312).filter (fun n => decide (2 ≤ n) && (List.range 18).all (fun d => decide (d < 2) || d == n || n % d != 0))

/-- The additive constant of each of the 64 rounds, and the words the chain starts from. -/
def shaAdd : List W32 := shaPrimes.map (rootBits 3)
def shaStart : List W32 := (shaPrimes.take 8).map (rootBits 2)

def turned (x : W32) (ns : List Nat) : W32 := ns.foldl (fun y n => y ^^^ x.rotateRight n) 0

/-- One round: the eight working words, and the sixteen words of the message schedule that the next rounds take, which it moves on by one. -/
structure ShaSt where
  work : List W32
  win  : List W32

def shaRound (x : ShaSt) (add : W32) : ShaSt :=
  let v (i : Nat) : W32 := x.work.getD i 0
  let m (i : Nat) : W32 := x.win.getD i 0
  let choice := v 6 ^^^ (v 4 &&& (v 5 ^^^ v 6))
  let most := (v 0 &&& v 1) ||| (v 2 &&& (v 0 ||| v 1))
  let up := m 0 + add + v 7 + choice + turned (v 4) [6, 11, 25]
  let new := m 0 + m 9 + (turned (m 1) [7, 18] ^^^ (m 1 >>> 3)) + (turned (m 14) [17, 19] ^^^ (m 14 >>> 10))
  { work := (up + most + turned (v 0) [2, 13, 22]) :: (x.work.take 7).mapIdx (fun i y => if i = 3 then y + up else y)
    win := x.win.drop 1 ++ [new] }

/-- A 64-byte block taken into the chain. -/
def shaChain (c : List W32) (b : List Byte) : List W32 :=
  let win := (List.range 16).map (fun i => BitVec.ofNat 32 (beNat ((b.drop (4 * i)).take 4)))
  List.zipWith (· + ·) c (shaAdd.foldl shaRound { work := c, win := win }).work

/-- A message padded to whole blocks: a one bit, zeros, its length in bits. -/
def shaPadded (m : List Byte) : List Byte :=
  m ++ 0x80 :: List.replicate ((55 + 64 - m.length % 64) % 64) 0 ++ beBytes 8 (8 * m.length)

/-- SHA-256 (FIPS 180-4) of a message. (Log entry 95: PRESUMED.) -/
def sha256 (m : List Byte) : List Byte :=
  let p := shaPadded m
  ((List.range (p.length / 64)).foldl (fun c i => shaChain c ((p.drop (64 * i)).take 64)) shaStart).flatMap (fun w => beBytes 4 w.toNat)

/-! ## HMAC-SHA-256 and the KDF of R594 -/

/-- HMAC-SHA-256 (FIPS 198-1). (Log entry 95: PRESUMED.) -/
def hmac (key m : List Byte) : List Byte :=
  let k := if 64 < key.length then sha256 key else key
  let pad (c : Byte) : List Byte := (k ++ List.replicate (64 - k.length) 0).map (· ^^^ c)
  sha256 (pad 0x5c ++ sha256 (pad 0x36 ++ m))

/-- The KDF in counter mode of SP 800-108 with HMAC-SHA-256: n blocks of 256 bits from a key under a label. (Log entry 95: PRESUMED.) -/
def kdf (key label : List Byte) (n : Nat) : List Byte :=
  (List.range n).flatMap (fun i => hmac key (beBytes 4 (i + 1) ++ label ++ 0 :: beBytes 4 (256 * n)))

end Sys2Proof.Machine
end

