-- ==== Sys2Proof/Machine/Keys.lean ====
section
/-!
DEFINITION. Sys2Proof/Machine/Keys.lean: the keeping store's regions, writes and counters (R586 to R588), the device's secrets (R593 to R595),
signatures and signed objects (R596 to R598), the configuration record's items (R589) and the repair supplement's chain (R591, R592).
-/

namespace Sys2Proof.Machine

/-- Exactly n bytes of an object whose length the spec fixes. (Log entry 72: DESIGN CHOICE.) -/
def fixLen (n : Nat) (l : List Byte) : List Byte := (l ++ List.replicate n 0).take n

/-! ## What manufacture left in the keeping store (Table 16.1) -/

/-- Contents of a region, those of manufacture where nothing else was written. (Log entry 4: DESIGN CHOICE.) -/
def regionBytes (l : List Byte) (kind : Nat) : List Byte := if l.isEmpty then Config.factoryObject kind else l

/-- Log entry 4: DESIGN CHOICE. -/
def objBytes (o : KsObj) (kind : Nat) : List Byte := regionBytes o.bytes kind
def helperBytes (t : TrustSt) : List Byte := fixLen 4096 (regionBytes t.helper 2)
def sealedBytes (t : TrustSt) : List Byte := fixLen 4096 (regionBytes t.sealed 3)
/-- The identity certificate, at most the 16 KiB of its region. -/
def certBytes (t : TrustSt) : List Byte := (regionBytes t.cert 4).take (2 ^ 14)

/-! ## Keys from K_PUF (Table 16.4) -/

/-- Log entry 72: DESIGN CHOICE. -/
def keyLabel (s : String) : List Byte := s.toList.map (fun c => BitVec.ofNat 8 c.toNat)

def kSeal (t : TrustSt) : List Byte := kdf t.kPuf (keyLabel "seal") 1
def kStore (t : TrustSt) : List Byte := kdf t.kPuf (keyLabel "store") 1
def kRepair (t : TrustSt) : List Byte := kdf t.kPuf (keyLabel "repair") 1
/-- Seeds d and z of the ML-KEM pair of the generation, and its encapsulation key (R610). (Log entry 72: DESIGN CHOICE.) -/
def kemSeed (t : TrustSt) : List Byte := kdf t.kPuf (keyLabel "kem" ++ leBytes 4 t.kemGen.toNat) 2
def kemPub (t : TrustSt) : List Byte := fixLen 1568 (Config.kemPublic (kemSeed t))

/-- The identity seed out of its sealed region, DEV_SERIAL being the additional data; none where unsealing fails (R595). -/
def unsealed (t : TrustSt) : Option (List Byte) := Config.openSeal (kSeal t) (leBytes 8 t.serial.toNat) (sealedBytes t)

/-! ## Writes to the keeping store (R587) -/

/-- What a write of these bytes carries when it is current: the write count and the MAC over both. (Log entry 109: DESIGN CHOICE.) -/
def ownMsg (t : TrustSt) (data : List Byte) : KsMsg :=
  { count := t.writes, mac := hmac (kStore t) (data ++ leBytes 8 t.writes) }

/-- The keeping store performs a write only when count and MAC are current. (Log entry 109: DESIGN CHOICE.) -/
def ksCurrent (t : TrustSt) (data : List Byte) (w : KsMsg) : Bool := w == ownMsg t data

/-- n writes of the device's own have been performed. (Log entry 109: DESIGN CHOICE.) -/
def ksWrote (n : Nat) (t : TrustSt) : TrustSt := { t with writes := t.writes + n }

/-! ## The repair supplement -/

/-- Entries that 256 KiB hold at 48 bytes each, MAC included. (Log entry 79: DESIGN CHOICE.) -/
def suppRoom : Nat := 5461

def entryBytes (e : SuppEnt) : List Byte := fixLen 16 (Config.suppBytes [e.seq, e.kind, e.arg])

/-- HMAC-SHA-256 under K_REPAIR over the entry and the previous entry's MAC (R591). -/
def suppMac (t : TrustSt) (prev : List Byte) (e : SuppEnt) : List Byte := hmac (kRepair t) (entryBytes e ++ prev)

def nextSupp (t : TrustSt) (kind arg : Nat) : SuppEnt :=
  let e : SuppEnt := { seq := (t.suppSeq + 1).toNat, kind := kind, arg := arg }
  { e with mac := suppMac t ((t.supp.getLast?.map (·.mac)).getD []) e }

/-- The entries before the chain breaks, from the MAC `prev` on. -/
def goodSupp (t : TrustSt) : List Byte → List SuppEnt → List SuppEnt
  | _, [] => []
  | prev, e :: l => if e.mac == suppMac t prev e then e :: goodSupp t e.mac l else []

/-- The entries that are applied: those that verify, up to SUPP_SEQ. -/
def appliedEnts (t : TrustSt) : List SuppEnt := (goodSupp t [] t.supp).filter (fun e => decide (e.seq ≤ t.suppSeq.toNat))

/-- R592: the chain breaks, or the last entry found is not SUPP_SEQ. -/
def suppBad (t : TrustSt) : Bool :=
  (goodSupp t [] t.supp).length != t.supp.length || ((t.supp.getLast?).map (·.seq)).getD 0 != t.suppSeq.toNat

/-- Units that entries past the break name: self-test tests them again. (Log entry 79: DESIGN CHOICE.) -/
def suppUnits (t : TrustSt) : List Nat := ((t.supp.drop (goodSupp t [] t.supp).length).filter (fun e => decide (e.kind < 3))).map (·.arg)

/-! ## LMS and HSS (Table 16.5) -/

/-- Type codes of RFC 8554: LMS 5 to 9 for heights 5 to 25, LM-OTS 1 to 4 for w = 1, 2, 4, 8 with 265, 133, 67, 34 chains. (Log entry 95: PRESUMED.) -/
def lmsTypeOk (k : List Byte) : Bool := k.length == 56 && decide (5 ≤ beNat (k.take 4) ∧ beNat (k.take 4) ≤ 9) && decide (1 ≤ beNat ((k.drop 4).take 4) ∧ beNat ((k.drop 4).take 4) ≤ 4)
def otsChains (k : List Byte) : Nat := [265, 133, 67, 34].getD (beNat ((k.drop 4).take 4) - 1) 0
def lmsHeight (k : List Byte) : Nat := 5 * (beNat (k.take 4) - 4)

/-- Bytes of a signature under an LMS public key: leaf, one-time signature, type, path. (Log entry 95: PRESUMED.) -/
def lmsSigLen (k : List Byte) : Nat := 12 + 32 * (1 + otsChains k) + 32 * lmsHeight k

/-- The signature has the length and the types of its key. -/
def lmsSigOk (k sig : List Byte) : Bool :=
  sig.length == lmsSigLen k && (sig.drop 4).take 4 == (k.drop 4).take 4 && (sig.drop (8 + 32 * (1 + otsChains k))).take 4 == k.take 4

/-- An HSS public key and signature of one or two levels, in the parameter sets of Table 16.5. (Log entry 95: PRESUMED.) -/
def hssShape (pk sig : List Byte) : Bool :=
  let k0 := pk.drop 4
  let n := lmsSigLen k0
  let k1 := (sig.drop (4 + n)).take 56
  lmsTypeOk k0 && beNat (sig.take 4) + 1 == beNat (pk.take 4) && sig.length != 0
  && (if beNat (pk.take 4) = 1 then lmsSigOk k0 (sig.drop 4)
      else beNat (pk.take 4) == 2 && lmsTypeOk k1 && lmsSigOk k0 ((sig.drop 4).take n) && lmsSigOk k1 (sig.drop (60 + n)))

/-- A public key of the device's identity: height h, w = 4. Tree 0 is level 0, tree i + 1 the i-th of level 1. -/
def lmsPub (h : Nat) (rest : List Byte) : List Byte := beBytes 4 (4 + h / 5) ++ beBytes 4 3 ++ fixLen 48 rest

/-- Log entry 72: DESIGN CHOICE. -/
def lmsSign (seed : List Byte) (h tree leaf : Nat) (m : List Byte) : List Byte :=
  beBytes 4 leaf ++ beBytes 4 3 ++ fixLen 2176 (Config.otsSign seed tree leaf m) ++ beBytes 4 (4 + h / 5)
  ++ fixLen (32 * h) (Config.lmsPath seed tree leaf)

/-- The identity's signature with index q: level count, level-0 signature, level-1 public key, level-1 signature (R596, R598). (Log entry 72: DESIGN CHOICE.) -/
def identSign (seed : List Byte) (q : Nat) (m : List Byte) : List Byte :=
  let i := q / 2 ^ 15
  let k1 := lmsPub 15 (Config.lmsRoot seed (i + 1))
  beBytes 4 1 ++ lmsSign seed 10 0 i k1 ++ k1 ++ lmsSign seed 15 (i + 1) (q % 2 ^ 15) m

/-- The 60-byte identity public key, which the certificate carries. -/
def identPublic (t : TrustSt) : List Byte := beBytes 4 2 ++ lmsPub 10 (Config.certKey (certBytes t))

/-! ## Signed objects (R597, Table 16.6) -/

/-- Field of a signed object's header, by byte offset. -/
def objField (bs : List Byte) (off n : Nat) : Nat := leNat ((bs.drop off).take n)

/-- Header and body, the signer's public key, the signature. -/
def objMsg (bs : List Byte) : List Byte := bs.take (64 + objField bs 12 4)
def objPk (bs : List Byte) : List Byte := (bs.drop (64 + objField bs 12 4)).take (objField bs 24 2)
def objSig (bs : List Byte) : List Byte := bs.drop (64 + objField bs 12 4 + objField bs 24 2)

/-- The SHA-256 of the signer's key is one of the two root hashes of the mask ROM, and the signature verifies under it. -/
def objSigned (bs : List Byte) : Bool :=
  let d := sha256 (objPk bs)
  (d == fixLen 32 (Config.romRoot 0) || d == fixLen 32 (Config.romRoot 1)) && hssShape (objPk bs) (objSig bs)
  && Config.hssValid (objPk bs) (objSig bs) (objMsg bs)

/-- The object's header and lengths are those of its kind, and its signature verifies. -/
def objVerifies (cfg : Bool) (bs : List Byte) : Bool :=
  objField bs 0 4 == (if cfg then 2 else 1)
  && 64 + objField bs 12 4 + objField bs 24 2 + objField bs 26 2 == bs.length
  && (if cfg then objField bs 8 4 == objField bs 4 4 else objField bs 16 8 == 0)
  && ((bs.drop 28).take 36).all (· == 0) && objSigned bs

/-! ## The configuration record (Table 16.3) -/

/-- An item of a record's body, whose layout is not stated. (Log entry 110: DESIGN CHOICE.) -/
def recItem (bs : List Byte) (i : Nat) : Nat := Config.recordField (bs.drop 64) i

/-- The items of a record: of each region at most one LUN on the spare site, of each port at most one spared lane; thresholds out of order or
above those of Table 7.8 are those of Table 7.8. (Log entry 110: DESIGN CHOICE.) -/
def recordOf (bs : List Byte) : CfgRec :=
  let t2 := min 85 (recItem bs 2)
  let t4 := min 95 (recItem bs 3)
  let hc := min 105 (recItem bs 4)
  let asc := decide (t2 < t4) && decide (t4 < hc)
  { hnn := 1 + recItem bs 0 % 99, screen := recItem bs 1 % 2 == 1
    spares := (List.range 16).filterMap (fun r => match recItem bs (16 + r) % 17 with | 0 => none | k + 1 => some (16 * r + k))
    lanes := (List.range 12).filterMap (fun p => match recItem bs (32 + p) % 9 with | 0 => none | k + 1 => some (p, k))
    disabled := (List.range 256).filter (fun u => recItem bs (256 + u) % 2 == 1)
    hbm := (Config.recordSpares (bs.drop 64)).map (fun p => (p.1 % 3, p.2 % hbmEnd))
    trims := Config.recordTrims (bs.drop 64)
    t2 := if asc then t2 else 85, t4 := if asc then t4 else 95, holdC := if asc then hc else 105 }

/-- A staged object as the slot holds it. (Log entry 77: DESIGN CHOICE.) -/
def stageObj (bs : List Byte) : KsObj :=
  { present := true, version := objField bs 4 4, svn := objField bs 8 4, serial := BitVec.ofNat 64 (objField bs 16 8), bytes := bs
    items := recordOf bs }

def fwIn (t : TrustSt) (b : Bool) : KsObj := if b then t.fwB else t.fwA
def cfgIn (t : TrustSt) (b : Bool) : KsObj := if b then t.cfgB else t.cfgA
/-- The firmware and the record in use. -/
def runFw (t : TrustSt) : KsObj := fwIn t t.fwSlot
def runCfg (t : TrustSt) : KsObj := cfgIn t t.cfgSlot

end Sys2Proof.Machine
end

