-- ==== Sys2Proof/Machine/SetBase.lean ====
section
/-!
DEFINITION. Sys2Proof/Machine/SetBase.lean: weight sets, slots, adapters and turns as other chapters use them: their ranges (R449, R501),
serial epochs (R453), changes of a turn's state (R461), and what holds stack-engine writes back (R445, R452, R505).
-/

namespace Sys2Proof.Machine

def setOf (s : State) (n : Nat) : SetSt := Tbl.get {} s.sets n
def putSet (s : State) (n : Nat) (x : SetSt) : State := { s with sets := Tbl.put s.sets n x }
def updSet (s : State) (n : Nat) (f : SetSt → SetSt) : State := putSet s n (f (setOf s n))
def turnOf (s : State) (p : Nat) : TurnSt := Tbl.get {} s.turns p
def updTurn (s : State) (p : Nat) (f : TurnSt → TurnSt) : State := { s with turns := Tbl.put s.turns p (f (turnOf s p)) }
def evalOf (s : State) (p : Nat) : EvalSt := Tbl.get {} s.eval p
def adpOf (s : State) (a : Nat) : AdpSt := Tbl.get {} s.adp a

/-- Device ranges of an object at the same offset of several stacks: offset in bytes, size per stack in granules. -/
def stackRanges (stackSet offset : Nat) (size : Nat → Nat) : List (Nat × Nat) :=
  (bitList 24 stackSet).map (fun st => (stackBase st + offset, size st * 4096))

def setRanges (x : SetSt) : List (Nat × Nat) := stackRanges x.stackSet x.offset (Tbl.get 0 x.sizes)
def genRanges (g : AdpGen) : List (Nat × Nat) := stackRanges g.stackSet g.offset (fun _ => g.size)
def adpRanges (a : AdpSt) : List (Nat × Nat) :=
  (match a.cur with
   | none => []
   | some g => genRanges g) ++ (match a.ret with
   | none => []
   | some g => genRanges g)

def overlap (p q : Nat × Nat) : Bool := decide (p.1 < q.1 + q.2) && decide (q.1 < p.1 + p.2) && decide (0 < p.2) && decide (0 < q.2)
def overlaps (l m : List (Nat × Nat)) : Bool := l.any (fun p => m.any (overlap p))

/-- R453: e is newer than f. -/
def newer (e f : BitVec 16) : Bool := decide (1 ≤ (e - f).toNat) && decide ((e - f).toNat ≤ 2 ^ 15 - 1)

/-- e lags f by 2^14 or more (R453, R505). -/
def lags (e f : BitVec 16) : Bool := newer f e && decide (2 ^ 14 ≤ (f - e).toNat)

/-- SET_STAT.FAILED (R619): a shard holds status 0x01 to 0x03. -/
def setFailed (x : SetSt) : Bool := x.shards.any (fun p => decide (1 ≤ p.2) && decide (p.2 ≤ 3))

def isDefined (x : SetSt) : Bool := x.st != .undefined

/-- The defined set that holds a whole range. -/
def setHolding (s : State) (r : Nat × Nat) : Option Nat :=
  (s.sets.find? (fun p => isDefined p.2 && (setRanges p.2).any (fun q => decide (q.1 ≤ r.1) && decide (r.1 + r.2 ≤ q.1 + q.2)))).map (·.1)

/-- A Live or Draining set whose ranges meet a list of write ranges (R452). -/
def liveSetMeets (s : State) (ws : List (Nat × Nat)) : Option Nat :=
  (s.sets.find? (fun p => (p.2.st == .live || p.2.st == .draining) && overlaps (setRanges p.2) ws)).map (·.1)

/-- An adapter slot with a generation whose range meets a list of write ranges (R505). -/
def adpMeets (s : State) (ws : List (Nat × Nat)) : Option Nat :=
  (s.adp.find? (fun p => overlaps (adpRanges p.2) ws)).map (·.1)

def turnCode : TurnState → Nat
  | .idle => 0
  | .emitting => 1
  | .gathering => 2
  | .done => 3
  | .held => 4

/-- A turn changes its state, with its event (R461, Table 15.6). Leaving Emitting clears ARM_EMIT (Table 12.7). -/
def turnTo (s : State) (p : Nat) (st : TurnState) (cause : Nat) : State :=
  let c := if st = .held then cause else 0
  let s1 := updTurn s p (fun t => { t with st := st, cause := c, armEmit := if st = .emitting then t.armEmit else false })
  raiseEv s1 0x0404 clsNotice (c * 2 ^ 16 + turnCode st * 2 ^ 8 + p) 0

/-- A command whose set emits are performed is running for a partition. -/
def emitRunning (s : State) (p : Nat) : Bool :=
  s.se.any (fun e => e.2.cmds.any (fun c => c.setEmit && (match c.ctx with
    | none => false
    | some x => ctxPart s x == some p)))

/-- Emitting ends when the expected emits are done and none runs; it goes Held when they are passed (Table 12.8). -/
def turnAdvance (s : State) (p : Nat) : State :=
  let t := turnOf s p
  if t.st != .emitting then s
  else if t.emitExp < t.emitDone then turnTo s p .held 4
  else if t.emitDone = t.emitExp ∧ emitRunning s p = false then turnTo s p .gathering 0
  else s

/-- A command that performed set emits completes (R462). -/
def emitCounted (s : State) (p : Nat) : State :=
  turnAdvance (if (turnOf s p).st == .emitting then updTurn s p (fun t => { t with emitDone := t.emitDone + 1 }) else s) p

/-- Whether an emit into a range is performed for a context: always outside every set; within one, while the partition's turn is
Emitting into it (R462). The second Bool says that it is a set emit. -/
def emitPerformed (s : State) (part : Nat) (r : Nat × Nat) : Bool × Bool :=
  match setHolding s r with
  | none => (true, false)
  | some n => ((turnOf s part).st == .emitting && (turnOf s part).tgtSet == n, true)

/-- A weight-writing command of context c waits for its partition's evaluation window (R445). -/
def evalHolds (s : State) (part c : Nat) : Bool :=
  (evalOf s part).st != .closed && !((evalOf s part).ctxs.contains c)

/-- A context of partition p faults or is removed: its running turn is held (Table 12.8). -/
def turnFault (s : State) (p : Nat) : State :=
  if (turnOf s p).st == .emitting || (turnOf s p).st == .gathering then turnTo s p .held 1 else s

end Sys2Proof.Machine
end

