-- ==== Sys2Proof/Machine/HostBase.lean ====
section
/-!
DEFINITION. Sys2Proof/Machine/HostBase.lean: a host command between its acceptance and its row (R566, R571 to R574): its fields, its
rejection with a CHECK, its completion; and the records written into a context's shares (R456, R503, R510).
-/

namespace Sys2Proof.Machine

/-- The accepted command, when it is of operation `opc`; it is no longer current for what follows. -/
def withCur (s : State) (opc : Nat) (f : HostCmd → State → State) : State :=
  match s.host.cur with
  | none => s
  | some h => if h.job.opc = opc then f h { s with host := { s.host with cur := none } } else s

/-- Field [hi:lo] of descriptor word i. -/
def hf (h : HostCmd) (i hi lo : Nat) : Nat := wf h.ws i hi lo

/-- The words of the parameter block. -/
def blockWords (h : HostCmd) : List W64 := leWords (h.block.length / 8) h.block

/-- Rejected: CODE 0x01 with the first failed check (R574). -/
def rejectCmd (s : State) (h : HostCmd) (check : Nat) : State := finishJob s h.job 1 check 0

/-- Complete: CODE 0x00. -/
def completeCmd (s : State) (h : HostCmd) (detail : Nat) : State := finishJob s h.job 0 0 (BitVec.ofNat 64 detail)

/-- The first check of a list that fails: each a number and whether it fails. -/
def firstFail : List (Nat × Bool) → Option Nat
  | [] => none
  | (n, b) :: t => if b then some n else firstFail t

/-- Carries out a command whose checks are given, or rejects it under the first that fails. -/
def checked (s : State) (h : HostCmd) (cs : List (Nat × Bool)) (f : State → State) : State :=
  match firstFail cs with
  | some n => rejectCmd s h n
  | none => f s

/-- Writes words at an offset of a context's share on every unit of its set. (Log entry 67: DESIGN CHOICE.) -/
def writeRecord (s : State) (c off : Nat) (ws : List Nat) : State :=
  match ctxOf s c with
  | none => s
  | some x => x.units.foldl (fun s u => (shareWrite s x u off (ws.flatMap (leBytes 8))).1) s

/-- A time stamp: 0 is written as 1 (Tables 12.5, 13.12, 13.16). (Log entry 67: DESIGN CHOICE.) -/
def stampNow (s : State) : Nat := if s.time.now = 0 then 1 else s.time.now.toNat

/-- A 32-byte record fits at an offset of a context's share. -/
def recordOk (s : State) (c off : Nat) : Bool :=
  match ctxOf s c with
  | none => false
  | some x => off % 32 == 0 && inShare x off 32

def isLoaded (s : State) (c : Nat) : Bool := (ctxOf s c).isSome

/-! ## Repairs and hardware faults -/

/-- Appends a repair-supplement entry, then advances SUPP_SEQ (R592): two writes of the keeping store. (Log entry 79: DESIGN CHOICE.) -/
def appendSupp (s : State) (kind arg : Nat) : State :=
  let t := s.trust
  if suppRoom ≤ t.supp.length then s
  else { s with trust := ksWrote 2 { t with supp := t.supp ++ [nextSupp t kind arg], suppSeq := t.suppSeq + 1 } }

/-- A package event (R42). (Log entry 84: DESIGN CHOICE.) -/
def packageEvent (s : State) (src : Nat) : State := raiseEv s 0x0907 clsCritical src 0

/-- A hardware error tears a context down (R28, R31, R40, R41). The kind and the PC that its event reports are not stated: free values. (Log entry 81: DESIGN CHOICE.) -/
def hwFault (s : State) (c u : Nat) : State :=
  let w := (Config.freeWord s.freeCtr).toNat
  bump (raiseFault s c (w % 16) (w / 16 % 2 ^ 48) u none)

/-- A controller that is being reset does not do its repairs (R648). -/
def repairsWait (s : State) : Bool := s.flt.down1

end Sys2Proof.Machine
end

