-- ==== Sys2Proof/Machine/StackBase.lean ====
section
/-!
DEFINITION. Sys2Proof/Machine/StackBase.lean: stack-engine commands (R317 to R331): the descriptor tables' checks (R325), operands and
their ranges (R322 to R324), acceptance with the cache actions of R297, start (R326, R327), completion with those of R298 (R328).
-/

namespace Sys2Proof.Machine

/-! ## Descriptors -/

/-- An operand that a descriptor gives: its range, alignment, whether a unit-store window may hold it, whether it is read, written,
executed. `list` marks one whose length the descriptor does not give: n is one entry of it (log entry 33: DESIGN CHOICE). -/
structure Opnd where
  a     : Nat := 0
  n     : Nat := 0
  align : Nat := 1
  us    : Bool := false
  r     : Bool := true
  w     : Bool := false
  x     : Bool := false
  list  : Bool := false
  deriving DecidableEq, Repr

/-- What a descriptor says: its fields hold allowed values, and its operands, the principal one first. -/
structure Parsed where
  ok   : Bool := false
  ops  : List Opnd := []
  deriving DecidableEq, Repr

/-- Bits [63:48] of an address word are reserved. -/
def hi0 (d : List W64) (is : List Nat) : Bool := is.all (fun i => wf d i 63 48 == 0)
def zeroWords (d : List W64) (is : List Nat) : Bool := is.all (fun i => wd d i == 0)
def addr (d : List W64) (i : Nat) : Nat := wf d i 47 0
/-- A field lies in a range. -/
def within (lo hi v : Nat) : Bool := decide (lo ≤ v) && decide (v ≤ hi)

/-- Bytes of a table element (Table 8.5). -/
def tBytes (f : Nat) : Nat := if f = 0 then 4 else if f = 3 then 1 else 2
/-- The format code of a table element. -/
def tFmt (f : Nat) : Nat := if f = 0 then 0 else if f = 1 then 1 else if f = 2 then 2 else 3

/-- Log entry 33: DESIGN CHOICE. -/
def parseRun (d : List W64) : Parsed :=
  { ok := within 1 8 (wf d 0 55 52) && within 1 12 (wf d 0 51 48) && decide (wf d 0 55 52 * wf d 0 51 48 ≤ 96) && wf d 0 46 32 == 0
      && within 1 256 (wf d 1 63 55) && wf d 1 54 48 == 0 && hi0 d [2] && wd d 7 == 0
    ops := [{ a := addr d 2, n := 1, r := false }, { a := addr d 1, n := wf d 1 63 55 * 256, align := 256, r := false, x := true }] }

/-- Table rows: the range from row 0 through the last row's elements. -/
def tableLen (d : List W64) : Nat := ((wd d 2).toNat - 1) * (wf d 1 63 48 * 32) + wf d 0 47 32 * tBytes (wf d 0 55 52)
def tableOk (d : List W64) : Bool :=
  within 1 4096 (wf d 0 47 32) && decide (wf d 0 47 32 * tBytes (wf d 0 55 52) ≤ wf d 1 63 48 * 32) && within 1 (2 ^ 40) (wd d 2).toNat
  && wf d 0 48 48 == 0

/-- Log entry 33: DESIGN CHOICE. -/
def parseGather (d : List W64) : Parsed :=
  let nb := wf d 0 31 0
  { ok := tableOk d && decide (wf d 0 55 52 ≤ 3) && within 1 (2 ^ 24) nb && hi0 d [3, 4, 5, 6] && wd d 7 == 0
      && (wf d 0 51 50 == 3 || wd d 5 == 0)
    ops := [{ a := addr d 1, n := tableLen d, align := 32 }, { a := addr d 4, n := 4 * (nb + 1), us := true },
            { a := addr d 6, n := 4 * wf d 0 47 32 * nb, us := true, r := false, w := true },
            { a := addr d 3, n := if wf d 0 49 49 = 1 then 8 else 4, us := true, list := true }]
      ++ (if wf d 0 51 50 = 3 then [{ a := addr d 5, n := 4, list := true }] else []) }

def parseScatter (d : List W64) : Parsed :=
  let n := wf d 0 31 0
  { ok := tableOk d && decide (wf d 0 55 52 ≤ 1) && wf d 0 51 50 == 0 && within 1 (2 ^ 30) n && hi0 d [3, 5] && wf d 4 63 32 == 0
      && zeroWords d [6, 7]
    ops := [{ a := addr d 1, n := tableLen d, align := 32, w := true }, { a := addr d 3, n := n * (if wf d 0 49 49 = 1 then 8 else 4), us := true },
            { a := addr d 5, n := 4 * wf d 0 47 32 * n, us := true }] }

/-- Head dimension (Table 8.7). -/
def attnD (d : List W64) : Nat := 64 * 2 ^ wf d 0 47 46
def parseAttn (d : List W64) : Parsed :=
  { ok := within 1 16 (wf d 0 55 48) && decide (wf d 0 47 46 ≤ 2) && wf d 0 45 32 == 0 && within 1 65536 (wf d 0 31 0) && hi0 d [1, 2, 3]
      && zeroWords d [5, 6, 7]
    ops := [{ a := addr d 1, n := wf d 4 31 0 * 128 * attnD d, align := 4096 }, { a := addr d 2, n := 8 * wf d 4 31 0 },
            { a := addr d 3, n := 32 * wf d 0 31 0, us := true }] }

/-- A format that a matrix operand accepts (Table 3.3). -/
def operandFmt (f : Nat) : Bool := decide (f ≤ 11)
def rmField (r : Nat) : Bool := r == 0 || r == 4

def optN (d : List W64) : Nat := wf d 1 63 32 * wf d 1 31 0
def optE (d : List W64) : Nat := wf d 0 38 37
def gBytes (f : Nat) : Nat := if f = 0 then 4 else if f = 1 then 2 else 16

def emitOk (d : List W64) (e : Nat) : Bool :=
  let i := 14 + 2 * e
  if e < optE d then
    decide (wf d i 63 60 ≤ 3) && operandFmt (wf d i 59 56) && rmField (wf d i 55 53) && wf d i 52 48 == 0 && hi0 d [i + 1]
    && (isMx (wf d i 59 56) || wd d (i + 1) == 0)
  else zeroWords d [i, i + 1]

/-- The ranges of emit e: elements, and scales for an MX format. -/
def emitOps (d : List W64) (e : Nat) : List Opnd :=
  let i := 14 + 2 * e
  let f := wf d i 59 56
  { a := addr d i, n := optN d * fmtBits f / 8, align := 4096, r := false, w := true } ::
    (if isMx f then [{ a := addr d (i + 1), n := optN d / 32, align := 128, r := false, w := true }] else [])

def emitsOf (d : List W64) : List Nat := (List.range (optE d)).map id

/-- Log entry 33: DESIGN CHOICE. -/
def parseOpt (d : List W64) : Parsed :=
  let n := optN d
  let alg := wf d 0 55 52
  let gf := wf d 0 51 48
  { ok := decide (alg ≤ 2) && (gf == 0 || gf == 1 || gf == 0xE) && (if gf = 0xE then eOk (sgn 9 (wf d 0 47 39)) else wf d 0 47 39 == 0)
      && wf d 0 36 0 == 0 && wf d 1 63 32 % 64 == 0 && wf d 1 31 0 % 64 == 0 && decide (n ≤ 2 ^ 32) && hi0 d [2, 3, 4, 5, 6, 7]
      && (alg == 0 || zeroWords d [6, 7]) && (alg != 2 || wf d 9 31 0 == 0) && [0, 1, 2].all (emitOk d)
    ops := [{ a := addr d 2, n := 4 * n, w := true }, { a := addr d 3, n := gBytes gf * n },
            { a := addr d 4, n := n, align := 4096, w := true }, { a := addr d 5, n := n / 32, align := 128, w := true }]
      ++ (if alg = 0 then [{ a := addr d 6, n := n, align := 4096, w := true }, { a := addr d 7, n := n / 32, align := 128, w := true }]
          else [])
      ++ ((emitsOf d).map (emitOps d)).flatten }

/-- The matrix axis a layout's MX blocks run along: true for d_in. -/
def blockAxis (lay : Nat) : Bool := lay == 1 || lay == 3

/-- Log entry 33: DESIGN CHOICE. -/
def parseRelayout (d : List W64) : Parsed :=
  let n := optN d
  let sl := wf d 0 55 52
  let sf := wf d 0 51 48
  let dl := wf d 0 47 44
  let df := wf d 0 43 40
  let rm := wf d 0 39 37
  let scale (f i : Nat) (w : Bool) : List Opnd := if isMx f then [{ a := addr d i, n := n / 32, r := !w, w := w }] else []
  { ok := decide (sl ≤ 3) && decide (dl ≤ 3) && operandFmt sf && operandFmt df && wf d 0 36 0 == 0
      && (if sf = 0 then rmField rm else df == sf && rm == 0 && (!(isMx sf) || blockAxis sl == blockAxis dl))
      && wf d 1 63 32 % 64 == 0 && wf d 1 31 0 % 64 == 0 && decide (n ≤ 2 ^ 32) && hi0 d [2, 3, 4, 5]
      && (isMx sf || wd d 3 == 0) && (isMx df || wd d 5 == 0)
    ops := [{ a := addr d 2, n := n * fmtBits sf / 8 }] ++ scale sf 3 false
      ++ [{ a := addr d 4, n := n * fmtBits df / 8, r := false, w := true }] ++ scale df 5 true }

def parseDigest (d : List W64) : Parsed :=
  { ok := decide (wf d 0 55 54 ≤ 1) && wf d 0 53 0 == 0 && within 1 (2 ^ 30) (wd d 2).toNat && hi0 d [1, 3, 4] && zeroWords d [5, 6, 7]
      && (wf d 0 55 54 != 0 || wd d 4 == 0)
    ops := [{ a := addr d 1, n := (wd d 2).toNat, align := 128 }, { a := addr d 3, n := 32, r := false, w := true }]
      ++ (if wf d 0 55 54 = 0 then [] else [{ a := addr d 4, n := 32 }]) }

def parsePrefix (d : List W64) : Parsed :=
  let mode := wf d 0 55 54
  let n := wf d 1 31 0
  { ok := decide (mode ≤ 2) && decide (wf d 0 51 47 ≤ 28) && wf d 0 22 0 == 0 && within 1 65536 n && hi0 d [2, 3, 4, 5, 6] && wd d 7 == 0
      && (mode == 1 || wd d 6 == 0)
    ops := [{ a := addr d 2, n := 256 * 2 ^ wf d 0 51 47, align := 256, w := mode == 1 || (mode == 0 && wf d 0 53 53 == 1) },
            { a := addr d 3, n := 256 * n, us := true }, { a := addr d 5, n := 32 * n, us := true, r := false, w := true }]
      ++ (if wf d 0 52 52 = 0 then [{ a := addr d 4, n := 16 }] else [])
      ++ (if mode = 1 then [{ a := addr d 6, n := 16 * n, us := true }] else []) }

/-- Log entry 32: DESIGN CHOICE. -/
def parseSe (op : Nat) (d : List W64) : Parsed :=
  let p := match op with
    | 0 => parseRun d
    | 1 => parseGather d
    | 2 => parseScatter d
    | 3 => parseAttn d
    | 4 => parseOpt d
    | 5 => parseRelayout d
    | 6 => parseDigest d
    | _ => parsePrefix d
  { p with ok := p.ok && wf d 0 63 56 == op && p.ops.all (fun o => o.a % o.align == 0) }

/-! ## Operands -/

/-- R208 with S, for each use of the operand. -/
def opndOk (s : State) (x : Ctx) (o : Opnd) : Bool :=
  ctxOk s x (fun e => e.s && (!o.r || e.r) && (!o.w || e.w) && (!o.x || e.x)) o.a o.n

/-- R323: the operand lies on one of the stacks, or, where its table allows, in a unit-store window. (Log entry 116: DESIGN CHOICE.) -/
def opndOn (x : Ctx) (sts : List Nat) (o : Opnd) : Bool :=
  (devPieces x o.a o.n).all (fun p =>
    if isUs p.1 then o.us else isHbm p.1 && sts.contains (stackOf p.1) && stackOf (p.1 + p.2 - 1) == stackOf p.1)

/-- The engines that run a command (R322): the stack of the principal operand's stack-local extent; for `se.run` also each stack of
a striped one. -/
def enginesOf (x : Ctx) (op : Nat) (o : Opnd) : List Nat :=
  match findExt x o.a with
  | none => []
  | some e =>
    if e.kind = 2 then bitList 24 e.stackSet
    else if e.kind = 3 ∧ op = 0 then bitList 24 e.stackSet else []

/-- The operands that R323 places, all of them but what only selects the engines of an `se.run`. The code of an `se.run` over a stripe lies
on the stacks of the stripe. (Log entry 33: DESIGN CHOICE.) -/
def placed (op : Nat) (ops : List Opnd) : List Opnd := if op = 0 then ops.drop 1 else ops

/-- The device range of a list whose length the descriptor does not give: on to the end of its extent on that stack. -/
def listRange (x : Ctx) (a : Nat) : List (Nat × Nat) :=
  match findExt x a with
  | none => []
  | some e => [(extDev e a, if e.kind == 3 then 4096 - a % 4096 else extEnd e - a)]

/-- Device ranges that operands of a kind take. -/
def opRanges (x : Ctx) (ops : List Opnd) (ok : Opnd → Bool) : List (Nat × Nat) :=
  ((ops.filter ok).map (fun o => if o.list then listRange x o.a else devPieces x o.a o.n)).flatten

/-! ## Acceptance -/

/-- Whether the SQ entry has been accepted by an engine. (Log entry 32: DESIGN CHOICE.) -/
def seAccepted (s : State) (u c seq : Nat) : Bool :=
  s.se.any (fun p => p.2.cmds.any (fun m => !m.stream && m.ctx == some c && m.unit == u && m.ent.seq == seq))

/-- The SQ entry at the head: the first not accepted; a mark holds what is behind it. -/
def sqHead (s : State) (u c : Nat) (k : Core) : Option QEnt :=
  match k.sq.find? (fun e => !(seAccepted s u c e.seq)) with
  | none => none
  | some e => if e.mark then none else some e

def descLen (op : Nat) : Nat := if op = 4 then 160 else 64

/-- A command refused under R325: a queue-protocol fault, counted at the engine of its principal operand where there is one. (Log entry 32: DESIGN CHOICE.) -/
def refuseSe (s : State) (t : Hart) (e : QEnt) (engines : List Nat) : State :=
  let s1 := match engines with
    | [st] => updSe s st (fun y => { y with refused := y.refused + 1 })
    | _ => s
  faultEnt s1 t fQueue e

/-- For each emit of an `se.opt`, whether it is performed, and whether any set emit is (R462). -/
def emitChoice (s : State) (x : Ctx) (d : List W64) : List (Bool × Bool) :=
  (emitsOf d).map (fun e => match (emitOps d e).head? with
    | none => (true, false)
    | some o => match devPieces x o.a o.n with
      | [] => (true, false)
      | p :: _ => emitPerformed s x.part (p.1, o.n))

/-- The operands of an `se.opt` without those of emits it skips. -/
def keptOps (op : Nat) (d : List W64) (choice : List (Bool × Bool)) (ops : List Opnd) : List Opnd :=
  if op = 4 then
    let skip := (((emitsOf d).zip choice).filter (fun p => !p.2.1)).map (fun p => emitOps d p.1)
    ops.filter (fun o => !(skip.flatten.contains o))
  else ops

def seWeights (op : Nat) : Bool := op == 2 || op == 4 || op == 5

/-- An accepted command at each of its engines, after the cache actions of R297. -/
def placeSe (s : State) (x : Ctx) (u c op : Nat) (e : QEnt) (d : List W64) (engines : List Nat) (ops : List Opnd)
    (choice : List (Bool × Bool)) : State :=
  let rd := opRanges x ops (fun o => o.r || o.x)
  let wr := opRanges x ops (fun o => o.w)
  let s1 := slicesWrite (slicesRead s rd) wr
  engines.foldl (fun s st => updSe s st (fun y => { y with cmds := y.cmds ++
    [{ ctx := some c, unit := u, ent := e, op := op, desc := d, rd := rd, wr := wr,
       emits := choice.map (·.1), setEmit := choice.any (fun p => p.1 && p.2) }] })) s1

/-- The lines that R298 writes back: the dirty ones in a set of ranges. -/
def conflictLines (s : State) (wr : List (Nat × Nat)) : List Nat :=
  (s.lines.filter (fun p => p.2.dirty && wr.any (fun r => decide (r.1 < p.1 * 128 + 128) && decide (p.1 * 128 < r.1 + r.2)))).map (·.1)

/-- An SQ entry that a window of its partition held and that still waits. (Log entry 103: DESIGN CHOICE.) -/
def heldStill (s : State) (p : Nat × Nat × Nat) : Bool :=
  live s p.2.1 && (resOf s p.1 p.2.1).any (fun r => r.core.sq.any (fun e => e.seq == p.2.2)) && !(seAccepted s p.1 p.2.1 p.2.2)

/-- A weight-writing entry waits: the window of its partition holds it, or, after the window has closed, an entry held before it still
waits (R445). (Log entry 103: DESIGN CHOICE.) -/
def evalWaits (s : State) (part u c seq : Nat) : Bool :=
  evalHolds s part c || (let l := (evalOf s part).heldSq.filter (heldStill s); l.contains (u, c, seq) && l.head? != some (u, c, seq))

/-- The window holds an entry from now on. (Log entry 103: DESIGN CHOICE.) -/
def evalNotes (s : State) (part u c seq : Nat) : State :=
  if evalHolds s part c && !((evalOf s part).heldSq.contains (u, c, seq)) then
    { s with eval := Tbl.put s.eval part { evalOf s part with heldSq := (evalOf s part).heldSq ++ [(u, c, seq)] } }
  else s

/-- Carries out acceptance of an SQ entry, or leaves it waiting at the head (R321 to R327, R445, R452, R505), also while a dirty line of its
ranges cannot go back (R297, R316). (Log entry 32: DESIGN CHOICE.) -/
def acceptSe (s : State) (t : Hart) (u c : Nat) (k : Core) (x : Ctx) (e : QEnt) : State :=
  let op := iOp e.w
  let off := (cap e (iQA e.w)).toNat
  let n := descLen op
  if seWeights op && evalWaits s x.part u c e.seq then evalNotes s x.part u c e.seq
  else if off % 32 ≠ 0 ∨ shareSize x < off + n then faultEnt s t fExtent e
  else if rawPoison s (shareAddr x u off) n then faultEnt s t fPoison e
  else
    let d := leWords (n / 8) (memBytes s (shareAddr x u off) n)
    let p := parseSe op d
    let engines := match p.ops with
      | [] => []
      | o :: _ => enginesOf x op o
    if !p.ok then refuseSe s t e engines
    else if p.ops.any (fun o => touchesRick x o.a o.n) then refuseSe s t e engines
    else if !(p.ops.all (opndOk s x)) then faultEnt s t fExtent e
    else if engines.isEmpty || !((placed op p.ops).all (opndOn x engines)) then refuseSe s t e engines
    else
      let choice := if op = 4 then emitChoice s x d else []
      let ops := keptOps op d choice p.ops
      let wr := opRanges x ops (fun o => o.w)
      let dirty := conflictLines s (opRanges x ops (fun _ => true))
      if engines.any (engineFull s) || (liveSetMeets s wr).isSome || (adpMeets s wr).isSome || dirty.any (fun l => stackWaits s (l * 128)) then s
      else
        placeSe (setHartCore s t { k with sqHeld := false }) x u c op e d engines ops choice

def execSeCommandAccept (h : Nat) (s : State) : Out :=
  .next (withHart s h fun t k x =>
    match t with
    | .inst _ _ => s
    | .res u c =>
      if !(issues s t) then s
      else match sqHead s u c k with
        | none => s
        | some e => if iClass e.w == 8 then acceptSe s t u c k x e else s)

/-- The set or adapter that holds back the head of a context's SQ, as the event of R452 names it. -/
def heldBy (s : State) (u c : Nat) (k : Core) (x : Ctx) : Option Nat :=
  match sqHead s u c k with
  | none => none
  | some e =>
    let op := iOp e.w
    let off := (cap e (iQA e.w)).toNat
    let d := leWords (descLen op / 8) (memBytes s (shareAddr x u off) (descLen op))
    let p := parseSe op d
    let wr := opRanges x (keptOps op d (if op = 4 then emitChoice s x d else []) p.ops) (fun o => o.w)
    if iClass e.w == 8 && p.ok then
      (match liveSetMeets s wr with
       | some n => some n
       | none => (adpMeets s wr).map (fun a => 2 ^ 63 + a))
    else none

/-- A write has been held for 10 ms: the event of R452 and R505, once per wait. -/
def execSetWriteHeld (h : Nat) (s : State) : Out :=
  .next (withHart s h fun t k x =>
    match t with
    | .inst _ _ => s
    | .res u c =>
      match heldBy s u c k x with
      | none => s
      | some n =>
        if k.sqHeld then s
        else raiseEv (setHartCore s t { k with sqHeld := true }) 0x0109 clsWarning (argC c) n)

/-! ## Start (R320, R326, R327, R331) -/

def runningN (y : SeSt) : Nat := (y.cmds.filter (·.running)).length
/-- Two commands of one SQ; a stream is a mover's (R385). -/
def sameSq (a b : SeCmd) : Bool := !a.stream && !b.stream && a.ctx == b.ctx && a.unit == b.unit && a.job == b.job
/-- One of the commands writes a byte the other reads or writes (R326). -/
def clash (a b : SeCmd) : Bool := overlaps a.wr (b.rd ++ b.wr) || overlaps b.wr a.rd

def activeInsts (y : SeSt) : Nat := (y.inst.filter (fun p => p.2.active)).length
def usedUnits (y : SeSt) : Nat := ((y.inst.filter (fun p => p.2.active)).map (fun p => p.2.share / 65536)).foldl (· + ·) 0
/-- Groups reserved by stack programs that have started and not yet launched. -/
def reservedInsts (y : SeSt) : Nat :=
  ((y.cmds.filter (fun m => m.running && m.op == 0 && !m.done && !m.stream)).map (fun m => wf m.desc 0 55 52)).foldl (· + ·) 0
def reservedUnits (y : SeSt) : Nat :=
  ((y.cmds.filter (fun m => m.running && m.op == 0 && !m.done && !m.stream)).map (fun m => wf m.desc 0 55 52 * wf m.desc 0 51 48)).foldl (· + ·) 0
def attnRuns (y : SeSt) : Bool := y.cmds.any (fun m => m.running && m.op == 3 && !m.stream)

/-- The vector groups, shares and the matrix block the command holds are free (R327, R334). -/
def resourcesFree (y : SeSt) (m : SeCmd) : Bool :=
  if m.stream then true
  else if m.op = 0 then
    !(attnRuns y) && decide (activeInsts y + reservedInsts y + wf m.desc 0 55 52 ≤ 8)
    && decide (usedUnits y + reservedUnits y + wf m.desc 0 55 52 * wf m.desc 0 51 48 ≤ 96)
  else if m.op = 3 then !(attnRuns y) && activeInsts y + reservedInsts y == 0
  else true

/-- A stack that serves requests: not held, failed or asleep, and with no bank under repair. -/
def stackServes (y : SeSt) : Bool := !y.held && !y.failed && !y.selfRef && y.blocked.isEmpty

/-- What the k-th command needs to start is free, and its SQ's order lets it (R326). -/
def canStart (y : SeSt) (k : Nat) (m : SeCmd) : Bool :=
  !m.running && !m.done && stackServes y && decide (runningN y < 4) && resourcesFree y m
  && (y.cmds.take k).all (fun e => m.job.isSome || !(sameSq e m) || (e.running && !(clash e m)))

/-- Of the commands that can start, the first to arrive starts (R327). -/
def mayStart (y : SeSt) (k : Nat) (m : SeCmd) : Bool :=
  canStart y k m && (y.cmds.take k).zipIdx.all (fun p => !(canStart y p.2 p.1))

def setCmd (s : State) (st k : Nat) (m : SeCmd) : State := updSe s st (fun y => { y with cmds := y.cmds.set k m })

def execSeCommandStart (st k : Nat) (s : State) : Out :=
  .next (let y := seOf s st
    match y.cmds[k]? with
    | none => s
    | some m =>
      if mayStart y k m then
        updSe (setCmd s st k { m with running := true, start := s.time.now }) st (fun z =>
          if runningN y = 0 then { z with busyFrom := s.time.now } else z)
      else s)

/-- Takes a command off its engine. -/
def removeCmd (s : State) (st k : Nat) : State := updSe s st (fun y => withCmds s.time.now y (y.cmds.eraseIdx k))

/-! ## What an engine reads and writes -/

/-- An engine at work on a command: the state, the command's context (4096: the host's), its stack, the fault it met, its counts and
flags. -/
structure Eng where
  s     : State
  c     : Nat := 4096
  x     : Ctx
  st    : Nat
  fault : Option Nat := none
  cnt   : Nat := 0
  fl    : Flags := 0

def engFail (g : Eng) (f : Nat) : Eng := if g.fault.isSome then g else { g with fault := some f }

/-- A range passes R324 for the engine: S with the permission, on its stack or, with `us`, in a unit-store window. -/
def engOk (g : Eng) (us : Bool) (ok : Extent → Bool) (a n : Nat) : Bool :=
  ctxOk g.s g.x (fun e => e.s && ok e) a n && (devPieces g.x a n).all (fun p =>
    if isUs p.1 then us else isHbm p.1 && stackOf p.1 == g.st && stackOf (p.1 + p.2 - 1) == g.st)

/-- The engine checks a range as it comes to use it (R324); none of it may lie in the rick (R424). -/
def engCheck (g : Eng) (us : Bool) (ok : Extent → Bool) (a n : Nat) : Eng :=
  if touchesRick g.x a n then engFail g fQueue
  else if !(engOk g us ok a n) then engFail g fExtent
  else g

/-- Log entry 34: DESIGN CHOICE. -/
def engReadOn (us : Bool) (g : Eng) (a n : Nat) : Eng × List Byte :=
  let g := engCheck g us (·.r) a n
  if g.fault.isSome then (g, zeros n)
  else
    let ps := devPieces g.x a n
    let r := readPieces g.s true ps 0 none
    if r.2.2 then
      let own := (ps.map (poisonOwners r.1 g.c)).flatten
      let s1 := own.foldl (fun s p => bump (raiseFault s p.1 fPoison ((Config.freeWord s.freeCtr).toNat % 2 ^ 48) p.2 none)) r.1
      (engFail { g with s := s1 } fPoison, zeros n)
    else ({ g with s := r.1 }, r.2.1)

/-- A read of an operand that HBM or a unit-store window may hold. (Log entry 34: DESIGN CHOICE.) -/
def engRead (g : Eng) (a n : Nat) : Eng × List Byte := engReadOn true g a n

/-- A read of an operand that HBM alone may hold (R323). -/
def engReadHbm (g : Eng) (a n : Nat) : Eng × List Byte := engReadOn false g a n

/-- Log entry 34: DESIGN CHOICE. -/
def engWrite (g : Eng) (a : Nat) (bs : List Byte) : Eng :=
  let g := engCheck g true (·.w) a bs.length
  if g.fault.isSome then g
  else
    let r := writePieces g.s true (devPieces g.x a bs.length) bs 0 none
    if r.2 then engFail { g with s := r.1 } fPoison else { g with s := r.1 }

def engNat (g : Eng) (a n : Nat) : Eng × Nat := let r := engRead g a n; (r.1, leNat r.2)

/-- FP32 operations of an engine: flags collect in the command (R328). -/
def eFl (g : Eng) (r : Nat × Flags) : Eng × Nat := ({ g with fl := g.fl ||| r.2 }, r.1)

/-- The command ends its work: a fault stops it and leaves the engine (R324, R330), otherwise it is done. (Log entries 34: DESIGN CHOICE, 39: DESIGN CHOICE.) -/
def endWork (g : Eng) (st k : Nat) (m : SeCmd) (code detail : Nat) : State :=
  match g.fault with
  | some f =>
    let s1 := removeCmd g.s st k
    (match m.ctx with
     | none => (match m.job with
       | none => s1
       | some j => finishJob s1 j 2 0 0)
     | some c => raiseFaultAt s1 c f m.ent.pc.toNat m.unit none (some m.ent.seq))
  | none => setCmd g.s st k { m with done := true, code := code, detail := detail, flags := m.flags ||| g.fl }

/-- The host's commands give device addresses (Table 15.3): one extent that maps every address to itself. -/
def hostView : Ctx := { extents := [{ kind := 1, r := true, w := true, x := true, a := true, s := true, size := 2 ^ 36 }] }

/-- The k-th command of stack st, running, not yet done, of the given operation. -/
def withCmd (s : State) (st k op : Nat) (f : SeCmd → Eng → State) : State :=
  match (seOf s st).cmds[k]? with
  | none => s
  | some m =>
    if m.running && !m.done && !m.stream && m.op == op && stackServes (seOf s st) then
      match m.ctx with
      | none => f m { s := s, x := hostView, st := st }
      | some c =>
        match ctxOf s c with
        | none => s
        | some x => f m { s := s, c := c, x := x, st := st }
    else s

/-! ## Completion (R298, R328) -/

/-- R298: dirty lines of the write ranges go back over the engine's data and stay clean; clean ones are invalidated. -/
def slicesEnd (s : State) (wr : List (Nat × Nat)) : State :=
  let ls := conflictLines s wr
  let s1 := wr.foldl (fun s r => dropClean s r.1 r.2) s
  ls.foldl (fun s k => match lineOf s k with
    | none => s
    | some l =>
      let s2 := writeBack s k l
      updSc { s2 with lines := Tbl.put s2.lines k { l with dirty := false } } (homeRegion (k * 128))
        (fun y => { y with seConf := y.seConf + 1 })) s1

/-- Other engines still at work on the same `se.run`. -/
def sameRun (s : State) (m : SeCmd) : Bool :=
  s.se.any (fun p => p.2.cmds.any (fun e => !e.stream && e.ctx == m.ctx && e.unit == m.unit && e.ent.seq == m.ent.seq && e.job == m.job))

/-- The engines that still work on an `se.run` take over its outcome. -/
def mergeRun (s : State) (m : SeCmd) : State :=
  { s with se := s.se.map (fun p => (p.1, { p.2 with cmds := p.2.cmds.map (fun e =>
      if !e.stream && e.ctx == m.ctx && e.unit == m.unit && e.ent.seq == m.ent.seq && e.job == m.job then
        { e with code := max e.code m.code, detail := e.detail ||| m.detail, flags := e.flags ||| m.flags } else e) })) }

/-- The SQ entry completes: status, flags, the queue entry freed (R328, R191). -/
def finishSq (s : State) (c u : Nat) (e : QEnt) (f : Flags) (v : W64) : State :=
  if !(live s c) then s
  else match resOf s u c with
    | none => s
    | some r =>
      let k1 := orSticky (doneEnt (dropEnt r.core 12 e.seq) e.seq) f
      setRes s u c { r with core := if iQD e.w = 0 then k1 else gDeliver k1 (iQD e.w) e.seq v }

/-- Instances of a stack program that have not ended. -/
def instsLeft (y : SeSt) (m : SeCmd) : Bool :=
  y.inst.any (fun p => p.2.active && m.ctx == some p.2.ctx && p.2.unit == m.unit && p.2.seq == m.ent.seq)

/-- DETAIL of a command (Table 8.2). -/
def seDetail (s : State) (m : SeCmd) : Nat :=
  if m.op = 0 ∧ m.code = 0 then (s.time.now - m.start).toNat / 16 else m.detail

/-- Log entry 76: DESIGN CHOICE. -/
def completeSe (s : State) (st k : Nat) (m : SeCmd) : State :=
  let ls := conflictLines s m.wr
  let s1 := slicesEnd s m.wr
  let s2 := updSe (removeCmd s1 st k) st (fun y => { y with
    cmdsDone := y.cmdsDone + 1
    conflicts := if ls.isEmpty then y.conflicts else y.conflicts + 1 })
  let s3 := if ls.isEmpty then s2 else raiseEv s2 0x0207 clsWarning ((m.ctx.map argC).getD 0 + st) ls.length
  let s4 := if m.setEmit then (match m.ctx with
      | none => s3
      | some c => match ctxPart s3 c with
        | none => s3
        | some p => emitCounted s3 p) else s3
  if m.op = 0 ∧ sameRun s4 m then mergeRun s4 m
  else match m.job with
    | some j => finishJob s4 j m.code 0 (BitVec.ofNat 64 (seDetail s m * 2 ^ 16))
    | none => match m.ctx with
      | none => s4
      | some c => finishSq s4 c m.unit m.ent m.flags (statusWord m.code (seDetail s m))

/-- The k-th command of a stack completes once its work is done and, for a stack program, every instance has ended, while the stack
serves (R331). -/
def execSeCommandComplete (st k : Nat) (s : State) : Out :=
  .next (match (seOf s st).cmds[k]? with
    | none => s
    | some m =>
      if m.done && !m.stream && stackServes (seOf s st) && !(m.op == 0 && instsLeft (seOf s st) m) then completeSe s st k m else s)

end Sys2Proof.Machine
end

