-- ==== Sys2Proof/Machine/StackKernels.lean ====
section
/-!
DEFINITION. Sys2Proof/Machine/StackKernels.lean: the built-in stack-engine commands: gather-and-pool and scatter (R340 to R344),
decode attention (R345 to R347), the optimizer step with fused emit (R349 to R353), re-layout (R355, R447, R448), digests (R356) and
the prefix table (R493 to R498). Each computes in the fixed order of its rule (R332).
-/

namespace Sys2Proof.Machine

/-! ## FP32 values that carry the flags raised on the way to them -/

abbrev F32 := Nat × Flags

def fN (x : F32) : Num := fpDecode fp32 x.1
def fOf (x y : Flags) (r : Nat × Flags) : F32 := (r.1, x ||| y ||| r.2)
def xAdd (a b : F32) : F32 := fOf a.2 b.2 (fpAdd fp32 rmRNE a.1 b.1)
def xSub (a b : F32) : F32 := fOf a.2 b.2 (fpSub fp32 rmRNE a.1 b.1)
def xMul (a b : F32) : F32 := fOf a.2 b.2 (fpMul fp32 rmRNE a.1 b.1)
def xFma (a b c : F32) : F32 := fOf (a.2 ||| b.2) c.2 (fpFma fp32 rmRNE a.1 b.1 c.1)
def xDiv (a b : F32) : F32 := fOf a.2 b.2 (fpDiv fp32 rmRNE a.1 b.1)
def xSqrt (a : F32) : F32 := fOf a.2 0 (fpSqrt fp32 rmRNE a.1)
def xMax (a b : F32) : F32 := (fpMaxOp fp32 a.1 b.1, a.2 ||| b.2)
def xExp2 (a : F32) : F32 := fOf a.2 0 (tExp2 a.1)
def xLog2 (a : F32) : F32 := fOf a.2 0 (tLog2 a.1)
/-- A product with an exact value, rounded once. -/
def xMulN (a : F32) (x : Num) : F32 := fOf a.2 0 (fpDeliver fp32 rmRNE (numMul (fN a) x))
/-- fma(a, x, c) with an exact x. -/
def xFmaN (a : F32) (x : Num) (c : F32) : F32 := fOf a.2 c.2 (fpDeliver fp32 rmRNE (numAdd rmRNE (numMul (fN a) x) (fN c)))
def xNeg (a : F32) : F32 := ((a.1 + 2 ^ 31) % 2 ^ 32, a.2)
def f32c (c : Nat) : F32 := (c, 0)
def f32One : F32 := f32c 0x3F800000
def f32Zero : F32 := f32c 0
def f32NegInf : F32 := f32c 0xFF800000
/-- Log entry 39: DESIGN CHOICE. -/
def flagsOf (l : List F32) : Flags := l.foldl (fun f x => f ||| x.2) 0

/-- Division by a positive integer, exactly rounded (R341). -/
def xDivNat (a : F32) (n : Nat) : F32 :=
  match fN a with
  | .fin neg m e =>
    if m = 0 ∨ n = 0 then a
    else
      let big := m * 2 ^ 96
      let q := big / n
      fOf a.2 0 (if big % n = 0 then fpRound fp32 rmRNE false 0 neg q (e - 96) else fpRound fp32 rmRNE false 0 neg (jam q) (e - 97))
  | x => fOf a.2 0 (fpDeliver fp32 rmRNE x)

/-- The FP32 values of a list of bytes. -/
def f32List : Nat → List Byte → List F32
  | 0, _ => []
  | n + 1, l => f32c (leNat (l.take 4)) :: f32List n (l.drop 4)

def f32Bytes (l : List F32) : List Byte := l.flatMap (fun x => leBytes 4 x.1)

/-- The codes of elements of w bits packed in a list of bytes. -/
def packedCodes (w n : Nat) (l : List Byte) : List Nat :=
  let x := leNat l
  (List.range n).map (packGet w x)

/-! ## Gather, pool and sparse update -/

/-- A table element, widened to FP32 exactly (R341). -/
def widen (tf c : Nat) : F32 := if tf = 0 then f32c c else fpConv fp32 rmRNE false 0 (fpDecode (elemFmt (tFmt tf)) c)

def rowAddr (d : List W64) (r : Nat) : Nat := addr d 1 + r * (wf d 1 63 48 * 32)

/-- The D elements of a table row. -/
def tableRow (g : Eng) (d : List W64) (r : Nat) : Eng × List F32 :=
  let tf := wf d 0 55 52
  let n := wf d 0 47 32
  let y := engRead g (rowAddr d r) (n * tBytes tf)
  (y.1, (packedCodes (8 * tBytes tf) n y.2).map (widen tf))

/-- Entry i of an index list. -/
def indexAt (g : Eng) (d : List W64) (base i : Nat) : Eng × Nat :=
  let w := if wf d 0 49 49 = 1 then 8 else 4
  engNat g (base + i * w) w

/-- A bag under way: the engine, the accumulators and the rows taken. -/
abbrev BagSt := Eng × List F32 × Nat

def poolStep (d : List W64) (b : BagSt) (i : Nat) : BagSt :=
  if b.1.fault.isSome then b
  else
    let ix := indexAt b.1 d (addr d 3) i
    if ix.1.fault.isSome then (ix.1, b.2)
    else if (wd d 2).toNat ≤ ix.2 then ({ ix.1 with cnt := ix.1.cnt + 1 }, b.2)
    else
      let row := tableRow ix.1 d ix.2
      let wt := if wf d 0 51 50 = 3 then (let y := engReadHbm row.1 (addr d 5 + 4 * i) 4; (y.1, leNat y.2)) else (row.1, 0)
      let acc := (b.2.1.zip row.2).map (fun p =>
        if wf d 0 51 50 = 2 then xMax p.1 p.2
        else if wf d 0 51 50 = 3 then xFma (f32c wt.2) p.2 p.1
        else xAdd p.1 p.2)
      (wt.1, acc, b.2.2 + 1)

/-- One bag (R341). -/
def poolBag (d : List W64) (g : Eng) (b : Nat) : Eng :=
  if g.fault.isSome then g
  else
    let off := engRead g (addr d 4 + 4 * b) 8
    let lo := leNat (off.2.take 4)
    let hi := leNat (off.2.drop 4)
    let start := if wf d 0 51 50 = 2 then f32NegInf else f32Zero
    let r := ((List.range (hi - lo)).map (fun j => lo + j)).foldl (poolStep d)
      (off.1, List.replicate (wf d 0 47 32) start, 0)
    let out := if r.2.2 = 0 then r.2.1.map (fun _ => f32Zero)
      else if wf d 0 51 50 = 1 then r.2.1.map (fun x => xDivNat x r.2.2) else r.2.1
    let g1 := { r.1 with fl := r.1.fl ||| flagsOf out }
    engWrite g1 (addr d 6 + 4 * wf d 0 47 32 * b) (f32Bytes out)

/-- CODE 0x01 with the count where anything was skipped (Table 8.2). -/
def endCounted (g : Eng) (st k : Nat) (m : SeCmd) : State := endWork g st k m (if g.cnt = 0 then 0 else 1) g.cnt

def execSeGather (st k : Nat) (s : State) : Out :=
  .next (withCmd s st k 1 fun m g =>
    endCounted ((List.range (wf m.desc 0 31 0)).foldl (poolBag m.desc) g) st k m)

/-- One index of a scatter (R344). -/
def scatterStep (d : List W64) (g : Eng) (i : Nat) : Eng :=
  if g.fault.isSome then g
  else
    let n := wf d 0 47 32
    let tf := wf d 0 55 52
    let ix := indexAt g d (addr d 3) i
    if ix.1.fault.isSome then ix.1
    else if (wd d 2).toNat ≤ ix.2 then { ix.1 with cnt := ix.1.cnt + 1 }
    else
      let gr := engRead ix.1 (addr d 5 + 4 * n * i) (4 * n)
      let row := tableRow gr.1 d ix.2
      let new := (row.2.zip (f32List n gr.2)).map (fun p =>
        let y := xFma (f32c (wf d 4 31 0)) p.2 p.1
        if tf = 0 then y else fOf y.2 0 (fpConv (elemFmt (tFmt tf)) rmRNE false 0 (fN y)))
      engWrite { row.1 with fl := row.1.fl ||| flagsOf new } (rowAddr d ix.2) (new.flatMap (fun x => leBytes (tBytes tf) x.1))

def execSeScatter (st k : Nat) (s : State) : Out :=
  .next (withCmd s st k 2 fun m g =>
    endCounted ((List.range (wf m.desc 0 31 0)).foldl (scatterStep m.desc) g) st k m)

/-! ## Decode attention -/

/-- An E4M3 dot product on the matrix block: from +0, one pair at a time (R75, R336). -/
def blockDot (prs : List (Nat × Nat)) : F32 :=
  let c := prs.foldl (fun c p => cellAdd c (pairNum 3 3 p.1 p.2)) ({} : Cell)
  (c.acc.toNat, (if c.sat then flAOVF else 0) ||| (if c.nan then flAINV else 0))

/-- A value to E4M3, RNE. -/
def toE4m3 (x : Num) : Nat × Flags := fpConv e4m3 rmRNE false 0 x

def numScale (x : Num) (k : Int) : Num :=
  match x with
  | .fin neg m e => .fin neg m (e + k)
  | y => y

/-- What one head carries from page to page. -/
structure HeadSt where
  q8 : List Nat := []
  qs : Int := 0
  m  : F32 := f32NegInf
  l  : F32 := f32Zero
  o  : List F32 := []
  deriving DecidableEq, Repr

/-- A head at the start of an item: its queries quantised against their own power of two (R347, R66). -/
def startHead (q : List F32) : HeadSt × Flags :=
  let vs := q.map fN
  let qs : Int := if vs.all isZero then 0 else (mxScale 5 vs : Int) - 127
  let r := vs.map (fun x => toE4m3 (numScale x (-qs)))
  ({ q8 := r.map (·.1), qs := qs, o := q.map (fun _ => f32Zero) }, r.foldl (fun f x => f ||| x.2) 0)

/-- One page for one head: `ks` and `vs` are the valid tokens' rows (R347). -/
def headPage (c0 f : F32) (ks vs : List (List Nat)) (h : HeadSt) : HeadSt :=
  let c := xMulN c0 (.fin false 1 h.qs)
  let sc := ks.map (fun k8 => xMul (blockDot (h.q8.zip k8)) c)
  let mp := sc.foldl xMax h.m
  let a := if h.m.1 = f32NegInf.1 then (0, h.m.2) else xExp2 (xSub h.m mp)
  let p8 := sc.map (fun x =>
    let y := xMulN (xExp2 (xSub x mp)) (.fin false 1 8)
    fOf y.2 0 (toE4m3 (fN y)))
  let ps := p8.foldl (fun acc p => xAdd acc (fOf p.2 0 (fpDeliver fp32 rmRNE (numScale (fpDecode e4m3 p.1) (-8))))) f32Zero
  let pv := (List.range h.o.length).map (fun d => blockDot ((p8.zip vs).map (fun q => (q.1.1, q.2.getD d 0))))
  { h with
    l := xFma h.l a ps
    o := (h.o.zip pv).map (fun q => xFma q.2 f (xMul q.1 a))
    m := (mp.1, mp.2 ||| flagsOf p8) }

/-- The 64 rows of D bytes of half a page. -/
def pageRows (d : Nat) (bs : List Byte) : List (List Nat) :=
  (List.range 64).map (fun t => ((bs.drop (t * d)).take d).map (·.toNat))

/-- An item under way: the engine and its heads. -/
abbrev ItemSt := Eng × List HeadSt

/-- One page of an item (R346, R347): place j in the list, page number pg. -/
def itemPage (w : List W64) (ntok : Nat) (x : ItemSt) (p : Nat × Nat) : ItemSt :=
  if x.1.fault.isSome then x
  else
    let d := attnD w
    let pg := engRead x.1 (addr w 1 + p.2 * 128 * d) (128 * d)
    let sc := engRead pg.1 (addr w 2 + 8 * p.2) 8
    let n := min 64 (ntok - 64 * p.1)
    let ks := (pageRows d pg.2).take n
    let vs := (pageRows d (pg.2.drop (64 * d))).take n
    let c0 := xMul (xMul (f32c (leNat (sc.2.take 4))) (f32c (wf w 4 63 32))) (f32c 0x3FB8AA3B)
    let f := xMulN (f32c (leNat (sc.2.drop 4))) (.fin false 1 (-8))
    (sc.1, x.2.map (headPage c0 f ks vs))

/-- Splits a list into n pieces of k. -/
def chunks {α : Type} (k : Nat) : Nat → List α → List (List α)
  | 0, _ => []
  | n + 1, l => l.take k :: chunks k n (l.drop k)

/-- One item (R345 to R347), whose addresses are checked as it is read (R324) and lie in HBM (R323). An item's reserved bits and NTOK out of
range break R325 where the engine reads them. (Log entry 37: DESIGN CHOICE.) -/
def attnItem (w : List W64) (g : Eng) (i : Nat) : Eng :=
  if g.fault.isSome then g
  else
    let it := engRead g (addr w 3 + 32 * i) 32
    let ws := leWords 4 it.2
    let ntok := wf ws 3 31 0
    let heads := wf w 0 55 48
    let d := attnD w
    if it.1.fault.isSome then it.1
    else if !(hi0 ws [0, 1, 2]) || wf ws 3 63 32 != 0 || !(within 1 (2 ^ 24) ntok) then engFail it.1 fQueue
    else
      let np := (ntok + 63) / 64
      let ck := engCheck (engCheck it.1 false (·.r) (addr ws 0) (heads * d * 4)) false (·.w) (addr ws 1) (heads * (d + 1) * 4)
      let pl := engReadHbm ck (addr ws 2) (4 * np)
      let pages := packedCodes 32 np pl.2
      if pl.1.fault.isSome then pl.1
      else if pages.any (fun p => decide (wf w 4 31 0 ≤ p)) then { pl.1 with cnt := pl.1.cnt + 1 }
      else
        let q := engReadHbm pl.1 (addr ws 0) (heads * d * 4)
        let hs := (chunks d heads (f32List (heads * d) q.2)).map startHead
        let g1 := { q.1 with fl := hs.foldl (fun f h => f ||| h.2) q.1.fl }
        let r := pages.zipIdx.foldl (fun x p => itemPage w ntok x (p.2, p.1)) (g1, hs.map (·.1))
        let out := r.2.map (fun h => h.o.map (fun x => xDiv x h.l))
        let lse := r.2.map (fun h => xAdd h.m (xLog2 h.l))
        let all := out.flatten ++ lse
        if r.1.fault.isSome then r.1
        else engWrite { r.1 with fl := r.1.fl ||| flagsOf all } (addr ws 1) (f32Bytes all)

/-- Log entry 37: DESIGN CHOICE. -/
def execSeAttn (st k : Nat) (s : State) : Out :=
  .next (withCmd s st k 3 fun m g =>
    endCounted ((List.range (wf m.desc 0 31 0)).foldl (attnItem m.desc) g) st k m)

/-! ## Layouts (R134, R135, R447, R448) -/

/-- The element (a, c) at place e of a copy. -/
def layElem (lay din dout e : Nat) : Nat × Nat :=
  match lay with
  | 1 => (e / 64 % din, e / (64 * din) * 64 + e % 64)
  | 2 => (e / (64 * dout) * 64 + e % 64, e / 64 % dout)
  | 3 =>
    let p := e / (192 * din)
    let n := min 3 (dout / 64 - 3 * p)
    let j := (e - p * 192 * din) / 64
    (j / n, (3 * p + j % n) * 64 + e % 64)
  | _ => (e / dout, e % dout)

/-- The place of element (a, c) in a copy. -/
def layPlace (lay din dout a c : Nat) : Nat :=
  match lay with
  | 1 => (c / 64 * din + a) * 64 + c % 64
  | 2 => (a / 64 * dout + c) * 64 + a % 64
  | 3 =>
    let p := c / 192
    let n := min 3 (dout / 64 - 3 * p)
    p * 192 * din + (n * a + c / 64 % 3) * 64 + c % 64
  | _ => a * dout + c

/-- The scale byte that element (a, c) uses. -/
def layScale (lay din dout a c : Nat) : Nat :=
  match lay with
  | 1 => (c / 64 * (din / 32) + a / 32) * 64 + c % 64
  | 2 => (a / 64 * (dout / 32) + c / 32) * 64 + a % 64
  | 3 => (c / 64 * (din / 32) + a / 32) * 64 + c % 64
  | _ => (a * dout + c) / 32

/-- The 32 elements of the block of scale byte y. -/
def layBlock (lay din dout y : Nat) : List (Nat × Nat) :=
  let t := y / 64
  match lay with
  | 1 => (List.range 32).map (fun j => (t % (din / 32) * 32 + j, t / (din / 32) * 64 + y % 64))
  | 2 => (List.range 32).map (fun j => (t / (dout / 32) * 64 + y % 64, t % (dout / 32) * 32 + j))
  | 3 => (List.range 32).map (fun j => (t % (din / 32) * 32 + j, t / (din / 32) * 64 + y % 64))
  | _ => (List.range 32).map (fun j => ((32 * y + j) / dout, (32 * y + j) % dout))

/-- A copy made from FP32 values (R353): element bytes, scale bytes, flags. `val` gives element i of the master order. (Log entry 35: DEDUCED.) -/
def makeCopy (lay fmt rm din dout : Nat) (sr : SrSrc) (val : Nat → Num) : List Byte × List Byte × Flags :=
  let n := din * dout
  let idx (p : Nat × Nat) : Nat := p.1 * dout + p.2
  let scales := if isMx fmt then (List.range (n / 32)).map (fun y => mxScale fmt ((layBlock lay din dout y).map (fun p => val (idx p)))) else []
  let tab := scales.toArray
  let es := (List.range n).map (fun e =>
    let p := layElem lay din dout e
    let i := idx p
    if isMx fmt then mxElem fmt rm (tab.getD (layScale lay din dout p.1 p.2) 0) (srAt sr i) (val i)
    else plainConv fmt rm true (srAt sr i) (val i))
  (leBytes (n * fmtBits fmt / 8) (packAll (fmtBits fmt) (es.map (·.1))), scales.map (BitVec.ofNat 8), es.foldl (fun f x => f ||| x.2) 0)

/-! ## The optimizer step -/

/-- The constants of one `se.opt` (Table 8.9, R350). -/
structure OptPar where
  alg  : Nat
  lr   : F32
  wd   : F32
  b1   : F32
  b2   : F32
  eps  : F32
  gsc  : F32
  c1   : F32
  c2   : F32
  ob1  : F32
  ob2  : F32
  deriving DecidableEq, Repr

def optPar (d : List W64) : OptPar :=
  let hi (i : Nat) : F32 := f32c (wf d i 63 32)
  let lo (i : Nat) : F32 := f32c (wf d i 31 0)
  { alg := wf d 0 55 52, lr := hi 8, wd := lo 8, b1 := hi 9, b2 := lo 9, eps := hi 10, gsc := lo 10, c1 := hi 11, c2 := lo 11
    ob1 := xSub f32One (hi 9), ob2 := xSub f32One (lo 9) }

/-- One element after the step: master, moments as exact values, flags, whether its gradient was finite. -/
structure OptEl where
  w   : Nat := 0
  m   : Num := .fin false 0 0
  v   : Num := .fin false 0 0
  fl  : Flags := 0
  bad : Bool := false
  deriving DecidableEq, Repr

/-- R350 and R352 for one element: `gr` is the gradient as FP32, `m` and `s` the decoded moments. (Log entries 36: DESIGN CHOICE, 115: DESIGN CHOICE.) -/
def optStep (p : OptPar) (w : Nat) (gr : F32) (m s : Num) : OptEl :=
  if isNan (fN gr) || isInf (fN gr) then { w := w, m := m, v := s, fl := gr.2 ||| flNV, bad := true }
  else
    let g := xMul gr p.gsc
    let wv := f32c w
    let decay (u : F32) : F32 := xFma (xNeg p.lr) (xFma p.wd wv u) wv
    match p.alg with
    | 0 =>
      let m1 := xFma p.ob1 g (xMulN p.b1 m)
      let v1 := xFma p.ob2 (xMul g g) (xMulN p.b2 (numMul s s))
      let u := xDiv (xMul m1 p.c1) (xAdd (xSqrt (xMul v1 p.c2)) p.eps)
      let w1 := decay u
      let s1 := xSqrt v1
      { w := w1.1, m := fN m1, v := fN s1, fl := w1.2 ||| m1.2 ||| s1.2 }
    | 1 =>
      let k := xFma p.ob1 g (xMulN p.b1 m)
      let z : Num := .fin false 0 0
      let u : F32 := (if numLt z (fN k) && !(isZero (fN k)) then 0x3F800000 else if numLt (fN k) z && !(isZero (fN k)) then 0xBF800000 else 0, k.2)
      let w1 := decay u
      let m1 := xFma p.ob2 g (xMulN p.b2 m)
      { w := w1.1, m := fN m1, v := s, fl := w1.2 ||| m1.2 }
    | _ =>
      let m1 := xFmaN p.b1 m g
      let w1 := decay m1
      { w := w1.1, m := fN m1, v := s, fl := w1.2 ||| m1.2 }

/-- The gradient of element code c, as FP32 (R350, R91). (Log entry 36: DESIGN CHOICE.) -/
def gradOf (gf : Nat) (ge : Int) (c : Nat) : F32 :=
  match gf with
  | 0 => f32c c
  | 1 => toF32 (fpDecode bf16 c)
  | _ => sheafOut fp32 rmRNE false ge (BitVec.ofNat 128 c)

/-- A moment array decoded: element codes against their blocks' scales. -/
def momVals (code : Nat) (es sc : List Byte) : List Num :=
  let tab := sc.toArray
  es.zipIdx.map (fun p => mxValue code (tab.getD (p.2 / 32) 0).toNat p.1.toNat)

/-- A moment array encoded, block by block (R94, R95, R351): elements, scales, flags. -/
def momCode (code rm : Nat) (sr : SrSrc) (vs : List Num) : List Byte × List Byte × Flags :=
  let bl := (chunks 32 (vs.length / 32) vs).zipIdx.map (fun p => mxBlock code rm sr (32 * p.2) p.1)
  ((bl.map (fun b => b.1.map (fun x => BitVec.ofNat 8 x.1))).flatten, bl.map (fun b => BitVec.ofNat 8 b.2),
   bl.foldl (fun f b => b.1.foldl (fun f x => f ||| x.2) f) 0)

def optSr (d : List W64) (off : Nat) : SrSrc :=
  { seed := wd d 12 + BitVec.ofNat 64 off, ctr := wf d 13 63 32, base := wf d 13 31 0 }

/-- The emits that are performed, in order. -/
def runEmits (m : SeCmd) (val : Nat → Num) (g : Eng) : Eng :=
  (emitsOf m.desc).foldl (fun g e =>
    if m.emits.getD e true then
      let i := 14 + 2 * e
      let c := makeCopy (wf m.desc i 63 60) (wf m.desc i 59 56) (wf m.desc i 55 53) (wf m.desc 1 63 32) (wf m.desc 1 31 0)
        (optSr m.desc (1 + e)) val
      let g1 := engWrite { g with fl := g.fl ||| c.2.2 } (addr m.desc i) c.1
      if isMx (wf m.desc i 59 56) then engWrite g1 (addr m.desc (i + 1)) c.2.1 else g1
    else g) g

/-- Elements and scales of a moment array that lies at words i and i + 1. -/
def readMom (g : Eng) (d : List W64) (i n code : Nat) : Eng × List Num :=
  let e := engRead g (addr d i) n
  let s := engRead e.1 (addr d (i + 1)) (n / 32)
  (s.1, momVals code e.2 s.2)

def writeMom (g : Eng) (d : List W64) (i : Nat) (r : List Byte × List Byte × Flags) : Eng :=
  engWrite (engWrite { g with fl := g.fl ||| r.2.2 } (addr d i) r.1) (addr d (i + 1)) r.2.1

/-- Log entry 36: DESIGN CHOICE. -/
def runOpt (m : SeCmd) (g : Eng) : Eng :=
  let d := m.desc
  let n := optN d
  let gf := wf d 0 51 48
  let adam := wf d 0 55 52 == 0
  let p := optPar d
  let w := engRead g (addr d 2) (4 * n)
  let gr := engRead w.1 (addr d 3) (gBytes gf * n)
  let m1 := readMom gr.1 d 4 n 5
  let m2 := if adam then readMom m1.1 d 6 n 0xD else (m1.1, List.replicate n (.fin false 0 0))
  if m2.1.fault.isSome then m2.1
  else
    let els := ((packedCodes 32 n w.2).zip ((packedCodes (8 * gBytes gf) n gr.2).zip (m1.2.zip m2.2))).map (fun x =>
      optStep p x.1 (gradOf gf (sgn 9 (wf d 0 47 39)) x.2.1) x.2.2.1 x.2.2.2)
    let bad := (els.filter (·.bad)).length
    let g1 := { m2.1 with cnt := bad, fl := els.foldl (fun f e => f ||| e.fl) m2.1.fl }
    let g2 := engWrite g1 (addr d 2) (els.flatMap (fun e => leBytes 4 e.w))
    let g3 := writeMom g2 d 4 (momCode 5 rmRNE (optSr d 0) (els.map (·.m)))
    let g4 := if adam then writeMom g3 d 6 (momCode 0xD rmSR (optSr d 0) (els.map (·.v))) else g3
    let tab := (els.map (·.w)).toArray
    runEmits m (fun i => fpDecode fp32 (tab.getD i 0)) g4

def execSeOpt (st k : Nat) (s : State) : Out :=
  .next (withCmd s st k 4 fun m g => endCounted (runOpt m g) st k m)

/-! ## Re-layout -/

/-- R355. A copy from FP32 follows R353 as emit 0 of an `se.opt` with the command's SEED, STEP and PBASE; any other keeps every code. (Log entry 35: DEDUCED.) -/
def runRelayout (d : List W64) (g : Eng) : Eng :=
  let din := wf d 1 63 32
  let dout := wf d 1 31 0
  let n := optN d
  let sl := wf d 0 55 52
  let sf := wf d 0 51 48
  let dl := wf d 0 47 44
  let df := wf d 0 43 40
  let src := engRead g (addr d 2) (n * fmtBits sf / 8)
  let ssc := if isMx sf then engRead src.1 (addr d 3) (n / 32) else (src.1, [])
  if ssc.1.fault.isSome then ssc.1
  else
    let codes := (packedCodes (fmtBits sf) n src.2).toArray
    let stab := ssc.2.toArray
    let at' (p : Nat × Nat) : Nat := codes.getD (layPlace sl din dout p.1 p.2) 0
    let c := if sf = 0 then
        makeCopy dl df (wf d 0 39 37) din dout { seed := wd d 6 + 1, ctr := wf d 7 63 32, base := wf d 7 31 0 }
          (fun i => fpDecode fp32 (at' (i / dout, i % dout)))
      else
        (leBytes (n * fmtBits sf / 8) (packAll (fmtBits sf) ((List.range n).map (fun e => at' (layElem dl din dout e)))),
         (List.range (n / 32)).map (fun y =>
           let p := (layBlock dl din dout y).headD (0, 0)
           stab.getD (layScale sl din dout p.1 p.2) 0), 0)
    let g1 := engWrite { ssc.1 with fl := ssc.1.fl ||| c.2.2 } (addr d 4) c.1
    if isMx df then engWrite g1 (addr d 5) c.2.1 else g1

def execSeRelayout (st k : Nat) (s : State) : Out :=
  .next (withCmd s st k 5 fun m g => endWork (runRelayout m.desc g) st k m 0 0)

/-! ## Digests -/

/-- MODE 0b11 removes the registrations of a source and computes nothing (R356). -/
def unregister (s : State) (st src : Nat) : State :=
  updSe s st (fun y => { y with regns := y.regns.filter (fun r => r.src != src) })

/-- What `se.digest` leaves: the digest at OUT, the comparison, the registration (R356, R357). -/
def runDigest (s0 : State) (st k : Nat) (m : SeCmd) (g : Eng) : State :=
  let d := m.desc
  let mode := wf d 0 55 54
  let src := addr d 1
  let len := (wd d 2).toNat
  if mode = 3 then endWork { g with s := unregister s0 st src } st k m 0 0
  else
    let data := engRead g src len
    let ex := if mode = 0 then (data.1, []) else engRead data.1 (addr d 4) 32
    let h := sha256 data.2
    let g1 := engWrite ex.1 (addr d 3) h
    if mode = 0 ∨ g1.fault.isSome then endWork g1 st k m 0 0
    else if h ≠ ex.2 then
      endWork g1 st k m 1 ((match (devPieces g.x src 1).head? with
        | none => 0
        | some p => p.1 - stackBase st) / 2 ^ 20)
    else if mode = 1 then endWork g1 st k m 0 0
    else if 2048 ≤ (seOf g1.s st).regns.length then endWork g1 st k m 1 (2 ^ 32)
    else
      endWork { g1 with s := updSe g1.s st (fun y => { y with regns := y.regns ++ [{ src := src, len := len, digest := ex.2 }] }) } st k m 0 0

def execSeDigest (st k : Nat) (s : State) : Out :=
  .next (withCmd s st k 6 fun m g => runDigest s st k m g)

/-! ## The prefix table -/

/-- The key of a lookup: digest, NS, EPOCH, SET, and VALID as an entry holds them (Table 13.8). -/
def pfxKey (d : List W64) (dig : List Byte) : List Byte :=
  dig ++ leBytes 4 (wf d 1 63 32) ++ leBytes 2 (wf d 0 38 23) ++ leBytes 1 (wf d 0 46 39)

/-- R494. -/
def pfxMatches (key ent : List Byte) : Bool := ent.take 23 == key && (ent.getD 23 0).getLsbD 0

/-- Log entry 40: DEDUCED. -/
def pfxBucket (d : List W64) (dig : List Byte) : Nat := addr d 2 + leNat (dig.take 8) % 2 ^ wf d 0 51 47 * 256

/-- A prefix command under way: the engine, the parent digest, whether it still searches, the blocks that hit. -/
structure PfxSt where
  g      : Eng
  parent : List Byte
  search : Bool := true
  hits   : Nat := 0

/-- One insert (R496). (Log entry 40: DEDUCED.) -/
def pfxInsert (d : List W64) (g : Eng) (key dig : List Byte) (b : Nat) : Eng :=
  let base := pfxBucket d dig
  let bk := engRead g base 256
  let v := engRead bk.1 (addr d 6 + 16 * b) 16
  let ents := chunks 64 4 bk.2
  let use := leBytes 8 v.1.s.time.now.toNat
  if v.1.fault.isSome then v.1
  else match ents.findIdx? (pfxMatches key) with
    | some i => engWrite v.1 (base + 64 * i + 24) (v.2 ++ use)
    | none =>
      match ents.findIdx? (fun e => !((e.getD 23 0).getLsbD 0)) with
      | some i => engWrite v.1 (base + 64 * i) (key ++ [1] ++ v.2 ++ use ++ zeros 16)
      | none => { v.1 with cnt := v.1.cnt + 1 }

/-- One lookup: the values of the hit, if any (R496). (Log entry 40: DEDUCED.) -/
def pfxLookup (d : List W64) (g : Eng) (key dig : List Byte) : Eng × Option (List Byte) :=
  let base := pfxBucket d dig
  let bk := engRead g base 256
  let ents := chunks 64 4 bk.2
  if bk.1.fault.isSome then (bk.1, none)
  else match ents.findIdx? (pfxMatches key) with
    | none => (bk.1, none)
    | some i =>
      let g1 := if wf d 0 53 53 = 1 then engWrite bk.1 (base + 64 * i + 40) (leBytes 8 bk.1.s.time.now.toNat) else bk.1
      (g1, some (((ents.getD i []).drop 24).take 16))

def pfxBlock (d : List W64) (x : PfxSt) (b : Nat) : PfxSt :=
  if x.g.fault.isSome then x
  else
    let tk := engRead x.g (addr d 3 + 256 * b) 256
    let dig := (sha256 (x.parent ++ tk.2)).take 16
    let key := pfxKey d dig
    let mode := wf d 0 55 54
    if tk.1.fault.isSome then { x with g := tk.1 }
    else
      let r := if mode = 0 ∧ x.search then pfxLookup d tk.1 key dig
        else if mode = 1 then (pfxInsert d tk.1 key dig b, none) else (tk.1, none)
      { g := engWrite r.1 (addr d 5 + 32 * b) (dig ++ r.2.getD (zeros 16)), parent := dig
        search := x.search && r.2.isSome, hits := x.hits + (if r.2.isSome then 1 else 0) }

def execSePrefix (st k : Nat) (s : State) : Out :=
  .next (withCmd s st k 7 fun m g =>
    let d := m.desc
    let par := if wf d 0 52 52 = 1 then (g, zeros 16) else engRead g (addr d 4) 16
    let r := (List.range (wf d 1 31 0)).foldl (pfxBlock d) { g := par.1, parent := par.2 }
    if wf d 0 55 54 = 1 then endCounted r.g st k m else endWork r.g st k m 0 r.hits)

end Sys2Proof.Machine
end

