-- ==== Sys2Proof/Machine/Coll.lean ====
section
/-!
DEFINITION. Sys2Proof/Machine/Coll.lean: collectives (R537 to R555): groups and their trees, descriptors, the messages of Table 14.9,
reduction in sheaf, broadcast, checks, abort, leaving, completion records. The byte layout of payloads other than DATA is not stated;
the model lays their fields out in the order of Table 14.9.
-/

namespace Sys2Proof.Machine

/-! ## Groups and trees -/

def grpOf (s : State) (g : Nat) : GroupSt := Tbl.get {} s.groups g
def putGrp (s : State) (g : Nat) (x : GroupSt) : State := { s with groups := Tbl.put s.groups g x }
def collOf (s : State) (g : Nat) : CollSt := (grpOf s g).active.getD {}
def putColl (s : State) (g : Nat) (c : CollSt) : State := putGrp s g { grpOf s g with active := some c }
def updColl (s : State) (g : Nat) (f : CollSt → CollSt) : State := putColl s g (f (collOf s g))

/-- The member's neighbours in the tree. -/
def neighbours (x : GroupSt) : List Nat := (if x.hasp then [x.parent] else []) ++ x.children.map (·.1)

/-- The neighbour toward the root; none at the root itself (R543). -/
def toward (x : GroupSt) (root : Nat) : Option Nat :=
  if x.rank = root then none
  else match x.children.find? (fun c => decide (c.2.1 ≤ root) && decide (root ≤ c.2.2)) with
    | some c => some c.1
    | none => if x.hasp then some x.parent else none

def awayOf (x : GroupSt) (root : Nat) : List Nat := (neighbours x).filter (fun d => some d != toward x root)

/-- Last rank of the member's own subtree. -/
def subtreeEnd (x : GroupSt) : Nat := match x.children.getLast? with
  | none => x.rank
  | some c => c.2.2

/-- The ranks beyond a neighbour, as ranges. (Log entry 62: DESIGN CHOICE.) -/
def beyond (x : GroupSt) (dev : Nat) : List (Nat × Nat) :=
  match x.children.find? (fun c => c.1 == dev) with
  | some c => [(c.2.1, c.2.2)]
  | none => (if x.rank = 0 then [] else [(0, x.rank - 1)])
      ++ (if subtreeEnd x + 1 < x.nmemb then [(subtreeEnd x + 1, x.nmemb - 1)] else [])

/-- How many ranks lie in ranges, and the k lowest of them. -/
def rankCount (rs : List (Nat × Nat)) : Nat := (rs.map (fun r => r.2 + 1 - r.1)).foldl (· + ·) 0
def rankLow (k : Nat) (rs : List (Nat × Nat)) : List Nat :=
  ((rs.flatMap (fun r => (List.range (min k (r.2 + 1 - r.1))).map (fun i => r.1 + i))).foldl NSet.ins []).take k
def mergeRanks (k : Nat) (a b : List Nat) : List Nat := ((a ++ b).foldl NSet.ins []).take k

/-! ## Descriptors (Table 14.8) -/

def cOp (d : List W64) : Nat := wf d 0 63 60
def cSf (d : List W64) : Nat := wf d 0 59 56
def cOf (d : List W64) : Nat := wf d 0 55 52
def cE (d : List W64) : Int := sgn 9 (wf d 0 51 43)
def cKt (d : List W64) : Nat := wf d 0 42 31
def cSeq (d : List W64) : Nat := wf d 1 63 32
def cCount (d : List W64) : Nat := wf d 1 31 0
def cRoot (d : List W64) : Nat := wf d 2 63 44

def srcSize (d : List W64) (atRoot : Bool) : Nat :=
  if cOp d = 1 then cCount d * (if cSf d = 0 then 4 else 16) else if atRoot then cCount d * 16 else 0
def dstElem (d : List W64) : Nat := if cOf d = 0 then 4 else if cOf d = 1 then 2 else 16
def dstSize (d : List W64) (atRoot : Bool) : Nat :=
  if cOp d = 1 then (if atRoot then cCount d * dstElem d else 0) else if atRoot then 0 else cCount d * 16
def resSize (d : List W64) : Nat := if cKt d = 0 then 0 else cCount d * 4

/-- The operand ranges: SRC, DST, RES_IN, RES_OUT, CREC. -/
def collRanges (d : List W64) (atRoot : Bool) : List (Nat × Nat) :=
  [(addr d 3, srcSize d atRoot), (addr d 4, dstSize d atRoot), (addr d 5, resSize d), (addr d 6, resSize d), (addr d 7, 128)]

/-- Fields hold allowed values (R539, R540); `nm` is the member count. -/
def collFieldsOk (op : Nat) (d : List W64) (nm : Nat) (atRoot : Bool) : Bool :=
  cOp d == op && wf d 0 11 0 == 0 && cCount d != 0 && decide (cRoot d < nm) && wf d 2 43 32 == 0 && hi0 d [3, 4, 5, 6, 7]
  && wf d 7 6 0 == 0 && [3, 4, 5, 6].all (fun i => wf d i 3 0 == 0)
  && (if op = 1 then
        (cSf d == 0 || cSf d == 0xE) && (if atRoot then cOf d == 0 || cOf d == 1 || cOf d == 0xE else cOf d == 0) && eOk (cE d)
        && (cSf d == 0 || cKt d == 0) && (atRoot || wd d 4 == 0)
      else cSf d == 0 && cOf d == 0 && wf d 0 51 43 == 0 && cKt d == 0 && (if atRoot then wd d 4 == 0 else wd d 3 == 0))
  && (cKt d != 0 || (wd d 5 == 0 && wd d 6 == 0))

/-- No two operands overlap, but that DST may equal SRC for FP32 throughout (R540). -/
def collApart (d : List W64) (atRoot : Bool) : Bool :=
  let rs := collRanges d atRoot
  rs.zipIdx.all (fun p => (rs.zipIdx.drop (p.2 + 1)).all (fun q =>
    !(overlap p.1 q.1) || (p.2 == 0 && q.2 == 1 && cSf d == 0 && cOf d == 0 && addr d 3 == addr d 4)))

/-- Whether every byte of a range lies in HBM, or in HBM or a unit-store window. -/
def inKind (x : Ctx) (us : Bool) (a n : Nat) : Bool := (devPieces x a n).all (fun p => isHbm p.1 || (us && isUs p.1))

def collOpsOk (s : State) (x : Ctx) (d : List W64) (atRoot : Bool) : Bool :=
  let z := resSize d
  ctxOk s x (·.r) (addr d 3) (srcSize d atRoot) && ctxOk s x (·.w) (addr d 4) (dstSize d atRoot)
  && ctxOk s x (·.r) (addr d 5) z && ctxOk s x (·.w) (addr d 6) z && ctxOk s x (·.w) (addr d 7) 128
  && inKind x true (addr d 3) (srcSize d atRoot) && inKind x true (addr d 4) (dstSize d atRoot)
  && inKind x true (addr d 5) z && inKind x true (addr d 6) z

/-- R541. -/
def collSig (d : List W64) : W64 :=
  let a := cOp d * 2 ^ 60 + cSf d * 2 ^ 56 + (cE d + 160).toNat * 2 ^ 47 + cKt d * 2 ^ 35 + wf d 0 30 21 * 2 ^ 25
  let s1 := mcg (BitVec.ofNat 64 a) (cSeq d) (cCount d)
  mcg s1 (cRoot d) 0

/-! ## Messages -/

def kOpen : Nat := 1
def kJoin : Nat := 2
def kVerdict : Nat := 3
def kData : Nat := 4
def kTrailer : Nat := 5
def kDone : Nat := 6
def kFinal : Nat := 7
def kLeave : Nat := 8

/-- A COLL packet of a group to a neighbour. -/
def collPkt (g kind chunk seq info dst : Nat) (bs : List Byte) : Pkt :=
  { typ := 6, dst := dst, a := g * 2 ^ 38 + kind * 2 ^ 32 + chunk % 2 ^ 32, b := BitVec.ofNat 64 (seq * 2 ^ 32 + info % 2 ^ 32), data := bs }

def collSend (s : State) (g kind info : Nat) (ds : List Nat) (bs : List Byte) : State :=
  let q := (collOf s g).seq
  ds.foldl (fun s d => originate s (collPkt g kind 0 q info d bs)) s

/-- DATA of one chunk, in packets of at most 8,192 bytes; a sparse block with no entry is one packet without payload. -/
def sendChunk (s : State) (g c : Nat) (ds : List Nat) (bs : List Byte) : State :=
  let q := (collOf s g).seq
  (chunks 8192 (pktsOf bs.length) bs).foldl (fun s b =>
    ds.foldl (fun s d => originate s (collPkt g kData c q 0 d b)) s) s

def words64 (l : List Nat) : List Byte := l.flatMap (leBytes 8)
/-- Rank slots of a message or record, unused ones all ones. -/
def slots32 (n : Nat) (l : List Nat) : List Byte := (List.range n).flatMap (fun i => leBytes 4 (l.getD i 0xFFFFFFFF))

/-! ## Outcomes -/

def fPartial : Nat := 1
def fTimeout : Nat := 2
def fCsum : Nat := 4
def fIndex : Nat := 8
def fCount : Nat := 16
def fLeft : Nat := 32
def fWovf : Nat := 64
def fWnan : Nat := 128

/-- What a collective ended with (Table 14.10). -/
structure Outcome where
  code  : Nat := 0
  flags : Nat := 0
  lag   : Nat := 0
  slow  : Nat := 0
  nnamed : Nat := 0
  named : List Nat := []
  nwovf : Nat := 0
  wovf  : List Nat := []
  nwnan : Nat := 0
  wnan0 : Nat := 0xFFFFFFFF
  deriving DecidableEq, Repr

/-- The completion record (R555). (Log entry 62: DESIGN CHOICE.) -/
def recordBytes (s : State) (c : CollSt) (o : Outcome) : List Byte :=
  leBytes 8 (cSeq c.desc * 2 ^ 32 + o.flags * 2 ^ 8 + o.code) ++ leBytes 8 (o.lag * 2 ^ 32 + o.slow)
  ++ leBytes 8 (o.nnamed * 2 ^ 32 + o.nwovf) ++ slots32 8 o.named
  ++ leBytes 8 (o.wovf.getD 0 0xFFFFFFFF * 2 ^ 32 + o.wovf.getD 1 0xFFFFFFFF) ++ leBytes 8 (o.nwnan * 2 ^ 32 + o.wnan0)
  ++ leBytes 8 c.bytes ++ leBytes 8 ((s.time.now - c.launch).toNat / 16) ++ zeros 32 ++ leBytes 8 (stampNow s)

/-- Counters of completed collectives (Table 14.12). -/
def countColl (f : FabSt) (o : Outcome) : FabSt :=
  let f1 := match o.code with
    | 0 => { f with collDone := f.collDone + 1 }
    | 1 => { f with collFailed := f.collFailed + 1 }
    | 2 => { f with collSpoiled := f.collSpoiled + 1 }
    | _ => f
  if o.flags / 4 % 4 != 0 then { f1 with collCsum := f1.collCsum + 1 } else f1

/-- The CQ entry completes: status, sticky flags, its place in the queue (R546, R555). -/
def finishCq (s : State) (c u : Nat) (e : QEnt) (f : Flags) (v : W64) : State :=
  match resOf s u c with
    | none => s
    | some r =>
      let k1 := orSticky (doneEnt (dropEnt r.core 13 e.seq) e.seq) f
      setRes s u c { r with core := if iQD e.w = 0 then k1 else gDeliver k1 (iQD e.w) e.seq v }

/-- The member completes: record with its stamp last, counter on every unit (R419), status, registers of the group; a member whose context
has faulted too (R43, R553). -/
def finishColl (s : State) (g : Nat) (o : Outcome) : State :=
  let x := grpOf s g
  match x.active with
  | none => s
  | some c =>
    let s1 := putGrp s g { x with active := none, lastSeq := cSeq c.desc, lastCode := o.code, lastSlow := o.slow, lastNamed := o.nnamed,
                                  lastLag := o.lag }
    let s2 := updFab s1 (fun f => countColl f o)
    match ctxOf s2 x.ctx with
      | none => s2
      | some cx =>
        let w := ctxWrite s2 cx (addr c.desc 7) (recordBytes s c o) 0
        let s3 := if wf c.desc 0 12 12 = 1 then
            updCtx w.1 x.ctx (fun y => { y with ctr := Tbl.set 0 y.ctr (wf c.desc 0 20 13) (Tbl.get 0 y.ctr (wf c.desc 0 20 13) + 1) })
          else w.1
        finishCq s3 x.ctx c.unit c.ent c.flags (statusWord o.code (cSeq c.desc))

/-- Message of FINAL: the record's fields. (Log entry 60: DESIGN CHOICE.) -/
def finalBytes (o : Outcome) : List Byte :=
  words64 [o.code, o.flags, o.lag, o.slow, o.nnamed] ++ slots32 8 o.named ++ words64 [o.nwovf] ++ slots32 2 o.wovf
  ++ words64 [o.nwnan, o.wnan0]

/-- The root ends a collective after GO: FINAL to every neighbour, and its own completion. -/
def rootFinal (s : State) (g : Nat) (o : Outcome) : State :=
  finishColl (collSend s g kFinal o.code (neighbours (grpOf s g)) (finalBytes o)) g o

/-- The window-overflow and NaN members, in an outcome. -/
def withMarks (c : CollSt) (o : Outcome) : Outcome :=
  { o with nwovf := c.nwovf, wovf := c.wovf, nwnan := c.nwnan, wnan0 := c.wnan.headD 0xFFFFFFFF
           flags := o.flags + (if c.nwovf = 0 then 0 else fWovf) + (if c.nwnan = 0 then 0 else fWnan) }

/-- The root aborts (R551): VERDICT ABORT before GO, FINAL with failure after it. `own` is the code the root itself completes with: 3
after an abort by its host (R553). (Log entries 61: DESIGN CHOICE, 62: DESIGN CHOICE.) -/
def rootAbort (s : State) (g own flags n : Nat) (ranks : List Nat) : State :=
  let c := collOf s g
  let o : Outcome := { code := 1, flags := flags, nnamed := n, named := ranks, lag := c.lag, slow := c.slow }
  let ns := neighbours (grpOf s g)
  if c.phase == .going || c.phase == .final then
    let z := withMarks c { o with flags := flags + fPartial }
    finishColl (collSend s g kFinal z.code ns (finalBytes z)) g { z with code := own }
  else finishColl (collSend s g kVerdict 2 ns (words64 [n] ++ slots32 8 ranks)) g { o with code := own }

/-- A device that finds a failure reports it toward the root, or is the root and aborts (R549, R551). (Log entry 60: DESIGN CHOICE.) -/
def reportFail (s : State) (g flags : Nat) : State :=
  let x := grpOf s g
  match toward x (cRoot (collOf s g).desc) with
  | none => rootAbort s g 1 flags 1 [x.rank]
  | some d => collSend (updColl s g (fun c => { c with phase := .final })) g kLeave flags [d] (words64 [x.rank, flags])

/-! ## A member's own stream (R546 to R548) -/

/-- What a member contributes: index, code that travels, sheaf word, contribution count. -/
structure Contrib where
  i   : Nat
  raw : Nat
  w   : W128
  n   : Nat := 0
  deriving DecidableEq, Repr

/-- Sheaf words of a source with the counts of their lines (R547). -/
def sheafContribs (s : State) (x : Ctx) (d : List W64) (bs : List Byte) : List Contrib :=
  (packedCodes 128 (cCount d) bs).zipIdx.map (fun p =>
    let n := match ctxDev x (addr d 3 + 16 * p.2) with
      | none => 1
      | some a => max 1 (Tbl.get 0 s.count (a / 128))
    { i := p.2, raw := p.1, w := BitVec.ofNat 128 p.1, n := n })

/-- |a| < |b| for the choice of R548, where NaN counts as largest. -/
def absLt (a b : Num) : Bool :=
  match a, b with
  | .nan _, _ => false
  | _, .nan _ => true
  | .inf _, _ => false
  | _, .inf _ => true
  | .fin _ m e, .fin _ n f => ltScaled m e n f

/-- The kept elements of one block, ascending: KT of largest magnitude, ties to the lower index. -/
def keepLargest (kt : Nat) (l : List (Nat × Nat)) : List (Nat × Nat) :=
  let rec ins (p : Nat × Nat) : List (Nat × Nat) → List (Nat × Nat)
    | [] => [p]
    | q :: t => if absLt (fpDecode fp32 q.2) (fpDecode fp32 p.2) then p :: q :: t else q :: ins p t
  let best := (l.foldl (fun acc p => ins p acc) []).take kt
  l.filter (fun p => best.contains p)

/-- Blocks of 4,096 elements with their indices. -/
def sparseKept (kt : Nat) (cs : List Nat) : List (Nat × Nat) :=
  (chunks 4096 ((cs.length + 4095) / 4096) (cs.zipIdx.map (fun p => (p.2, p.1)))).flatMap (keepLargest kt)

/-- An FP32 contribution: its word, and the flags of R89. -/
def contribOf (e : Int) (p : Nat × Nat) : Contrib × Flags × Bool × Bool :=
  let r := sheafIn e (fpDecode fp32 p.2)
  ({ i := p.1, raw := p.2, w := r.1 }, r.2.1, r.2.2.1, r.2.2.2)

/-- Elements of a chunk. -/
def chunkLen (d : List W64) : Nat := if cKt d = 0 then 512 else 4096
def chunkCount (d : List W64) : Nat := (cCount d + chunkLen d - 1) / chunkLen d
def chunkElems (d : List W64) (c : Nat) : List Nat :=
  (List.range (min (chunkLen d) (cCount d - c * chunkLen d))).map (fun j => c * chunkLen d + j)

/-- Sum modulo 2^64 of mcg(SEQ, 0, i) over explicit indices (R549). -/
def indexHash (d : List W64) (l : List Nat) : W64 := l.foldl (fun h i => h + mcg (BitVec.ofNat 64 (cSeq d)) 0 i) 0

/-- A leaf's FP32 chunk as it travels: values, then, for a sparse block, UINT16 indices, padded to 16 bytes (R548). -/
def leafBytes (d : List W64) (l : List Contrib) : List Byte :=
  let v := l.flatMap (fun c => leBytes 4 c.raw)
  if cKt d = 0 then v
  else
    let b := v ++ l.flatMap (fun c => leBytes 2 (c.i % 4096))
    b ++ zeros ((16 - b.length % 16) % 16)

/-- A chunk of sums as it travels: dense words, or sparse entries of a block with at most 3,640 elements that are not zero. -/
def sumBytes (d : List W64) (sums : List (Nat × W128)) (c : Nat) : List Byte × List Nat :=
  let es := chunkElems d c
  let nz := es.filter (fun i => Tbl.get 0 sums i != 0)
  if cKt d ≠ 0 ∧ nz.length ≤ 3640 then
    (nz.flatMap (fun i => leBytes 2 (i % 4096) ++ leBytes 16 (Tbl.get 0 sums i).toNat), nz)
  else (es.flatMap (fun i => leBytes 16 (Tbl.get 0 sums i).toNat), [])

def denseWords (d : List W64) (sums : List (Nat × W128)) : List W128 := (List.range (cCount d)).map (fun i => Tbl.get 0 sums i)

/-! ## Writing and sending what is ready -/

/-- The context of a group's member. -/
def collCtx (s : State) (g : Nat) : Ctx := (ctxOf s (grpOf s g).ctx).getD {}

/-- A write of destination bytes, counted; lost bytes fault the context. -/
def collWrite (s : State) (g a : Nat) (bs : List Byte) : State :=
  let x := grpOf s g
  let w := ctxWrite s (collCtx s g) a bs 0
  let s1 := updColl w.1 g (fun c => { c with bytes := c.bytes + bs.length, progress := s.time.now })
  if w.2 then raiseFaultAt s1 x.ctx fPoison (collOf s g).ent.pc.toNat (collOf s g).unit none (some (collOf s g).ent.seq) else s1

/-- The root's conversion of a chunk (R550). -/
def rootChunk (s : State) (g c : Nat) : State :=
  let k := collOf s g
  let d := k.desc
  let r := (chunkElems d c).map (fun i =>
    let w := Tbl.get 0 k.sums i
    if cOf d = 0xE then (w.toNat, (0 : Flags)) else
      let y := sheafOut (if cOf d = 0 then fp32 else bf16) rmRNE true (cE d) w
      (y.1, if y.2 &&& flOF = 0 then 0 else y.2 &&& (flOF ||| flNX)))
  let s1 := updColl s g (fun y => { y with flags := y.flags ||| r.foldl (fun f z => f ||| z.2) 0 })
  collWrite s1 g (addr d 4 + c * chunkLen d * dstElem d) (r.flatMap (fun z => leBytes (dstElem d) z.1))

/-- A chunk of sums whose streams have all come in: written at the root, sent on elsewhere. -/
def emitChunk (s : State) (g c : Nat) : State :=
  let k := collOf s g
  let s1 := updColl s g (fun y => { y with finished := NSet.ins y.finished c })
  match toward (grpOf s g) (cRoot k.desc) with
  | none => rootChunk s1 g c
  | some d =>
    let b := sumBytes k.desc k.sums c
    sendChunk (updColl s1 g (fun y => { y with outHash := y.outHash + indexHash k.desc b.2 })) g c [d] b.1

def hasChunk (k : CollSt) (dev c : Nat) : Bool := k.ins.any (fun y => y.src == dev && y.chunks.contains c)
def hasTrailer (k : CollSt) (dev : Nat) : Bool := k.ins.any (fun y => y.src == dev && y.trailer)

/-- Chunks ready and not yet emitted, ascending. -/
def readyChunks (s : State) (g : Nat) : List Nat :=
  let k := collOf s g
  (List.range (chunkCount k.desc)).filter (fun c =>
    !(k.finished.contains c) && (awayOf (grpOf s g) (cRoot k.desc)).all (fun d => hasChunk k d c))

/-- Modular sum of the streams' checksums, the member's own among them. -/
def insSums (k : CollSt) : W128 × W128 := (k.ins.map (·.tsum) |>.foldl (· + ·) 0, k.ins.map (·.twsum) |>.foldl (· + ·) 0)

/-- Log entry 60: DESIGN CHOICE. -/
def trailerBytes (k : CollSt) (sum wsum : W128) : List Byte :=
  leBytes 16 sum.toNat ++ leBytes 16 wsum.toNat ++ words64 [k.outHash.toNat, k.nwovf] ++ slots32 2 k.wovf ++ words64 [k.nwnan] ++ slots32 2 k.wnan

/-- The reduction's end on this device: the checks of R549, then the trailer, or at the root the final check and FINAL. -/
def reduceEnd (s : State) (g : Nat) : State :=
  let k := collOf s g
  let x := grpOf s g
  if k.finished.length = chunkCount k.desc ∧ (awayOf x (cRoot k.desc)).all (hasTrailer k) then
    let v := sheafSums 0 (denseWords k.desc k.sums)
    if v ≠ insSums k then reportFail s g fCsum
    else match toward x (cRoot k.desc) with
      | none => rootFinal s g (withMarks k { lag := k.lag, slow := k.slow })
      | some d => collSend (updColl s g (fun y => { y with phase := .final })) g kTrailer 0 [d] (trailerBytes k v.1 v.2)
  else s

/-- Emits what is ready, then ends the reduction if it can. -/
def reduceStep (s : State) (g : Nat) : State := reduceEnd ((readyChunks s g).foldl (fun s c => emitChunk s g c) s) g

/-- A member's read of its own operand; poison faults its context. (Log entry 61: DESIGN CHOICE.) -/
def collRead (s : State) (g a n : Nat) : State × List Byte × Bool := ctxRead s (collCtx s g) a n 0

/-- The reduction starts on this device (R546, R548): its contribution is read, converted and added, its residual written; a member
with no neighbour farther away sends its contribution as it stands. (Log entry 61: DESIGN CHOICE.) -/
def startReduce (s : State) (g : Nat) : State :=
  let k := collOf s g
  let d := k.desc
  let x := grpOf s g
  let src := collRead s g (addr d 3) (srcSize d true)
  let res := if cKt d = 0 then (src.1, [], false) else collRead src.1 g (addr d 5) (resSize d)
  if src.2.2 || res.2.2 then raiseFaultAt res.1 x.ctx fPoison k.ent.pc.toNat k.unit none (some k.ent.seq)
  else
    let sheaf := cSf d = 0xE
    let codes := packedCodes 32 (cCount d) src.2.1
    let cs := if cKt d = 0 then codes
      else (codes.zip (packedCodes 32 (cCount d) res.2.1)).map (fun p => (fpAdd fp32 rmRNE p.1 p.2).1)
    let kept := if cKt d = 0 then cs.zipIdx.map (fun p => (p.2, p.1)) else sparseKept (cKt d) cs
    let own := kept.map (contribOf (cE d))
    let con := if sheaf then sheafContribs s (collCtx s g) d src.2.1 else own.map (·.1)
    let fl : Flags := if sheaf then 0 else own.foldl (fun f z => f ||| z.2.1) 0
    let ovf := !sheaf && own.any (fun z => z.2.2.1)
    let nan := !sheaf && own.any (fun z => z.2.2.2)
    let sums := con.foldl (fun t z => Tbl.set 0 t z.i z.w) []
    let v := sheafSums 0 (denseWords d sums)
    let leaf := (awayOf x (cRoot d)).isEmpty && (toward x (cRoot d)).isSome && !sheaf
    let s1 := updColl res.1 g (fun y => { y with
      phase := .going, sums := sums, progress := s.time.now, flags := fl
      counts := if sheaf then con.foldl (fun t z => Tbl.set 0 t z.i z.n) [] else []
      ins := [{ src := s.fab.devId, trailer := true, tsum := v.1, twsum := v.2 }]
      nwovf := if ovf then 1 else 0, wovf := if ovf then [x.rank] else []
      nwnan := if nan then 1 else 0, wnan := if nan then [x.rank] else [] })
    let s2 := if cKt d = 0 then s1
      else collWrite s1 g (addr d 6) ((cs.zipIdx).flatMap (fun p => leBytes 4 (if kept.any (fun z => z.1 == p.2) then 0 else p.1)))
    if leaf then
      let s3 := (List.range (chunkCount d)).foldl (fun s c =>
        let l := con.filter (fun z => z.i / chunkLen d == c)
        let s4 := updColl s g (fun y => { y with finished := NSet.ins y.finished c
                                                 outHash := if cKt d = 0 then 0 else y.outHash + indexHash d (l.map (·.i)) })
        sendChunk s4 g c ((toward x (cRoot d)).toList) (leafBytes d l)) s2
      reduceEnd s3 g
    else reduceStep s2 g

/-! ## Broadcast (R550) -/

/-- Sum modulo 2^64 of the 64-bit words of 16-byte units. -/
def unitSum (l : List W128) : W64 := l.foldl (fun a w => a + BitVec.ofNat 64 w.toNat + BitVec.ofNat 64 (w.toNat / 2 ^ 64)) 0

/-- The root's data, in packets of 8 KiB, and its trailer. -/
def startBcast (s : State) (g : Nat) : State :=
  let k := collOf s g
  let d := k.desc
  let x := grpOf s g
  if (toward x (cRoot d)).isSome then updColl s g (fun y => { y with phase := .going, progress := s.time.now })
  else
    let src := collRead s g (addr d 3) (srcSize d true)
    if src.2.2 then raiseFaultAt src.1 x.ctx fPoison k.ent.pc.toNat k.unit none (some k.ent.seq)
    else
      let s1 := updColl src.1 g (fun y => { y with phase := .going, progress := s.time.now })
      let s2 := (chunks 8192 ((src.2.1.length + 8191) / 8192) src.2.1).zipIdx.foldl
        (fun s p => sendChunk s g p.2 (neighbours x) p.1) s1
      let sum := unitSum ((packedCodes 128 (cCount d) src.2.1).map (BitVec.ofNat 128))
      let s3 := collSend s2 g kTrailer 0 (neighbours x) (words64 [sum.toNat])
      if (neighbours x).isEmpty then rootFinal s3 g { lag := k.lag, slow := k.slow } else s3

/-- A member has the whole payload and the trailer from d. -/
def bcastWhole (k : CollSt) (d : Nat) : Bool := k.finished.length == (cCount k.desc + 511) / 512 && hasTrailer k d

/-- The payload's sum as the trailer has it (R550). -/
def bcastSumOk (k : CollSt) : Bool := k.ins.all (fun y => !y.trailer || y.tsum.toNat % 2 ^ 64 == k.outSum.toNat % 2 ^ 64)

/-- A member checks the sum once it has the whole payload; it is done when every neighbour farther away is too. -/
def bcastStep (s : State) (g : Nat) : State :=
  let k := collOf s g
  let x := grpOf s g
  let done := (awayOf x (cRoot k.desc)).all (fun d => k.done.contains d)
  match toward x (cRoot k.desc) with
  | none => if done then rootFinal s g { lag := k.lag, slow := k.slow } else s
  | some d =>
    if !(bcastWhole k d) || k.phase != .going then s
    else if !(bcastSumOk k) then reportFail s g fCsum
    else if done then collSend (updColl s g (fun y => { y with phase := .final })) g kDone 0 [d] []
    else s

/-! ## Launch, OPEN, JOIN, VERDICT (R544, R545) -/

/-- What this member alone reports. -/
def ownJoin (x : GroupSt) (c : CollSt) : JoinInfo :=
  let ok := c.rootSig == collSig c.desc
  { same := if ok then 1 else 0, diff := if ok then 0 else 1, ranks := if ok then [] else [x.rank]
    early := c.launch, earlyRank := x.rank, late := c.launch, lateRank := x.rank }

/-- Fabric time a comes before b (R654). -/
def timeBefore (a b : W64) : Bool := a != b && decide ((b - a).toNat < 2 ^ 63)

def joinMerge (a b : JoinInfo) : JoinInfo :=
  let eb := timeBefore b.early a.early || (b.early == a.early && decide (b.earlyRank < a.earlyRank))
  let lb := timeBefore a.late b.late || (b.late == a.late && decide (b.lateRank < a.lateRank))
  { same := a.same + b.same, diff := a.diff + b.diff, ranks := mergeRanks 8 a.ranks b.ranks
    early := if eb then b.early else a.early, earlyRank := if eb then b.earlyRank else a.earlyRank
    late := if lb then b.late else a.late, lateRank := if lb then b.lateRank else a.lateRank }

/-- Log entry 60: DESIGN CHOICE. -/
def joinBytes (j : JoinInfo) : List Byte :=
  words64 [j.same, j.diff] ++ slots32 8 j.ranks ++ words64 [j.early.toNat, j.earlyRank, j.late.toNat, j.lateRank]

def startData (s : State) (g : Nat) : State := if cOp (collOf s g).desc = 1 then startReduce s g else startBcast s g

/-- The root's verdict (R545): GO when the JOINs count every member as matching. -/
def rootVerdict (s : State) (g : Nat) (j : JoinInfo) : State :=
  let lag := min ((j.late - j.early).toNat / 16) (2 ^ 32 - 1)
  let s1 := updColl s g (fun c => { c with lag := lag, slow := j.lateRank })
  let ns := neighbours (grpOf s g)
  if j.diff = 0 ∧ j.same = (grpOf s g).nmemb then startData (collSend s1 g kVerdict 0 ns []) g
  else finishColl (collSend s1 g kVerdict 1 ns (words64 [j.diff] ++ slots32 8 j.ranks)) g
    { code := 2, lag := lag, slow := j.lateRank, nnamed := j.diff, named := j.ranks }

/-- A member that has launched and has OPEN joins once every neighbour farther away has; at the root the verdict follows. -/
def joinStep (s : State) (g : Nat) : State :=
  let c := collOf s g
  let x := grpOf s g
  let away := awayOf x (cRoot c.desc)
  if c.phase != .launched || !c.opened || !(away.all (fun d => (Tbl.find? c.joins d).isSome)) then s
  else
    let j := (c.joins.map (·.2)).foldl joinMerge (ownJoin x c)
    match toward x (cRoot c.desc) with
    | none => rootVerdict s g j
    | some d => collSend (updColl s g (fun y => { y with phase := .joined })) g kJoin 0 [d] (joinBytes j)

def collAccepted (s : State) (u c seq : Nat) : Bool :=
  s.groups.any (fun p => p.2.ctx == c && p.2.active.any (fun k => k.phase != .idle && k.unit == u && k.ent.seq == seq))

/-- The CQ entry at the head: the first not accepted; a mark holds what is behind it. -/
def cqHead (s : State) (u c : Nat) (k : Core) : Option QEnt :=
  match k.cq.find? (fun e => !(collAccepted s u c e.seq)) with
  | none => none
  | some e => if e.mark then none else some e

/-- The launch (R544): the root opens, a member with OPEN in hand passes it on and joins. An OPEN of another SEQ is taken too: the
signatures then differ (R541). (Log entry 108: DESIGN CHOICE.) -/
def launchColl (s : State) (g u : Nat) (e : QEnt) (d : List W64) : State :=
  let x := grpOf s g
  let root := (toward x (cRoot d)).isNone
  let o : Option (Nat × W64) := if root then some (cSeq d, collSig d)
    else (x.opens.find? (fun p => p.1 == cSeq d)).or x.opens.head?
  let q := (o.map (·.1)).getD (cSeq d)
  let c : CollSt := { phase := .launched, unit := u, ent := e, desc := d, launch := s.time.now, heard := s.time.now
                      opened := o.isSome, rootSig := (o.map (·.2)).getD 0, seq := q }
  let s1 := putGrp s g { x with active := some c, opens := x.opens.filter (fun p => p.1 != q), tombs := NSet.del x.tombs q }
  let s2 := if c.opened then collSend s1 g kOpen 0 (awayOf x (cRoot d)) (words64 [c.rootSig.toNat]) else s1
  joinStep s2 g

/-- Acceptance from CQ (R539 to R542); HOLD, an active collective of the group, or 64 active ones keep it at the head. -/
def acceptColl (s : State) (t : Hart) (u c op : Nat) (x : Ctx) (e : QEnt) : State :=
  let r := readDesc s t x e
  match r.2 with
  | none => r.1
  | some d =>
    let g := wf d 0 30 21
    let y := grpOf s g
    let atRoot := y.rank == cRoot d
    if !y.defined || y.ctx != c || !(collFieldsOk op d y.nmemb atRoot) || !(collApart d atRoot)
      || (cSf d == 0xE && allowed x (·.r) (addr d 3) (srcSize d atRoot) && !(inKind x false (addr d 3) (srcSize d atRoot)))
      || (collRanges d atRoot).any (fun p => touchesRick x p.1 p.2) then faultEnt s t fQueue e
    else if !(collOpsOk s x d atRoot) then faultEnt s t fExtent e
    else if s.fab.hold || collActive y || decide (64 ≤ (s.groups.filter (fun p => collActive p.2)).length) then s
    else launchColl s g u e d

def execCl (op h : Nat) (s : State) : State :=
  withHart s h fun t k x =>
    match t with
    | .inst _ _ => s
    | .res u c =>
      if !(issues s t) then s
      else match cqHead s u c k with
        | none => s
        | some e => if iClass e.w == 0xB && iOp e.w == op then acceptColl s t u c op x e else s

def execClBcast (h : Nat) (s : State) : Out := .next (execCl 0 h s)
def execClReduce (h : Nat) (s : State) : Out := .next (execCl 1 h s)

/-! ## Receiving. What a packet that has come in does; Machine/Packets.lean takes it from its link -/

/-- Whether the stores a collective touches can be reached now (R316, R564). -/
def collWaits (s : State) (g : Nat) : Bool :=
  let c := collOf s g
  collActive (grpOf s g) && (collRanges c.desc (toward (grpOf s g) (cRoot c.desc)).isNone).any (fun p =>
    (devPieces (collCtx s g) p.1 p.2).any (fun q => addrWaits s q.1))

/-- The packet comes from a neighbour in a group defined here (R538). -/
def collKnown (x : GroupSt) (src : Nat) : Bool := x.defined && (neighbours x).contains src

/-- LEAVE in answer to a packet of a collective that the member has left (R552). -/
def answerLeave (s : State) (g src seq : Nat) : State := originate s (collPkt g kLeave 0 seq 0 src (words64 [(grpOf s g).rank, 0]))

/-- A COLL packet reaches a group: strays are reported (R538), a member that left that collective answers with LEAVE (R552), a packet of
the active collective is `f`'s, and any other is dropped. (Log entry 108: DESIGN CHOICE.) -/
def withColl (s : State) (g src seq : Nat) (f : GroupSt → CollSt → State) : State :=
  let x := grpOf s g
  if !(collKnown x src) then raiseEv s 0x0607 clsWarning g src
  else if x.tombs.contains seq then answerLeave s g src seq
  else match x.active with
    | none => s
    | some c => if c.phase != .idle && c.seq == seq then f x { c with heard := s.time.now } else s

/-- OPEN (R544): taken by a member that has launched and has none yet, else held for a launch to come. (Log entry 108: DESIGN CHOICE.) -/
def onOpen (g src seq : Nat) (sig : W64) (s : State) : State :=
  let x := grpOf s g
  let c := collOf s g
  if !(collKnown x src) then raiseEv s 0x0607 clsWarning g src
  else if x.tombs.contains seq then answerLeave s g src seq
  else if collActive x && !c.opened then
    let s1 := putColl s g { c with opened := true, rootSig := sig, seq := seq, heard := s.time.now }
    joinStep (collSend s1 g kOpen 0 (awayOf x (cRoot c.desc)) (words64 [sig.toNat])) g
  else if collActive x && c.seq == seq then s
  else putGrp s g { x with opens := x.opens.filter (fun p => p.1 != seq) ++ [(seq, sig)] }

def onJoin (g src seq : Nat) (j : JoinInfo) (s : State) : State :=
  withColl s g src seq fun _ c =>
    if (Tbl.find? c.joins src).isSome then s
    else joinStep (putColl s g { c with joins := Tbl.put c.joins src j }) g

/-- LAG and SLOW_RANK of an outcome that no FINAL brought: not known to this member, free values. (Log entry 61: DESIGN CHOICE.) -/
def freeLag (s : State) (o : Outcome) : State × Outcome :=
  let w := (Config.freeWord s.freeCtr).toNat
  (bump s, { o with lag := w % 2 ^ 32, slow := w / 2 ^ 32 % 2 ^ 20 })

/-- One element of an incoming chunk as a sheaf word: FP32 where no counts come with it. -/
def dataWord (d : List W64) (fp : Bool) (w : W128) : W128 := if fp then (sheafIn (cE d) (fpDecode fp32 w.toNat)).1 else w

/-- A stream that has come whole: its index hash is its trailer's (R549). -/
def streamOkay (d : List W64) (n : CollIn) : Bool := !n.trailer || n.chunks.length != chunkCount d || n.hash == n.thash

/-- Takes up a stream's new record, and goes on or reports the index hash. -/
def putIn (s : State) (g : Nat) (c : CollSt) (n : CollIn) : State :=
  let s1 := putColl s g { c with ins := (c.ins.filter (fun y => y.src != n.src)) ++ [n] }
  if streamOkay c.desc n then reduceStep s1 g else reportFail s1 g fIndex

def reduceData (s : State) (g src chunk : Nat) (c : CollSt) (idx : List Nat) (ws : List W128) (ns : List Nat) : State :=
  let d := c.desc
  let is := if idx.isEmpty then (chunkElems d chunk).take ws.length else idx
  let fp := ns.isEmpty
  let cts := is.zip (ns ++ List.replicate (is.length - ns.length) 1)
  if cSf d = 0xE ∧ cts.any (fun p => decide (2 ^ 31 < Tbl.get 0 c.counts p.1 + p.2)) then reportFail (putColl s g c) g fCount
  else
    let vs := is.zip (ws.map (dataWord d fp))
    let part := vs.foldl (fun (a : W128 × W128) p => (a.1 + p.2, a.2 + BitVec.ofNat 128 (p.1 + 1) * p.2)) (0, 0)
    let o := (c.ins.find? (fun y => y.src == src)).getD { src := src }
    let c1 : CollSt := { c with
      sums := vs.foldl (fun t p => Tbl.set 0 t p.1 (Tbl.get 0 t p.1 + p.2)) c.sums
      counts := if cSf d = 0xE then cts.foldl (fun t p => Tbl.set 0 t p.1 (Tbl.get 0 t p.1 + p.2)) c.counts else c.counts }
    putIn s g c1 { o with chunks := NSet.ins o.chunks chunk, sum := o.sum + part.1, wsum := o.wsum + part.2, hash := o.hash + indexHash d idx }

/-- A chunk of 8 KiB of a broadcast: passed on, written, summed. -/
def bcastData (s : State) (g src chunk : Nat) (x : GroupSt) (c : CollSt) (ws : List W128) : State :=
  if c.finished.contains chunk then putColl s g c
  else
    let bs := ws.flatMap (fun w => leBytes 16 w.toNat)
    let c1 : CollSt := { c with finished := NSet.ins c.finished chunk
                                outSum := BitVec.ofNat 128 (c.outSum.toNat + (unitSum ws).toNat) }
    let s1 := sendChunk (putColl s g c1) g chunk ((awayOf x (cRoot c.desc)).filter (fun y => y != src)) bs
    bcastStep (collWrite s1 g (addr c.desc 4 + chunk * 8192) bs) g

/-- Payload bytes of DATA (R546, R548): 16-byte words, or FP32 values of a reduction, with a UINT16 index each in a sparse block. -/
def dataLen (s : State) (g : Nat) (idx : List Nat) (words : List W128) (counts : List Nat) : Nat :=
  words.length * (if cOp (collOf s g).desc = 1 ∧ counts.isEmpty then 4 else 16) + 2 * idx.length

/-- A member that has no verdict yet keeps what came before GO, since collective packets come in any order (R528). -/
def beforeGo (c : CollSt) : Bool := c.phase == .launched || c.phase == .joined

def onData (g src seq chunk : Nat) (idx : List Nat) (words : List W128) (counts : List Nat) (s : State) : State :=
  withColl s g src seq fun x c =>
    if beforeGo c then putColl s g { c with early := c.early ++ [.collData {} g src seq chunk idx words counts] }
    else if c.phase ≠ .going then s
    else if cOp c.desc = 1 then
      (if (awayOf x (cRoot c.desc)).contains src && !(hasChunk c src chunk) && decide (chunk < chunkCount c.desc) then
         reduceData s g src chunk c idx words counts
       else s)
    else if some src = toward x (cRoot c.desc) then bcastData s g src chunk x c words
    else s

/-- A trailer's own numbers: checksums, index hash, window-overflow and NaN members. -/
structure Trailer where
  sum   : W128
  wsum  : W128
  hash  : W64
  nwovf : Nat
  wovf  : List Nat
  nwnan : Nat
  wnan  : List Nat

def onTrailer (g src seq : Nat) (t : Trailer) (s : State) : State :=
  withColl s g src seq fun x c =>
    let o := (c.ins.find? (fun y => y.src == src)).getD { src := src }
    if beforeGo c then
      putColl s g { c with early := c.early ++ [.collTrailer {} g src seq t.sum t.wsum t.hash t.nwovf t.wovf t.nwnan t.wnan] }
    else if c.phase ≠ .going ∨ o.trailer then s
    else
      let n : CollIn := { o with trailer := true, tsum := t.sum, twsum := t.wsum, thash := t.hash }
      if cOp c.desc = 1 then
        (if (awayOf x (cRoot c.desc)).contains src then
           putIn s g { c with nwovf := c.nwovf + t.nwovf, wovf := mergeRanks 2 c.wovf t.wovf
                              nwnan := c.nwnan + t.nwnan, wnan := mergeRanks 2 c.wnan t.wnan } n
         else s)
      else if some src = toward x (cRoot c.desc) then
        bcastStep (collSend (putColl s g { c with ins := [n] }) g kTrailer 0 (awayOf x (cRoot c.desc)) (words64 [t.sum.toNat % 2 ^ 64])) g
      else s

/-- What came before GO is taken up after it. -/
def onEarly (s : State) (i : Instr) : State :=
  match i with
  | .collData _ g src seq chunk idx words counts => onData g src seq chunk idx words counts s
  | .collTrailer _ g src seq sum wsum hash nwovf wovf nwnan wnan => onTrailer g src seq ⟨sum, wsum, hash, nwovf, wovf, nwnan, wnan⟩ s
  | _ => s

/-- GO starts the data; SPOIL and ABORT end the collective here. The verdict goes on away from the root. -/
def onVerdict (g src seq kind count : Nat) (ranks : List Nat) (s : State) : State :=
  withColl s g src seq fun x c =>
    if some src ≠ toward x (cRoot c.desc) ∨ c.phase = .going ∨ c.phase = .final then s
    else
      let s1 := collSend (putColl s g { c with early := [] }) g kVerdict kind (awayOf x (cRoot c.desc))
        (if kind = 0 then [] else words64 [count] ++ slots32 8 ranks)
      if kind = 0 then c.early.foldl onEarly (startData s1 g)
      else
        let r := freeLag s1 { code := if kind = 1 then 2 else 1, nnamed := count, named := ranks }
        finishColl r.1 g r.2

def onDone (g src seq : Nat) (s : State) : State :=
  withColl s g src seq fun x c =>
    if cOp c.desc = 0 ∧ (awayOf x (cRoot c.desc)).contains src ∧ c.phase = .going then
      bcastStep (putColl s g { c with done := NSet.ins c.done src, progress := s.time.now }) g
    else s

/-- FINAL: passed on, and the member completes with the collective's outcome (R550). -/
def onFinal (g src seq : Nat) (o : Outcome) (s : State) : State :=
  withColl s g src seq fun x c =>
    if some src ≠ toward x (cRoot c.desc) then s
    else finishColl (collSend (putColl s g c) g kFinal o.code (awayOf x (cRoot c.desc)) (finalBytes o)) g o

/-- LEAVE, or a reported failure: passed on toward the root, which aborts (R551). (Log entry 60: DESIGN CHOICE.) -/
def onLeave (g src seq rank flags : Nat) (s : State) : State :=
  withColl s g src seq fun x c =>
    match toward x (cRoot c.desc) with
    | some d => if d = src then s else collSend (putColl s g c) g kLeave flags [d] (words64 [rank, flags])
    | none => rootAbort (putColl s g c) g 1 (if flags = 0 then fLeft else flags) 1 [rank]

/-! ## Time-outs and leaving -/

def collTmo (s : State) (c : CollSt) : Nat := if wf c.desc 2 31 0 = 0 then s.fab.collTmo else wf c.desc 2 31 0

/-- Neighbours the root still waits for: before GO those that have not joined, after it those whose data or DONE is missing. (Log entry 62: DESIGN CHOICE.) -/
def missing (x : GroupSt) (c : CollSt) : List Nat :=
  (awayOf x (cRoot c.desc)).filter (fun d =>
    if c.phase == .going then (if cOp c.desc = 1 then !(hasTrailer c d) else !(c.done.contains d)) else (Tbl.find? c.joins d).isNone)

/-- The root's time-outs (R551). -/
def execCollRootTimeout (g : Nat) (t : W64) (s : State) : Out :=
  .next (let s1 := advance s t
    let x := grpOf s1 g
    let c := collOf s1 g
    let since := if c.phase == .going then c.progress else c.launch
    if collActive x && x.rank == cRoot c.desc && !(collWaits s1 g) && decide (collTmo s1 c * 16000 ≤ (s1.time.now - since).toNat) then
      let rs := (missing x c).flatMap (beyond x)
      rootAbort s1 g 1 fTimeout (rankCount rs) (rankLow 8 rs)
    else s1)

/-- A member leaves (R553): LEAVE toward the root, no more data, its own completion; the root itself aborts. (Log entry 62: DESIGN CHOICE.) -/
def leaveColl (s : State) (g : Nat) (o : Outcome) : State :=
  let x := grpOf s g
  let c := collOf s g
  match toward x (cRoot c.desc) with
  | none => rootAbort s g o.code (if o.flags = 0 then fLeft else o.flags) o.nnamed o.named
  | some d =>
    let went := c.phase == .going || c.phase == .final
    let s1 := collSend s g kLeave 0 [d] (words64 [x.rank, 0])
    let r := freeLag s1 { o with flags := o.flags + (if went then fPartial else 0) }
    let s2 := finishColl r.1 g r.2
    putGrp s2 g { grpOf s2 g with tombs := NSet.ins (grpOf s2 g).tombs c.seq }

/-- R552. -/
def execCollMemberTimeout (g : Nat) (t : W64) (s : State) : Out :=
  .next (let s1 := advance s t
    let x := grpOf s1 g
    let c := collOf s1 g
    let lim := collTmo s1 c * 16000 + s1.fab.hopBudget * 8000
    if collActive x && x.rank != cRoot c.desc && !(collWaits s1 g) && decide (lim ≤ (s1.time.now - c.heard).toNat) then
      let late := c.phase == .going || c.phase == .final
      leaveColl s1 g { code := 1, flags := fTimeout, nnamed := if late then 0 else 1, named := if late then [] else [cRoot c.desc] }
    else s1)

/-- The collectives of a context end as its member leaves (R553), and with a removal its groups go (R538). -/
def leaveAll (s : State) (c : Nat) : State :=
  s.groups.foldl (fun s p =>
    if p.2.defined && p.2.ctx == c && collActive p.2 then leaveColl s p.1 { code := 1, nnamed := 1, named := [p.2.rank] } else s) s

def dropGroups (s : State) (c : Nat) : State := { s with groups := s.groups.filter (fun p => !(p.2.defined && p.2.ctx == c)) }

/-! ## The group command (R537, R538) -/

def grpOfBlock (d : List W64) : GroupSt :=
  { defined := true, ctx := wf d 0 51 40, rank := wf d 0 39 20, nmemb := wf d 0 19 0 + 1, hasp := wf d 1 63 63 == 1, parent := wf d 1 19 0
    children := (List.range (wf d 1 35 32)).map (fun c => (wf d (2 + c) 63 44, wf d (2 + c) 39 20, wf d (2 + c) 19 0)) }

/-- A bit that Table 14.7 reserves is not 0 (R21). -/
def grpBits (d : List W64) : Bool :=
  wf d 1 62 36 != 0 || wf d 1 31 20 != 0 || wd d 14 != 0 || wd d 15 != 0
  || (List.range (min 12 (wf d 1 35 32))).any (fun c => wf d (2 + c) 43 40 != 0)

def grpReserved (d : List W64) : Bool :=
  let x := grpOfBlock d
  grpBits d || decide (12 < wf d 1 35 32)
  || decide (12 < wf d 1 35 32 + wf d 1 63 63) || (!x.hasp && x.parent != 0) || decide (x.nmemb ≤ x.rank)
  || x.children.any (fun c => decide (c.2.2 < c.2.1) || decide (x.nmemb ≤ c.2.2))

/-- Each child's subtree begins where the one before it ends (R538, check 4). -/
def preorder (start : Nat) : List (Nat × Nat × Nat) → Bool
  | [] => true
  | c :: t => c.2.1 == start && preorder (c.2.2 + 1) t

def grpChecks (s : State) (d : List W64) : List (Nat × Bool) :=
  let x := grpOfBlock d
  [(1, grpReserved d), (2, collActive (grpOf s (wf d 0 63 54))), (3, !(isLoaded s x.ctx)), (4, !(preorder (x.rank + 1) x.children)),
   (5, !x.hasp && (x.rank != 0 || subtreeEnd x + 1 != x.nmemb))]

/-- Log entry 62: DESIGN CHOICE. -/
def execGroup (s : State) : Out :=
  .next (withCur s 0x21 fun h s =>
    let d := blockWords h
    let g := wf d 0 63 54
    if wf d 0 52 52 = 1 then
      completeCmd (if collActive (grpOf s g) then leaveColl s g { code := 3, flags := fLeft, nnamed := 1, named := [(grpOf s g).rank] } else s) h 0
    else if wf d 0 53 53 = 0 then
      checked s h [(1, grpBits d), (2, collActive (grpOf s g))] fun s => completeCmd { s with groups := Tbl.del s.groups g } h 0
    else checked s h (grpChecks s d) fun s => completeCmd (putGrp s g (grpOfBlock d)) h 0)

end Sys2Proof.Machine
end

