-- ==== Sys2Proof/Machine/Drove.lean ====
section
/-!
DEFINITION. Sys2Proof/Machine/Drove.lean: drove channels (R465 to R478): opening and closing, sends entry by entry, delivery into the
receivers' rings, release, stalls and breaks.
-/

namespace Sys2Proof.Machine

def drvOf (s : State) (c : Nat) : DrvSt := Tbl.get {} s.drv c
def putDrv (s : State) (c : Nat) (x : DrvSt) : State := { s with drv := Tbl.put s.drv c x }
def updDrv (s : State) (c : Nat) (f : DrvSt → DrvSt) : State := putDrv s c (f (drvOf s c))

/-- Entry size E (R466). -/
def drvE (x : DrvSt) : Nat := 16 + 4 * x.k
def drvSlots (x : DrvSt) : Nat := 2 ^ x.log2slots
/-- W of R467. -/
def drvW (x : DrvSt) : Nat := 32 - Nat.log2 x.rcvUnits.length
/-- Receiver and local index of sequence number q (R467). -/
def drvPlace (x : DrvSt) (q : Nat) : Nat × Nat :=
  let g := q / 2 ^ x.log2g
  let n := x.rcvUnits.length
  (g % n, (g / n * 2 ^ x.log2g + q % 2 ^ x.log2g) % 2 ^ drvW x)

def rcvOf (x : DrvSt) (r : Nat) : DrvRcv := Tbl.get {} x.rcv r
def transitBytes (x : DrvSt) : Nat := x.transit.length * drvE x

/-! ## Opening and closing -/

/-- Table 12.11. -/
def drvOfBlock (x : Ctx) (d : List W64) : DrvSt :=
  { st := .opened, sreg := wf d 0 55 52, rreg := wf d 0 51 48, k := 4 * (wf d 0 47 42 + 1), log2g := wf d 0 41 38
    log2slots := wf d 0 37 34, sigen := wf d 0 33 33 == 1, sigw := wf d 0 32 29, tbuf := wf d 0 28 20
    sctx := wf d 1 63 52, rctx := wf d 1 51 40, handle := wf d 2 47 12, ringOff := wf d 3 22 0, ctlOff := wf d 4 22 0
    rcvUnits := (x.units.foldl NSet.ins []).filter (fun u => regionOf u == wf d 0 51 48) }

def drvReserved (d : List W64) : Bool :=
  wf d 0 19 0 != 0 || wf d 1 39 0 != 0 || wf d 2 63 48 != 0 || wf d 2 11 0 != 0 || wf d 3 63 23 != 0 || wf d 4 63 23 != 0
  || wf d 3 11 0 != 0 || wf d 4 4 0 != 0 || wd d 5 != 0 || wd d 6 != 0 || wd d 7 != 0 || decide (12 < wf d 0 41 38)
  || wf d 0 37 34 == 0 || decide (13 < wf d 0 37 34) || wf d 0 28 20 == 0 || decide (256 < wf d 0 28 20)

/-- Channels that are not closed, other than c. -/
def otherDrv (s : State) (c : Nat) : List DrvSt := (s.drv.filter (fun p => p.1 != c && p.2.st != .closed)).map (·.2)

def drvOpenChecks (s : State) (d : List W64) : List (Nat × Bool) :=
  let c := wf d 0 63 58
  let sc := ctxOf s (wf d 1 63 52)
  let rc := ctxOf s (wf d 1 51 40)
  let x := drvOfBlock (rc.getD {}) d
  let into := (otherDrv s c).filter (fun y => y.rreg == x.rreg)
  let ring := drvSlots x * drvE x
  [(1, drvReserved d || (drvOf s c).st != .closed),
   (2, match sc, rc with
     | some a, some b => a.part != b.part || !(a.units.any (fun u => regionOf u == x.sreg))
     | _, _ => true),
   (3, !([1, 2, 4, 8, 16].contains x.rcvUnits.length)),
   (4, x.handle == 0 || (sc.map (fun a => (findExt a (x.handle * 4096)).isSome)).getD false
     || (otherDrv s c).any (fun y => y.sctx == x.sctx && y.handle == x.handle)),
   (5, (rc.map (fun b => !(inShare b x.ringOff ring && inShare b x.ctlOff 16))).getD true
     || (decide (x.ringOff < x.ctlOff + 16) && decide (x.ctlOff < x.ringOff + ring))),
   (6, decide (x.tbuf * 65536 < drvE x)
     || decide ((scOf s x.rreg).droveWays * 2 ^ 21 < ((into.map (·.tbuf)).foldl (· + ·) 0 + x.tbuf) * 65536)),
   (7, decide (16 ≤ into.length))]

/-- Every send of a channel still in a queue of its sending context, with its unit and queue. -/
def drvSends (s : State) (c : Nat) : List (Nat × Nat × MvEnt) :=
  match ctxOf s (drvOf s c).sctx with
  | none => []
  | some x => x.units.flatMap (fun u => match resOf s u (drvOf s c).sctx with
    | none => []
    | some r => r.core.mq.flatMap (fun m => (m.2.ents.filter (fun e => e.kind == .droveSend && e.elem == c)).map (fun e => (u, m.1, e))))

/-- Sends in progress or waiting complete with CODE 0x01 and the bytes delivered (R475). (Log entry 51: DESIGN CHOICE.) -/
def endSends (s : State) (c : Nat) : State :=
  (drvSends s c).foldl (fun s p =>
    if live s (drvOf s c).sctx && !p.2.2.finished then
      completeMv s (.res p.1 (drvOf s c).sctx) p.2.1 { p.2.2 with code := 1, detail := p.2.2.written }
    else s) s

/-- Nothing waits or is in transit any more. -/
def drvStill (now : W64) (x : DrvSt) (st : DrvState) : DrvSt := { dropWaits now x (fun _ => true) with st := st, transit := [] }

/-- The channel is closed; the close commands that waited for it complete. -/
def drvClosed (s : State) (c : Nat) : State :=
  let s1 := updDrv (endSends s c) c (fun y => { drvStill s.time.now y .closed with jobs := [] })
  (drvOf s c).jobs.foldl (fun s j => finishJob s j 0 0 0) s1

/-- Zeros into FILL and RELEASE of every receiver (R466). -/
def clearCtl (s : State) (x : DrvSt) : State :=
  match ctxOf s x.rctx with
  | none => s
  | some r => x.rcvUnits.foldl (fun s u => (shareWrite s r u x.ctlOff (zeros 16)).1) s

/-- Log entry 51: DESIGN CHOICE. -/
def execDrove (s : State) : Out :=
  .next (withCur s 0x20 fun h s =>
    let d := blockWords h
    let c := wf d 0 63 58
    if wf d 0 57 57 = 1 then
      checked s h (drvOpenChecks s d) fun s =>
        let x := drvOfBlock ((ctxOf s (wf d 1 51 40)).getD {}) d
        completeCmd (clearCtl (putDrv s c x) x) h 0
    else if (drvOf s c).st = .closed then completeCmd s h 0
    else if wf d 0 56 56 = 1 || (drvOf s c).transit.isEmpty then completeCmd (drvClosed s c) h 0
    else updDrv s c (fun y => { y with st := .closing, jobs := y.jobs ++ [h.job] }))

/-- A close without FORCE completes when transit is empty (R476). (Log entry 51: DESIGN CHOICE.) -/
def execDroveCloseDrained (ch : Nat) (s : State) : Out :=
  .next (if (drvOf s ch).st == .closing && (drvOf s ch).transit.isEmpty then drvClosed s ch else s)

/-! ## Sends (R469, R470) -/

/-- Acceptance of a send. (Log entry 51: DESIGN CHOICE.) -/
def acceptSend (s : State) (t : Hart) (x : Ctx) (q : Nat) (e : QEnt) : State :=
  match droveOf s (hartCtx s t) (cap e (iQB e.w)) with
  | none => s
  | some c =>
    let y := drvOf s c
    let a := (cap e (iQA e.w)).toNat
    let n := (cap e (iQC e.w)).toNat
    if regionOf (hartUnit s t) ≠ y.sreg ∨ n = 0 ∨ n % drvE y ≠ 0 ∨ a % 16 ≠ 0 ∨ 2 ^ 32 ≤ n then faultEnt s t fQueue e
    else if shareSize x < a + n then faultEnt s t fExtent e
    else updMv s t q e.seq (fun m => { m with kind := .droveSend, sp := .share, src := a, rowBytes := drvE y, rows := n / drvE y,
                                              total := n, elem := c, row := 0, off := 0 })

/-- R468: NK is no more than K, and the reserved fields are zero. (Log entry 51: DESIGN CHOICE.) -/
def entryOk (k : Nat) (bs : List Byte) : Bool :=
  let f := leNat ((bs.drop 8).take 2)
  decide (f ≤ k) && leNat ((bs.drop 12).take 4) == 0

/-- What stands in an entry's way (R470): stale or a duplicate, no credit or no transit space, nothing. -/
inductive Leave where
  | bad | wait | go
  deriving DecidableEq, Repr

def leaveOf (x : DrvSt) (r l : Nat) : Leave :=
  let w := drvW x
  let y := rcvOf x r
  let d := subMod w l y.release
  if 2 ^ (w - 1) ≤ d then .bad
  else if drvSlots x ≤ d then .wait
  else if decide (d < subMod w y.fill y.release) || y.ahead.contains l || x.transit.any (fun z => z.rcv == r && z.l == l) then .bad
  else if x.tbuf * 65536 < transitBytes x + drvE x then .wait
  else .go

/-- The next entry of a send, in order (R469, R470). -/
def sendEntry (s : State) (t : Hart) (x : Ctx) (q : Nat) (e : MvEnt) : State :=
  let c := e.elem
  let y := drvOf s c
  let a := localAddr s t x (e.src + e.row * e.rowBytes)
  if y.st != .opened || !(issues s t) then s
  else if rawPoison s a e.rowBytes then faultEnt s t fPoison e.ent
  else
    let bs := memBytes s a e.rowBytes
    let p := drvPlace y (leNat (bs.take 4))
    if !(entryOk y.k bs) then faultEnt (updMv s t q e.ent.seq (fun m => { m with stop := true })) t fQueue e.ent
    else match leaveOf y p.1 p.2 with
      | .bad => faultEnt (updMv s t q e.ent.seq (fun m => { m with stop := true })) t fQueue e.ent
      | .wait =>
        if y.waits.any (fun z => z.unit == hartUnit s t && z.q == q && z.seq == e.ent.seq) then s
        else putDrv s c { y with waits := y.waits ++ [{ unit := hartUnit s t, q := q, seq := e.ent.seq }]
                                 waitFrom := some (y.waitFrom.getD s.time.now) }
      | .go =>
        let s1 := updDrv s c (fun y => { y with
          transit := y.transit ++ [{ rcv := p.1, l := p.2, bytes := bs, unit := hartUnit s t, q := q, seq := e.ent.seq }] })
        updMv (sendMoves s1 c (hartUnit s t) q e.ent.seq) t q e.ent.seq (fun m => { m with row := m.row + 1 })

/-- A send is accepted at its place of beginning; one under way sends its next entry. -/
def execDroveSend (h q : Nat) (s : State) : Out :=
  .next (withHart s h fun t k x =>
    match issueEnt (mqOf k q) with
    | some e => if e.kind == .droveSend && (mqOf k q).cancel.isNone then sendEntry s t x q e else s
    | none => withBegin s h q (isMv 1) fun t _ x e => if isSend s t e && !(isPush t x e) then acceptSend s t x q e else s)

/-! ## Delivery (R471) -/

/-- FILL after the entries present above it are taken in. -/
def advanceFill (w : Nat) : Nat → DrvRcv → DrvRcv
  | 0, y => y
  | fuel + 1, y =>
    if y.ahead.contains y.fill then advanceFill w fuel { y with ahead := NSet.del y.ahead y.fill, fill := (y.fill + 1) % 2 ^ w } else y

/-- The sender's entry has one more entry in its ring; a send completes with its last (R469). -/
def sendWritten (s : State) (c : Nat) (z : DrvEnt) : State :=
  updMv s (.res z.unit (drvOf s c).sctx) z.q z.seq (fun m =>
    let w := m.written + m.rowBytes
    { m with written := w, finished := decide (m.total ≤ w) })

/-- Log entry 52: DESIGN CHOICE. -/
def deliver (s : State) (c : Nat) (z : DrvEnt) : State :=
  let x := drvOf s c
  let u := x.rcvUnits.getD z.rcv 0
  let y := rcvOf x z.rcv
  let y1 := advanceFill (drvW x) (y.ahead.length + 2) { y with ahead := NSet.ins y.ahead z.l }
  let x1 : DrvSt := { x with transit := x.transit.tail, rcv := Tbl.put x.rcv z.rcv y1, delivered := x.delivered + 1 }
  match ctxOf s x.rctx with
  | none => s
  | some r =>
    let w := shareWrite (putDrv s c x1) r u (x.ringOff + z.l % drvSlots x * drvE x) z.bytes
    let n := subMod (drvW x) y1.fill y.fill
    let f := if n = 0 then (w.1, false) else shareWrite w.1 r u x.ctlOff (leBytes 8 y1.fill)
    let s1 := sendWritten f.1 c z
    let s2 := if n ≠ 0 ∧ x.sigen then sendAdd s1 (64 + regionOf u) u x.rctx x.sigw n else s1
    if w.2 || f.2 then bump (raiseFault s2 x.rctx fPoison ((Config.freeWord s2.freeCtr).toNat % 2 ^ 48) u none) else s2

/-- The first entry in transit reaches its ring. -/
def execDroveEntryDeliver (ch : Nat) (s : State) : Out :=
  .next (let x := drvOf s ch
    if x.st == .opened || x.st == .closing then
      (match x.transit with
       | [] => s
       | z :: _ => deliver s ch z)
    else s)

/-! ## Release, stall, break -/

/-- The device takes a receiver's RELEASE word as it stands (R472); the PC of a fault it raises is not stated. (Log entry 52: DESIGN CHOICE.) -/
def execDroveRelease (ch rcv : Nat) (s : State) : Out :=
  .next (let x := drvOf s ch
    let u := x.rcvUnits.getD rcv 0
    let fail (k : Nat) : State := bump (raiseFault s x.rctx k ((Config.freeWord s.freeCtr).toNat % 2 ^ 48) u none)
    if (x.st == .closed) || decide (x.rcvUnits.length ≤ rcv) then s
    else match ctxOf s x.rctx with
      | none => s
      | some r =>
        if r.faulted then s
        else if rawPoison s (shareAddr r u (x.ctlOff + 8)) 8 then fail fPoison
        else
          let w := drvW x
          let v := leNat (memBytes s (shareAddr r u (x.ctlOff + 8)) 8)
          let y := rcvOf x rcv
          if 2 ^ w ≤ v ∨ 2 ^ (w - 1) ≤ subMod w v y.release ∨ 2 ^ (w - 1) ≤ subMod w y.fill v then fail fQueue
          else putDrv s ch { x with rcv := Tbl.put x.rcv rcv { y with release := v } })

/-- The first wait without its event has it raised. -/
def markStalled : List DrvWait → List DrvWait
  | [] => []
  | z :: l => if z.stalled then z :: markStalled l else { z with stalled := true } :: l

/-- An entry has waited 10 ms: one event for each wait (R470). (Log entry 7: DESIGN CHOICE.) -/
def execDroveStall (ch : Nat) (s : State) : Out :=
  .next (let x := drvOf s ch
    if x.st == .opened && x.waits.any (fun z => !z.stalled) then
      raiseEv (putDrv s ch { x with waits := markStalled x.waits }) 0x0410 clsWarning (argC x.sctx + ch) 0
    else s)

/-- A context that has faulted or is gone. -/
def ctxGone (s : State) (c : Nat) : Bool :=
  match ctxOf s c with
  | none => true
  | some x => x.faulted || x.stopped

/-- A channel breaks (R475): transit dropped, sends ended, the event; a close in progress then completes. -/
def breakDrove (s : State) (c : Nat) : State :=
  let x := drvOf s c
  let fill (r : Nat) : Nat := (rcvOf x r).fill % 2 ^ 32
  let s1 := updDrv (endSends s c) c (fun y => drvStill s.time.now y .broken)
  let s2 := raiseEv s1 0x0411 clsError c (fill 0 + fill 1 * 2 ^ 32)
  if x.st == .closing then drvClosed s2 c else s2

/-- The channels of a context that is removed break (R475). -/
def breakOf (s : State) (c : Nat) : State :=
  s.drv.foldl (fun s p =>
    if (p.2.st == .opened || p.2.st == .closing) && (p.2.sctx == c || p.2.rctx == c) then breakDrove s p.1 else s) s

def execDroveBreak (ch : Nat) (s : State) : Out :=
  .next (let x := drvOf s ch
    if (x.st == .opened || x.st == .closing) && (ctxGone s x.sctx || ctxGone s x.rctx) then breakDrove s ch else s)

end Sys2Proof.Machine
end

