-- ==== Sys2Proof/Machine/Lifecycle.lean ====
section
/-!
DEFINITION. Sys2Proof/Machine/Lifecycle.lean: what a restart and a loss of V12 leave (R603, R605, R607, R652, R685, R697, R698), the
record and the supplement applied over it (R589 to R592), and the spares of a stack (R639).
-/

namespace Sys2Proof.Machine

def updTrust (s : State) (f : TrustSt → TrustSt) : State := { s with trust := f s.trust }
def updFlt (s : State) (f : FltSt → FltSt) : State := { s with flt := f s.flt }
def updPwr (s : State) (f : PwrSt → PwrSt) : State := { s with pwr := f s.pwr }
def updHost (s : State) (f : HostSt → HostSt) : State := { s with host := f s.host }

/-! ## Spares of a stack (Table 17.4) -/

/-- The reserves, in the order in which banks are taken from them. -/
def reserves : List Nat := [65, 64]

/-- Banks a reserve has given. -/
def bankUse (y : SeSt) (r : Nat) : Nat := (y.bankSpares.filter (fun p => p.2 / 64 == r)).length

/-- The reserve that gives the next bank spare: reserve 65 while it has a bank, then 64; one that replaces a pseudo-channel gives none. (Log entry 80: DESIGN CHOICE.) -/
def bankReserve (y : SeSt) : Option Nat :=
  reserves.find? (fun r => y.pcSpares.all (fun p => p.2 != r) && decide (bankUse y r < 64))

/-- An unused reserve for a whole pseudo-channel. (Log entry 80: DESIGN CHOICE.) -/
def pcReserve (y : SeSt) : Option Nat := [64, 65].find? (fun r => y.pcSpares.all (fun p => p.2 != r) && bankUse y r == 0)


def takeRow (y : SeSt) (a : Nat) : SeSt :=
  { y with rowsSpared := y.rowsSpared + 1, rowSpares := Tbl.set 0 y.rowSpares (hbmBank a) (Tbl.get 0 y.rowSpares (hbmBank a) + 1) }

/-- Log entry 80: DESIGN CHOICE. -/
def takeBank (y : SeSt) (a : Nat) : SeSt :=
  match bankReserve y with
  | none => y
  | some r => { y with bankSpares := Tbl.put y.bankSpares (hbmBank a) (r * 64 + bankUse y r) }

/-- Log entry 80: DESIGN CHOICE. -/
def takePc (y : SeSt) (a : Nat) : SeSt :=
  match pcReserve y with
  | none => y
  | some r => { y with pcSpares := Tbl.put y.pcSpares (hbmPc a) r }

/-! ## The record and the supplement -/

/-- A repair takes effect. Kinds: 0 the spare site serves a LUN, 1 a unit is retired, 2 a unit's site failed, 3 a lane of a port is spared
(16 × port + lane), 4 to 6 an HBM row, bank or pseudo-channel is spared. (Log entry 79: DESIGN CHOICE.) -/
def applyRepair (s : State) (kind a : Nat) : State :=
  match kind with
  | 0 => updFlt (updUnit s a (fun x => { x with en := true, spareIn := true, quar := .inService }))
      (fun f => { f with spareUsed := f.spareUsed ||| BitVec.ofNat 16 (2 ^ regionOf a) })
  | 1 => updUnit s a (fun x => { x with en := false, quar := .retired })
  | 2 => updUnit s a (fun x => { x with en := false, quar := .quarantined })
  | 3 => updPort s (a / 16) (fun x => { x with laneFail := a % 16, spareIn := true })
  | 4 => updSe s (stackOf a) (fun y => takeRow y a)
  | 5 => updSe s (stackOf a) (fun y => takeBank y a)
  | _ => updSe s (stackOf a) (fun y => takePc y a)

/-- The record in use takes effect: repair map, lane map, HBM sparing, enabled units, refresh thresholds (R7, R589, Table 16.3). -/
def applyRecord (s : State) : State :=
  let r := (runCfg s.trust).items
  let s1 := r.spares.foldl (fun s u => applyRepair s 0 u) s
  let s2 := r.lanes.foldl (fun s p => applyRepair s 3 (p.1 * 16 + p.2)) s1
  let s3 := r.hbm.foldl (fun s p => applyRepair s (4 + p.1) p.2) s2
  let s4 := r.disabled.foldl (fun s u => updUnit s u (fun x => { x with en := false })) s3
  updHost s4 (fun h => { h with t2 := r.t2, t4 := r.t4, holdC := r.holdC })

/-- The record, then over it the supplement's entries in order, as far as they verify and up to SUPP_SEQ (R589, R591, R592). -/
def applySupp (s : State) : State := (appliedEnts s.trust).foldl (fun s e => applyRepair s e.kind e.arg) (applyRecord s)

/-! ## Restart and loss of V12 -/

/-- Host memory, which is the host's, and the poison it marks there. -/
def hostMem (s : State) : List Host.Cell := s.mem.filter (fun c => isHost c.1)
def hostPoison (s : State) : List Nat := s.poison.filter isHost

/-- What the keeping store keeps through a restart (R587, R607). (Log entry 89: DEDUCED.) -/
def kept (t : TrustSt) : TrustSt :=
  { helper := t.helper, sealed := t.sealed, cert := t.cert, writes := t.writes, fwA := t.fwA, fwB := t.fwB, cfgA := t.cfgA, cfgB := t.cfgB
    supp := t.supp, fwSvn := t.fwSvn, cfgSvn := t.cfgSvn, kemGen := t.kemGen, suppSeq := t.suppSeq, sigNext := t.sigNext, serial := t.serial }

/-- The device starts again from step 1 of Table 16.8 (R607): all volatile state is at its reset value; the record of the last trip stays
(R652), and so do the supplies and what lies outside the device. -/
def restart (s : State) : State :=
  { State.reset with
    pending := s.pending, mem := hostMem s, poison := hostPoison s, trust := kept s.trust, freeCtr := s.freeCtr
    pwr := { State.reset.pwr with tripped := s.pwr.tripped, tripStack := s.pwr.tripStack, tripDie := s.pwr.tripDie, thermtrip := s.pwr.thermtrip
                                  v12 := s.pwr.v12, v3 := s.pwr.v3, refclk := s.pwr.refclk } }

/-- Start-up has passed step 4: a record is in use. -/
def booted (t : TrustSt) : Bool := t.phase != 0 && t.phase != 6 && t.phase != 7

/-- What is left when V12 is gone: the lark domain, the steward controllers and the keeping store run on (R603, R685, R698). (Log entry 89: DEDUCED.) -/
def standbyRest (s : State) : State :=
  let t := s.trust
  let p := s.pwr
  { State.reset with
    pending := s.pending, mem := hostMem s, poison := hostPoison s, freeCtr := s.freeCtr, time := s.time
    trust := { kept t with phase := if booted t then 1 else t.phase
                           fail := if t.phase = 6 ∨ t.phase = 7 ∨ t.fail = 4 then t.fail else 0, suppBad := t.suppBad, cfgSlot := t.cfgSlot
                           fwSlot := t.fwSlot, identOk := t.identOk, kPuf := t.kPuf, seed := t.seed, retest := t.retest, bootMs := t.bootMs }
    flt := { beat0 := s.flt.beat0, beat1 := s.flt.beat1, resets0 := s.flt.resets0, resets1 := s.flt.resets1, down0 := s.flt.down0
             down1 := s.flt.down1, resetAt := s.flt.resetAt, heldDown := s.flt.heldDown, owed := s.flt.owed
             pkgHold := s.flt.heldDown.map (fun n => 4 + n) }
    pwr := { srIdle := p.srIdle, energy := p.energy, tripped := p.tripped, tripStack := p.tripStack, tripDie := p.tripDie, tC := p.tC
             level := p.level, tripDieC := p.tripDieC, tripStackC := p.tripStackC, dieMax := p.dieMax, thermtrip := p.thermtrip, v12 := p.v12
             v3 := p.v3, refclk := p.refclk, st := .off } }

/-- V12 is gone. The package is Off, and start-up stands before step 5 with the record and supplement applied. (Log entry 89: DEDUCED.) -/
def loseV12 (s : State) : State := if booted s.trust then applySupp (standbyRest s) else standbyRest s

/-- A package event is owed until the host port is Up (R698, R699, R703). -/
def owePackage (s : State) (src : Nat) : State := updFlt s (fun f => { f with owed := f.owed ++ [src] })

end Sys2Proof.Machine
end

