-- ==== Sys2Proof/Machine/Ports.lean ====
section
/-!
DEFINITION. Sys2Proof/Machine/Ports.lean: the Rhoef ports (R512 to R519, R644, R645): link words, replay, port states, lane sparing; and
the fabric registers with behaviour of their own (R525, R531, R532, R535, R559).
-/

namespace Sys2Proof.Machine

/-! ## Port states (Table 14.3) -/

/-- Packets a port drops when it leaves Up (R519). -/
def portHeld (x : PortSt) : Nat := x.txq.length + x.replayBuf.length

/-- A port has left Up, and TSEQ values of its trunk may never come: what is held for them goes on in TSEQ order, and the next ORD packet
gives the value to expect. (Log entry 106: DESIGN CHOICE.) -/
def resync (s : State) (p : Nat) : State :=
  let t := rxTrunk s p
  let e := Tbl.get 0 s.fab.rxT t
  let held := (s.fab.rxHold.filter (fun q => q.key == t)).foldl (fun l q => Tbl.put l (subMod 16 q.hdr.tseq e) q) []
  updFab s (fun f => { f with
    rxT := Tbl.put f.rxT t 65536
    rxWait := f.rxWait ++ held.map (·.2)
    rxHold := f.rxHold.filter (fun q => q.key != t) })

/-- The port enters Down or Disabled: what it holds is dropped and counted. -/
def portOff (s : State) (p : Nat) (st : PortState) : State :=
  updPort (if isUp s p then resync s p else s) p (fun x => { x with
    st := st, txq := [], replayBuf := [], replays := [], words := [], offs := [], stamps := [], rxBad := false, unacked := 0
    drops := x.drops + BitVec.ofNat 64 (portHeld x) })

/-- Up to Down, with the link-down event. -/
def portDown (s : State) (p : Nat) : State := raiseEv (portOff s p .down) 0x0603 clsError p (portHeld (portOf s p))

/-- Training starts: IDENT goes out, and a spare lane takes the place of a lane recorded as failed (R644). -/
def startTraining (s : State) (p : Nat) : State :=
  updPort s p (fun x => sendWord { x with st := .training, words := [], spareIn := x.spareIn || x.laneFail != 15 } 0 [s.fab.devId, p, 0xB0])

/-- The port leaves the trunk whose other ports report another neighbour (R527). (Log entry 56: DESIGN CHOICE.) -/
def trunkCheck (s : State) (p t : Nat) : State :=
  let ps := trunkPorts s t
  if ps.contains p && ps.any (fun q => q != p && isUp s q && (portOf s q).nbDev != (portOf s p).nbDev) then
    raiseEv (updFab s (fun f => { f with
      trunkErr := true
      trunk := Tbl.set 0 f.trunk t (Tbl.get 0 f.trunk t &&& ~~~(BitVec.ofNat 12 (2 ^ p))) })) 0x0605 clsError (t * 16 + p) 0
  else s

/-- The neighbour's IDENT completes training. A port that lost a second lane does not complete it (R645). -/
def execIdent (p dev port : Nat) (s : State) : Out :=
  .next (let x := portOf s p
    if x.st == .training && !x.secondLane then
      let s1 := setPort s p { x with st := .up, nbDev := dev, nbPort := port, lseq := 0, rxSeq := 0, credits := [], kaCount := 0, nbStratum := 255 }
      (List.range 12).foldl (fun s t => trunkCheck s p t) (raiseEv s1 0x0601 clsNotice p (port * 2 ^ 20 + dev))
    else s)

/-- R515. (Log entry 7: DESIGN CHOICE.) -/
def execLinkSilence (p : Nat) (s : State) : Out := .next (if isUp s p then portDown s p else s)

/-- Training restarts; the event at most once per 10 s (Table 14.3). (Log entry 7: DESIGN CHOICE.) -/
def execTrainingTimeout (p : Nat) (s : State) : Out :=
  .next (let x := portOf s p
    if x.st == .training then
      let s1 := startTraining s p
      let due := match x.trainWarn with
        | none => true
        | some t => decide (160000000000 ≤ (s.time.now - t).toNat)
      if due then raiseEv (updPort s1 p (fun y => { y with trainWarn := some s.time.now })) 0x0602 clsWarning p 0 else s1
    else s)

def execPortRetrain (p : Nat) (s : State) : Out := .next (if (portOf s p).st == .down then startTraining s p else s)

/-! ## Link words (Table 14.2) -/

/-- A KEEPALIVE is answered with its count (R514); `ce` codewords have been corrected since the last (PORT_FEC_CE, Table 14.12). -/
def execKeepalive (p count ce : Nat) (s : State) : Out :=
  .next (if isUp s p then updPort s p (fun x => { sendWord x 2 [count % 65536] with fecCe := x.fecCe + BitVec.ofNat 64 ce }) else s)

/-- The count echoed last. -/
def execAnswer (p count : Nat) (s : State) : Out :=
  .next (if isUp s p then updPort s p (fun x => { x with ansCount := count % 65536 }) else s)


/-- Credits of a class and virtual channel come back, and packets that waited for them go (R523). (Log entry 53: DESIGN CHOICE.) -/
def execCredit (p cls vc amount : Nat) (s : State) : Out :=
  .next (if isUp s p then
      updPort s p (fun x => drainTx { x with credits := Tbl.set 0 x.credits (cls * 2 + vc) (Tbl.get 0 x.credits (cls * 2 + vc) + amount) })
    else s)

/-- Link sequence q is at or behind seq. -/
def seqCovered (seq q : Nat) : Bool := decide (subMod 16 seq q < 2 ^ 15)

/-- ACKSEQ frees the packets it covers (R517). -/
def execAckseq (p seq : Nat) (s : State) : Out :=
  .next (if isUp s p then
      updPort s p (fun x => drainTx { x with replayBuf := x.replayBuf.filter (fun k => !(seqCovered seq k.lseq))
                                             replays := x.replays.filter (fun r => !(seqCovered seq r.1)) })
    else s)

/-- The packets from a link sequence on go out again; one replayed 16 times takes the port down (R517, R518). (Log entry 54: DESIGN CHOICE.) -/
def execReplay (p seq : Nat) (s : State) : Out :=
  .next (if isUp s p then
      let x := portOf s p
      let again := x.replayBuf.filter (fun k => seqCovered k.lseq seq)
      let counts := again.foldl (fun r k => Tbl.put r k.lseq (Tbl.get 0 r k.lseq + 1)) x.replays
      let s1 := setPort s p { x with replays := counts, replayC := x.replayC + BitVec.ofNat 64 again.length
                                     txBytes := x.txBytes + BitVec.ofNat 64 (listBytes again) }
      if counts.any (fun r => decide (16 ≤ r.2)) then portDown s1 p else s1
    else s)

/-- The port by which a packet of a type would leave for a device. -/
def outPort (s : State) (ord : Bool) (typ dst : Nat) : Option Nat :=
  match routeOf s dst with
  | none => none
  | some e =>
    if ord then (let t := fld (pathWord s e) 63 60
      if t = 15 then none else trunkPort s t { typ := typ, ord := true, dst := dst })
    else leastQueued s (pathPorts s e)

/-- The copy of a packet found bad while this device forwards it goes out with an inverted CRC: it counts as bytes sent, and takes no link
sequence and no TSEQ. (Log entry 107: DESIGN CHOICE.) -/
def badCopy (s : State) (ord : Bool) (typ dst n : Nat) : State :=
  if dst = s.fab.devId then s
  else match outPort s ord typ dst with
    | none => s
    | some o => updPort s o (fun x => { x with txBytes := x.txBytes + BitVec.ofNat 64 (32 + 16 * ((n + 15) / 16)) })

/-- A packet arrives bad (R517): it and all later ones are discarded, and REPLAY asks for the first not received whole. A later packet
sends no second REPLAY. A copy that the neighbour itself ended with an inverted CRC is discarded and no more: its good copy follows. (Log entry 107: DESIGN CHOICE.) -/
def execPacketCrcError (p seq : Nat) (fec inv cut ord : Bool) (typ dst n : Nat) (s : State) : Out :=
  .next (let x := portOf s p
    let y : PortSt := { x with fecUe := if fec then x.fecUe + 1 else x.fecUe }
    if !(isUp s p) || inv then s
    else
      let s1 := if !x.rxBad || seq % 65536 == x.rxSeq then setPort s p (sendWord { y with rxBad := true } 6 [x.rxSeq]) else setPort s p y
      if cut then badCopy s1 ord typ dst n else s1)

/-! ## Lane sparing (R644, R645) -/

/-- Lanes 0 to 7 are in use, and lane 8 in the place of the failed one once it is spared. (Log entry 54: DESIGN CHOICE.) -/
def laneUsed (x : PortSt) (lane : Nat) : Bool := if lane = 8 then x.spareIn else decide (lane < 8) && !(x.spareIn && lane == x.laneFail)

/-- Log entry 54: DESIGN CHOICE. -/
def execLaneFail (p lane : Nat) (s : State) : Out :=
  .next (let x := portOf s p
    if x.st == .disabled || !(laneUsed x lane) then s
    else if x.spareIn then updPort (portOff s p .disabled) p (fun y => { y with en := false, secondLane := true })
    else if bit (s.flt.arm.setWidth 64) 4 then
      (if repairsWait s then s
       else
         let s1 := if x.st == .up then portDown s p else portOff s p .down
         let s2 := updPort s1 p (fun y => { y with laneFail := lane, spareIn := true })
         raiseEv (appendSupp s2 3 (p * 16 + lane)) 0x0909 clsNotice (lane * 16 + p) 0)
    else updPort (portOff s p .disabled) p (fun y => { y with en := false, laneFail := lane }))

/-! ## Registers of the fabric block -/

def anyCtx (s : State) : Bool := !s.ctxs.isEmpty
def portsDisabled (s : State) : Bool := s.ports.all (fun p => p.2.st == .disabled)

/-- R525. -/
def execDevId (v : W64) (s : State) : Out :=
  .next (if portsDisabled s && !(anyCtx s) then updFab s (fun f => { f with devId := fld v 19 0 }) else s)

/-- R531. A write that leaves MODE as it is writes no mode. (Log entry 58: DEDUCED.) -/
def execRouteCtl (v : W64) (s : State) : Out :=
  .next (let q := lquiet s
    updFab s (fun f =>
      let chg := bit v 0 != f.mode
      { f with hold := bit v 1, mode := if q then bit v 0 else f.mode, modeErr := (f.modeErr && !(bit v 2)) || (chg && !q) }))

/-- R516, R519. (Log entry 58: DEDUCED.) -/
def execPortCtl (p : Nat) (v : W64) (s : State) : Out :=
  .next (if p < 12 then
      let s1 := updPort s p (fun x => { x with en := bit v 0 })
      if bit v 0 then (if (portOf s p).st == .disabled && s.fab.devId != 0xFFFFF then startTraining s1 p else s1)
      else if (portOf s p).st == .disabled then s1 else portOff s1 p .disabled
    else s)

/-- The stored bits of RT_RANGE and RT_PATH (Table 14.13). -/
def rangeMask (v : W64) : W64 := v &&& 0xC00FFFFFFFFFFFFF#64
def pathMask (v : W64) : W64 := v &&& 0xF000000000000000#64

/-- R532. -/
def execRtRange (e : Nat) (path : Bool) (v : W64) (s : State) : Out :=
  .next (if e < 256 then
      updFab s (fun f => if path then { f with rtPath := Tbl.set 0 f.rtPath e (pathMask v) } else { f with rtRange := Tbl.set 0 f.rtRange e (rangeMask v) })
    else s)

/-- R535: within HBM or the unit-store windows, clear of every defined set and of every generation. -/
def winLegal (s : State) (a n : Nat) : Bool :=
  (decide (a + n ≤ hbmEnd) || (decide (usWin ≤ a) && decide (a + n ≤ usWinEnd)))
  && !(s.sets.any (fun p => isDefined p.2 && overlaps (setRanges p.2) [(a, n)])) && !(s.adp.any (fun p => overlaps (adpRanges p.2) [(a, n)]))

def winA (v : W64) : W64 := v &&& 0xE000FFFFFFFFF000#64
def winS (v : W64) : W64 := v &&& 0x000000003FFFFFFF#64
def winR (v : W64) : W64 := v &&& 0x000000FFFFFFFFFF#64

/-- R559: a window that the write leaves enabled is checked, and a failing write changes nothing but WIN_ERR. (Log entry 58: DEDUCED.) -/
def execRxWin (w field : Nat) (v : W64) (s : State) : Out :=
  .next (if w < 64 then
      let f := s.fab
      let a := if field = 0 then winA v else Tbl.get 0 f.winA w
      let z := if field = 1 then winS v else Tbl.get 0 f.winS w
      let r := if field = 2 then winR v else Tbl.get 0 f.winR w
      if bit a 63 && !(winLegal s (fld a 47 12 * 4096) (fld z 29 0 * 4096)) then updFab s (fun f => { f with winErr := true })
      else updFab s (fun f => { f with winA := Tbl.set 0 f.winA w a, winS := Tbl.set 0 f.winS w z, winR := Tbl.set 0 f.winR w r })
    else s)

end Sys2Proof.Machine
end

