-- ==== Sys2Proof/Machine/Power.lean ====
section
/-!
DEFINITION. Sys2Proof/Machine/Power.lean: clock islands, gating and sleep (R666 to R671), package power states (R672 to R674), sensors,
refresh, holds, throttling and THERMTRIP (R314 to R316, R675 to R685).
-/

namespace Sys2Proof.Machine

/-! ## Throttle levels (R679, R680) -/

def cmdLevelOf (s : State) (d : Nat) : Nat := Tbl.get 0 s.pwr.cmdLevel d
def armedLevelOf (s : State) (d : Nat) : Nat := if s.pwr.armedOn.contains d then s.pwr.level else 0
def appliedLevel (s : State) (d : Nat) : Nat := max (cmdLevelOf s d) (armedLevelOf s d)

/-- The die of an island. -/
def islandDie (i : Nat) : Nat := islandRegion i / 2

/-- Running islands of a die (Table 1.2: 8 clusters and 2 spare sites a die). -/
def dieIslands (s : State) (d : Nat) : List Nat := s.pwr.islands.filter (fun i => islandDie i == d)

/-- Commands of THROTTLE whose dies have no island left to relock complete (R678). (Log entry 87: DESIGN CHOICE.) -/
def throttleDone (s : State) : State :=
  let done (p : Nat × Job) : Bool := s.pwr.relock.all (fun i => !(p.1.testBit (islandDie i)))
  let js := s.pwr.throttle.filter done
  js.foldl (fun s p => finishJob s p.2 0 0 0) (updPwr s (fun w => { w with throttle := w.throttle.filter (fun p => !(done p)) }))

/-- A change of level: every running island of a die whose applied level changed stops and relocks (R682). (Log entry 87: DESIGN CHOICE.) -/
def withLevels (s : State) (f : State → State) : State :=
  let s1 := f s
  let cs := ((List.range 8).filter (fun d => appliedLevel s1 d != appliedLevel s d)).flatMap (dieIslands s1)
  throttleDone (updPwr s1 (fun w => { w with relock := cs.foldl NSet.ins w.relock }))


/-- Log entry 87: DESIGN CHOICE. -/
def execThrottle (s : State) : Out :=
  .next (withCur s 0x3C fun h s =>
    let dies := hf h 2 7 0
    let lvl := hf h 2 9 8
    checked s h [(1, hf h 2 63 10 != 0 || [3, 4, 5, 6, 7].any (fun i => wd h.ws i != 0)), (2, dies == 0),
        (3, (bitList 8 dies).any (dieOutOf s))] fun s =>
      withLevels (updPwr s (fun w => { w with throttle := w.throttle ++ [(dies, h.job)] })) (fun s =>
        updPwr s (fun w => { w with cmdLevel := (bitList 8 dies).foldl (fun t d => Tbl.set 0 t d lvl) w.cmdLevel })))

def execLevelChangeRelock (cl : Nat) (s : State) : Out :=
  .next (if s.pwr.relock.contains cl then throttleDone (updPwr s (fun w => { w with relock := NSet.del w.relock cl })) else s)

/-! ## Islands (R667, R668) -/

/-- An island starts: it takes its die's level. (Log entry 92: DESIGN CHOICE.) -/
def execIslandStart (cl : Nat) (s : State) : Out := .next (startIsland s cl)

def islandOff (s : State) (cl : Nat) : State :=
  throttleDone (updPwr s (fun w => { w with islands := NSet.del w.islands cl, relock := NSet.del w.relock cl }))

/-- The units that an island clocks. -/
def islandUnits (s : State) (i : Nat) : List Nat :=
  (List.range 16).map (fun k => 16 * islandRegion i + k) |>.filter (fun u => islandOf s u == i)

/-- A resident has a wake pending: it is Ready and waits for its unit, or what it waits for has come (R29). -/
def wakePends (s : State) (u c : Nat) (r : Res) : Bool :=
  live s c && !r.held && (r.st == .ready || (match ctxOf s c, r.core.wait with
    | some x, .sleep _ v _ => (sleepReason r v (condSource s u x r v) (timedOut s r) false).isSome
    | _, .bar _ level => (Tbl.find? r.barDone level).isSome
    | _, _ => false))

/-- A mover transfer that has been issued reaches the unit store of unit u. -/
def storeAccess (s : State) (u : Nat) : Bool :=
  s.res.any (fun p => (ctxOf s (p.1 % 4096)).any (fun x => p.2.core.mq.any (fun q => q.2.ents.any (fun e => e.out.any (fun f =>
    (endPieces s (.res (p.1 / 4096) (p.1 % 4096)) x f.sp f.sa f.len ++ endPieces s (.res (p.1 / 4096) (p.1 % 4096)) x f.dp f.da f.len).any
      (fun d => isUs d.1 && (d.1 - usWin) / 0x1000000 == u))))))

/-- A unit needs its clock: a running context, a pending wake, or an access to its store (R29). -/
def needsClock (s : State) (u : Nat) : Bool :=
  (unitOf s u).running.isSome || (residents s u).any (fun p => wakePends s u p.1 p.2) || storeAccess s u

/-- R668: none of the island's units needs its clock; that 10 µs have passed is the command's to say. -/
def execIslandStop (cl : Nat) (s : State) : Out :=
  .next (if (islandUnits s cl).any (needsClock s) then s else islandOff s cl)

/-! ## Regions and stacks asleep (R34, R670, R671) -/

def regionUnits (r : Nat) : List Nat := (List.range 16).map (fun i => 16 * r + i)

/-- R34. -/
def mayGate (s : State) (r : Nat) : Bool :=
  (regionUnits r).all (fun u => (residents s u).isEmpty)
  && (Tbl.get {} s.smp r).cmds.isEmpty
  && s.drv.all (fun p => p.2.st == .closed || (p.2.sreg != r && p.2.rreg != r))
  && s.heldData.all (fun b => b / 2048 / 16 != r)

def execRegionGate (r : Nat) (s : State) : Out :=
  .next (if s.pwr.st == .saving && mayGate s r && !(s.pwr.gated.contains r) then
      islandOff ((List.range 4).foldl (fun s i => islandOff s (4 * r + i)) (updPwr s (fun w => { w with gated := NSet.ins w.gated r }))) (64 + r)
    else s)

/-- Zeros into a unit's store and operand cache; every held-data bit of the store is cleared (R37, R671). -/
def zeroUnit (s : State) (u : Nat) : State :=
  let s1 := zeroRange (zeroRange s (usAddr u 0) 0x800000) (ocAddr u 0) 0x100000
  { s1 with heldData := s1.heldData.filter (fun b => b / 2048 != u) }

/-- A gated region wakes (R671); one of a die out of service has no power (R41). -/
def execRegionWake (r : Nat) (s : State) : Out :=
  .next (if s.pwr.gated.contains r && !(dieOutOf s (r / 2)) then
      let s1 := (regionUnits r).foldl zeroUnit (updPwr s (fun w => { w with gated := NSet.del w.gated r }))
      let cs := (List.range 4).map (fun i => 4 * r + i)
      updFlt (updPwr s1 (fun w => { w with islands := cs.foldl NSet.ins w.islands, starts := w.starts + 4 }))
        (fun f => { f with clkFault := f.clkFault.filter (fun i => !(cs.contains i)) })
    else s)

/-- A stack that no command uses goes into self-refresh in Saving. -/
def execStackSelfRefresh (st : Nat) (s : State) : Out :=
  .next (let y := seOf s st
    if s.pwr.st == .saving && y.cmds.isEmpty && y.copying.isNone && !y.failed then setSe s st { y with selfRef := true } else s)

def execStackSrExit (st : Nat) (s : State) : Out := .next (updSe s st (fun y => { y with selfRef := false }))

/-! ## Package power states (R673, R674) -/

def standbyBlocked (s : State) : Bool :=
  anyCtx s || s.sets.any (fun p => isDefined p.2) || s.adp.any (fun p => p.2.cur.isSome || p.2.ret.isSome)
  || s.drv.any (fun p => p.2.st != .closed) || s.ports.any (fun p => p.2.st != .disabled)

/-- Compute dies and stacks lose power: every byte they held is lost, nothing runs there. (Log entry 88: DESIGN CHOICE.) -/
def dropCompute (s : State) : State :=
  { s with
    mem := hostMem s, poison := hostPoison s, count := [], heldData := [], lines := [], signals := []
    units := s.units.map (fun p => (p.1, { p.2 with icache := [], deferred := [], epoch := 0, recEpoch := 0 }))
    hbm := {}
    se := s.se.map (fun p => (p.1, { withCmds s.time.now p.2 [] with
      inst := [], regns := [], held := false, selfRef := false, copying := none, blocked := [] }))
    pwr := { s.pwr with islands := [], gated := [], relock := [], armedOn := [] } }

def powerSt (v : Nat) : PwrState := if v = 0 then .active else if v = 1 then .saving else .standby

/-- Log entry 88: DESIGN CHOICE. -/
def execPowerState (s : State) : Out :=
  .next (withCur s 0x3D fun h s =>
    let v := hf h 2 1 0
    checked s h [(1, v == 3 || hf h 2 63 2 != 0 || [3, 4, 5, 6, 7].any (fun i => wd h.ws i != 0)), (2, v == 2 && standbyBlocked s),
        (3, s.pwr.job.isSome)] fun s =>
      if v = 2 then completeCmd (updPwr (dropCompute s) (fun w => { w with st := .standby })) h 0
      else if s.pwr.st = .standby then updPwr s (fun w => { w with job := some h.job, jobTo := powerSt v })
      else completeCmd (updPwr s (fun w => { w with st := powerSt v })) h 0)

/-- Log entry 88: DESIGN CHOICE. -/
def execStandbyReturnComplete (s : State) : Out :=
  .next (match s.pwr.job with
    | none => s
    | some j => finishJob (updPwr s (fun w => { w with st := w.jobTo, job := none })) j 0 0 0)

/-! ## Refresh and holds (R314 to R316) -/

/-- The rate that a temperature calls for (Table 7.8). -/
def riseRate (h : HostSt) (t : Nat) : Nat := if t ≤ h.t2 then 1 else if t ≤ h.t4 then 2 else 4

/-- The rate after a reading: a rise at once, a fall only 3 °C below the threshold it recrosses. (Log entry 86: DESIGN CHOICE.) -/
def nextRate (h : HostSt) (rate t : Nat) : Nat :=
  if rate ≤ riseRate h t then riseRate h t
  else if t + 3 ≤ h.t2 then 1
  else if rate = 4 ∧ t + 3 ≤ h.t4 then 2
  else rate

/-- Log entry 86: DESIGN CHOICE. -/
def readStack (s : State) (st t : Nat) : State :=
  let y := seOf s st
  let r := if repairsWait s then y.rate else nextRate s.host y.rate t
  let s1 := setSe s st { y with temp := t, rate := r }
  let s2 := if r = max 1 y.rate || r = 0 then s1 else raiseEv s1 0x0203 clsNotice (t * 2 ^ 16 + r * 2 ^ 8 + st) 0
  if !y.held && decide (s.host.holdC < t) then
    raiseEv (updSe s2 st (fun y => { y with held := true })) 0x0204 clsCritical (t * 2 ^ 16 + st) 0
  else if y.held && decide (t + 3 ≤ s.host.holdC) then
    raiseEv (updSe s2 st (fun y => { y with held := false })) 0x0205 clsNotice (t * 2 ^ 16 + st) 0
  else s2

/-- R315. -/
def execRefThr (v : W64) (s : State) : Out :=
  .next (
    let take (w reset old : Nat) : Nat := if reset < w then old else w
    let t2 := take (fld v 7 0) 85 s.host.t2
    let t4 := take (fld v 15 8) 95 s.host.t4
    let hc := take (fld v 23 16) 105 s.host.holdC
    if t2 < t4 ∧ t4 < hc then updHost s (fun h => { h with t2 := t2, t4 := t4, holdC := hc }) else s)

/-! ## The armed throttle and THERMTRIP (R679, R684, R685) -/

def dieTempOf (s : State) (d : Nat) : Nat := Tbl.get 0 s.pwr.dieTemp d

/-- The armed level comes into or leaves effect on a compute die. -/
def armDie (s : State) (d : Nat) : State :=
  let t := dieTempOf s d
  if !(s.pwr.armedOn.contains d) && decide (s.pwr.tC ≤ t) then
    raiseEv (updPwr s (fun w => { w with armedOn := NSet.ins w.armedOn d })) 0x0A03 clsWarning 1 0
  else if s.pwr.armedOn.contains d && decide (t + 5 ≤ s.pwr.tC) then
    raiseEv (updPwr s (fun w => { w with armedOn := NSet.del w.armedOn d })) 0x0A03 clsWarning 0 0
  else s

def armDies (s : State) : State := (List.range 8).foldl armDie s

/-- Log entry 87: DESIGN CHOICE. -/
def execThArm (v : W64) (s : State) : Out :=
  .next (withLevels s (fun s =>
    let c := fld v 23 16
    armDies (updPwr s (fun w => { w with tC := if 60 ≤ c ∧ c ≤ 105 then c else w.tC, level := fld v 1 0 }))))

/-- A threshold may be lowered, but not below its limit. -/
def lowered (lo old v : Nat) : Nat := if lo ≤ v ∧ v ≤ old then v else old

def execThTrip (v : W64) (s : State) : Out :=
  .next (updPwr s (fun w => { w with tripDieC := lowered 110 w.tripDieC (fld v 15 8), tripStackC := lowered 106 w.tripStackC (fld v 7 0) }))

/-- Sensors: 16 of each compute die, 4 of each I/O die (dies 8 and 9), one of each stack (dies 10 and above). -/
def sensorDie (i : Nat) : Nat := if i < 128 then i / 16 else if i < 136 then 8 + (i - 128) / 4 else 10 + (i - 136)
def dieSensors (d : Nat) : List Nat := (List.range 160).filter (fun i => sensorDie i == d)
/-- Log entry 85: DESIGN CHOICE. -/
def nSensors : Nat := 160

/-- The sensor that trips: two consecutive readings at its threshold. (Log entry 85: DESIGN CHOICE.) -/
def tripSensor (s : State) (ts : List Nat) : Option Nat :=
  (List.range nSensors).find? (fun i =>
    let c := if i < 136 then s.pwr.tripDieC else s.pwr.tripStackC
    decide (c ≤ s.pwr.sensors.getD i 0) && decide (c ≤ ts.getD i 0))

/-- R685: the pin, the record, and the loss of everything on V12. (Log entry 85: DESIGN CHOICE.) -/
def thermTrip (s : State) (i : Nat) : State :=
  let d := sensorDie i
  updPwr (loseV12 s) (fun w => { w with thermtrip := true, tripped := true, tripDie := if d < 10 then d else 31
                                        tripStack := if d < 10 then 31 else d - 10 })

def readDie (s : State) (ts : List Nat) (d : Nat) : State :=
  let t := (dieSensors d).foldl (fun m i => max m (ts.getD i 0)) 0
  updPwr s (fun w => { w with dieTemp := Tbl.set 0 w.dieTemp d t, dieMax := Tbl.set 0 w.dieMax d (max (Tbl.get 0 w.dieMax d) t) })

/-- The power meters: what they read is not stated. (Log entry 85: DESIGN CHOICE.) -/
def readMeters (s : State) : State :=
  bump (bump (updPwr s (fun w => { w with v12w := (Config.freeWord s.freeCtr).toNat % 2 ^ 16, energy := w.energy + Config.freeWord (s.freeCtr + 1) })))

/-- One reading of every sensor, in °C. (Log entry 85: DESIGN CHOICE.) -/
def execSensorRead (temps : List Nat) (s : State) : Out :=
  .next (
    let s1 := readMeters ((List.range 10).foldl (fun s d => readDie s temps d) s)
    match tripSensor s1 temps with
    | some i => if s.pwr.thermtrip then s1 else thermTrip s1 i
    | none =>
      let s2 := (List.range 24).foldl (fun s st => readStack s st (temps.getD (136 + st) 0)) s1
      withLevels (updPwr s2 (fun w => { w with sensors := (List.range nSensors).map (fun i => temps.getD i 0) })) armDies)

end Sys2Proof.Machine
end

