-- ==== Sys2Proof/Machine/Slots.lean ====
section
/-!
DEFINITION. Sys2Proof/Machine/Slots.lean: weight sets (R449 to R453), model slots (R454 to R458), set-receive (R499), adapter slots (R501 to
R505): the definitions, admissions, switches and releases that the host commands.
-/

namespace Sys2Proof.Machine

/-! ## States of a set -/

/-- The set Live in a slot (R454). -/
def liveIn (s : State) (n : Nat) : Option Nat := Tbl.find? s.slots n

/-- A turn holds its slot and its target from its arm until it is Done or Idle. -/
def turnArmed (t : TurnSt) : Bool := t.st == .emitting || t.st == .gathering || t.st == .held

/-- A set-send is under way for the set (R500). -/
def sending (s : State) (n : Nat) : Bool := s.sends.any (fun x => x.set == n)

/-- The set is the target of an armed turn or of an open receive. -/
def targeted (s : State) (n : Nat) : Bool :=
  s.turns.any (fun p => turnArmed p.2 && p.2.tgtSet == n) || (setOf s n).rxOpen

/-- Epochs that a set in slot n is compared with (R453): the Live set's, and those of turn targets armed on the slot. -/
def slotEpochs (s : State) (n : Nat) : List (BitVec 16) :=
  (match liveIn s n with
   | none => []
   | some v => [(setOf s v).epoch]) ++ ((s.turns.filter (fun p => turnArmed p.2 && p.2.tgtSlot == n)).map (fun p => p.2.tgtEpoch))

/-- R453: the epoch-approach event, once for each Live or Draining set. -/
def approachSets (s : State) : State :=
  s.sets.foldl (fun s p =>
    let x := setOf s p.1
    match x.slot with
    | none => s
    | some n =>
      if !x.warned && (x.st == .live || x.st == .draining) && (slotEpochs s n).any (fun e => lags x.epoch e) then
        raiseEv (putSet s p.1 { x with warned := true }) 0x0402 clsWarning (x.epoch.toNat * 2 ^ 12 + p.1) 0
      else s) s

/-- A set becomes Complete from Filling: the home slices drop its lines (Table 12.4). -/
def setFilled (s : State) (n : Nat) : State :=
  let x := setOf s n
  slicesWrite (putSet s n { x with st := .complete, rxOpen := false }) (setRanges x)

/-- A set leaves its slot with its last batch. -/
def setRetired (x : SetSt) : SetSt := { x with st := .complete, slot := none, warned := false }

/-! ## Definition and removal -/

def shardsOf (sz : Nat) : Nat := (sz * 4096 + 2 ^ 26 - 1) / 2 ^ 26

/-- What a weight-set descriptor gives for stack s: SIZE and SHARD0. -/
def entSize (d : List W64) (s : Nat) : Nat := wf d (8 + 2 * s) 29 0
def entShard (d : List W64) (s : Nat) : Nat := wf d (9 + 2 * s) 31 0

def setReserved (d : List W64) : Bool :=
  wf d 0 31 0 != 0 || decide (3 < wf d 0 39 36) || decide (14 < wf d 0 35 32) || wf d 1 63 48 != 0 || wf d 1 47 37 != 0 || wf d 1 11 0 != 0
  || wf d 2 63 24 != 0 || wf d 3 63 32 != 0 || !(zeroWords d [4, 5, 6, 7])
  || (List.range 24).any (fun s => wf d (8 + 2 * s) 63 30 != 0 || wf d (9 + 2 * s) 63 32 != 0
      || (wf d 3 31 0 == 0 && entShard d s != 0))

def setOfDesc (d : List W64) : SetSt :=
  let sts := bitList 24 (wf d 2 23 0)
  { st := .empty, epoch := BitVec.ofNat 16 (wf d 0 55 40), layout := wf d 0 39 36, fmt := wf d 0 35 32, offset := wf d 1 47 12 * 4096
    stackSet := wf d 2 23 0, nshard := wf d 3 31 0
    sizes := sts.foldl (fun t s => Tbl.set 0 t s (entSize d s)) []
    shard0 := sts.foldl (fun t s => Tbl.set 0 t s (entShard d s)) [] }

/-- The shards of a set lie on its stacks exactly once (R450, check 6): ranges within 0 to NSHARD − 1, disjoint, NSHARD in all. -/
def shardsCover (x : SetSt) : Bool :=
  let rs := (bitList 24 x.stackSet).map (fun s => (Tbl.get 0 x.shard0 s, shardsOf (Tbl.get 0 x.sizes s)))
  rs.all (fun r => decide (r.1 + r.2 ≤ x.nshard)) && (rs.map (·.2)).foldl (· + ·) 0 == x.nshard
  && rs.zipIdx.all (fun p => (rs.drop (p.2 + 1)).all (fun q => !(overlap p.1 q)))

def setDefineChecks (s : State) (d : List W64) : List (Nat × Bool) :=
  let x := setOfDesc d
  [(1, setReserved d), (2, isDefined (setOf s (wf d 0 63 56))),
   (3, (List.range 24).any (fun st => (wf d 2 23 0).testBit st != decide (0 < entSize d st))),
   (4, (List.range 24).any (fun st => decide (2 ^ 37 < x.offset + entSize d st * 4096))),
   (5, s.sets.any (fun p => isDefined p.2 && overlaps (setRanges p.2) (setRanges x))),
   (6, x.nshard != 0 && !(shardsCover x))]

def execSetDefine (s : State) : Out :=
  .next (withCur s 0x10 fun h s =>
    let d := blockWords h
    checked s h (setDefineChecks s d) fun s => completeCmd (putSet s (wf d 0 63 56) (setOfDesc d)) h 0)

/-- Loads and reloads of a set's shards stop (R620, R643). (Log entry 48: DESIGN CHOICE.) -/
def stopLoads (s : State) (n : Nat) : State :=
  { s with trust := { s.trust with
      loads := s.trust.loads.map (fun l => if l.set = n then { l with stop := true } else l)
      reloads := s.trust.reloads.map (fun l => if l.set = n then { l with stop := true } else l) } }

def loading (s : State) (n : Nat) : Bool := s.trust.loads.any (fun l => l.set == n) || s.trust.reloads.any (fun l => l.set == n)

/-- The digest registrations of the shards that start in a range go (R617). -/
def dropRegns (s : State) (r : Nat × Nat) : State :=
  updSe s (stackOf r.1) (fun y => { y with regns := y.regns.filter (fun g => decide (g.src < r.1) || decide (r.1 + r.2 ≤ g.src)) })

/-- Removal of an Empty, Filling or Complete set (Table 12.4). It takes effect once the set's loads and reloads have stopped and completed;
until then the command stays the current one. (Log entry 48: DESIGN CHOICE.) -/
def execSetRemove (s : State) : Out :=
  .next (match s.host.cur with
    | none => s
    | some h =>
      let n := hf h 2 7 0
      let x := setOf s n
      if h.job.opc = 0x11 ∧ isDefined x ∧ x.st ≠ .live ∧ x.st ≠ .draining ∧ loading s n = true then stopLoads s n
      else withCur s 0x11 fun h s =>
        checked s h [(1, !(isDefined x) || x.st == .live || x.st == .draining)] fun s =>
          completeCmd (putSet ((setRanges x).foldl dropRegns s) n {}) h 0)

/-! ## Admission, switch, release -/

/-- The check of R456 that fails for an admission into slot n. -/
def admitCheck (s : State) (n c off : Nat) : Option Nat :=
  firstFail [(1, (liveIn s n).isNone), (2, !(isLoaded s c)), (3, !(recordOk s c off)),
    (4, match liveIn s n with
      | none => true
      | some v => decide (65535 ≤ (setOf s v).inflight))]

/-- An admission (R456): INFLIGHT, and the binding record on every unit of the context's set, its stamp last. -/
def admitTo (s : State) (v c off batch : Nat) : State :=
  let x := setOf s v
  writeRecord (putSet s v { x with inflight := x.inflight + 1 }) c off
    [batch * 2 ^ 32 + x.epoch.toNat * 2 ^ 16 + v, x.layout * 2 ^ 60 + x.fmt * 2 ^ 56 + x.offset, x.stackSet, stampNow s]

def execSlotAdmit (s : State) : Out :=
  .next (withCur s 0x12 fun h s =>
    let n := hf h 2 63 58
    match admitCheck s n (hf h 2 57 46) (hf h 2 22 0), liveIn s n with
    | none, some v =>
      let s1 := admitTo s v (hf h 2 57 46) (hf h 2 22 0) (hf h 3 31 0)
      completeCmd s1 h (setOf s1 v).inflight
    | some k, _ => rejectCmd s h k
    | none, none => rejectCmd s h 1)

/-- The check of R457 that fails for a switch of slot n to set v; a set with FAILED = 1 is not switched to (R621). (Log entry 48: DESIGN CHOICE.) -/
def switchCheck (s : State) (n v : Nat) (force : Bool) : Option Nat :=
  let x := setOf s v
  firstFail [(1, !((x.st == .complete && !(setFailed x)) || (force && x.st == .draining))),
    (2, s.slots.any (fun p => p.2 == v && p.1 != n)),
    (3, !force && (match liveIn s n with
      | none => false
      | some o => !(newer x.epoch (setOf s o).epoch)))]

/-- The slot switches (R457, Table 12.4). -/
def doSwitch (s : State) (n v : Nat) (force : Bool) : State :=
  let s1 := match liveIn s n with
    | none => s
    | some o => if o = v then s else updSet s o (fun x => if x.inflight = 0 then setRetired x else { x with st := .draining })
  let s2 := updSet { s1 with slots := Tbl.put s1.slots n v } v (fun x => { x with st := .live, slot := some n })
  approachSets (if force then raiseEv s2 0x0403 clsWarning (n * 2 ^ 8 + v) 0 else s2)

/-- Log entry 48: DESIGN CHOICE. -/
def execSlotSwitch (s : State) : Out :=
  .next (withCur s 0x13 fun h s =>
    let n := hf h 2 63 58
    let force := hf h 2 57 57 == 1
    match switchCheck s n (hf h 2 7 0) force with
    | some k => rejectCmd s h k
    | none => completeCmd (doSwitch s n (hf h 2 7 0) force) h 0)

/-- R458. -/
def release (s : State) (v count : Nat) : State :=
  let x := setOf s v
  let y : SetSt := { x with inflight := x.inflight - count }
  if y.inflight = 0 ∧ x.st = .draining then
    raiseEv (putSet s v (setRetired y)) 0x0401 clsNotice (x.epoch.toNat * 2 ^ 8 + v) 0
  else putSet s v y

def execSlotRelease (s : State) : Out :=
  .next (withCur s 0x14 fun h s =>
    let v := hf h 2 7 0
    let n := hf h 2 31 16
    checked s h [(0, n == 0), (1, decide ((setOf s v).inflight < n))] fun s => completeCmd (release s v n) h 0)

/-! ## Set-receive (R499) -/

/-- Log entry 48: DESIGN CHOICE. -/
def execSetReceive (s : State) : Out :=
  .next (withCur s 0x15 fun h s =>
    let v := hf h 2 7 0
    let x := setOf s v
    let ep : BitVec 16 := BitVec.ofNat 16 (hf h 2 23 8)
    let sw := hf h 2 24 24 == 1
    if hf h 2 25 25 = 1 then completeCmd (putSet s v { x with rxOpen := false }) h 0
    else
      checked s h [(0, !(within 1 4096 (hf h 3 44 32))), (1, !(x.st == .empty || x.st == .complete)), (2, targeted s v || sending s v),
          (3, sw && (match liveIn s (hf h 2 31 26) with
            | none => false
            | some o => !(newer ep (setOf s o).epoch)))] fun s =>
        completeCmd (putSet s v { x with st := .filling, epoch := ep, rxOpen := true, rxDev := hf h 3 19 0, rxTags := hf h 3 44 32,
                                         rxSw := sw, rxSlot := hf h 2 31 26, rxGot := [] }) h 0)

/-- The receive is whole: the set is Complete, the event is raised, and with SW the slot switches under R457 (R499). -/
def receiveDone (s : State) (v : Nat) : State :=
  let x := setOf s v
  if x.st == .filling && x.rxOpen && (x.rxGot.filter (fun p => p.2.whole)).length == x.rxTags then
    let s1 := raiseEv (setFilled s v) 0x040A clsNotice v 0
    if x.rxSw && (switchCheck s1 x.rxSlot v false).isNone then doSwitch s1 x.rxSlot v false else s1
  else s

/-! ## Adapters -/

def putAdp (s : State) (a : Nat) (x : AdpSt) : State := { s with adp := Tbl.put s.adp a x }

def genOf (h : HostCmd) : AdpGen :=
  { gen := BitVec.ofNat 16 (hf h 2 51 36), rank := hf h 2 35 28, fmt := hf h 2 27 24, stackSet := hf h 2 23 0, offset := hf h 3 47 12 * 4096
    size := hf h 4 29 0, alpha := BitVec.ofNat 32 (hf h 5 63 32) }

/-- A retiring generation whose batches are all released is gone (Table 13.11). -/
def retireGen (s : State) (a : Nat) : State :=
  let x := adpOf s a
  match x.ret with
  | none => s
  | some g =>
    if g.inflight = 0 then raiseEv (putAdp s a { x with ret := none }) 0x0501 clsNotice (g.gen.toNat * 2 ^ 12 + a) 0 else s

/-- R505: the epoch-approach event, once for a retiring generation. -/
def approachGen (s : State) (a : Nat) : State :=
  let x := adpOf s a
  match x.cur, x.ret with
  | some c, some g =>
    if !g.warned && lags g.gen c.gen then
      raiseEv (putAdp s a { x with ret := some { g with warned := true } }) 0x0402 clsWarning (2 ^ 31 + g.gen.toNat * 2 ^ 12 + a) 0
    else s
  | _, _ => s

/-- Log entry 66: DESIGN CHOICE. -/
def adpDefineChecks (s : State) (h : HostCmd) : List (Nat × Bool) :=
  let g := genOf h
  let x := adpOf s (hf h 2 63 52)
  [(1, !([16, 32, 48, 64].contains g.rank) || !(operandFmt g.fmt) || hf h 3 63 37 != 0 || hf h 3 11 0 != 0
        || hf h 4 63 30 != 0 || hf h 5 31 0 != 0 || decide (2 ^ 37 < g.offset + g.size * 4096)),
   (2, x.cur.any (fun c => !(newer g.gen c.gen))), (3, x.ret.isSome),
   (4, s.sets.any (fun p => isDefined p.2 && overlaps (setRanges p.2) (genRanges g)) || s.adp.any (fun p => overlaps (adpRanges p.2) (genRanges g)))]

def execAdpDefine (s : State) : Out :=
  .next (withCur s 0x18 fun h s =>
    let a := hf h 2 63 52
    checked s h (adpDefineChecks s h) fun s =>
      completeCmd (retireGen (approachGen (putAdp s a { cur := some (genOf h), ret := (adpOf s a).cur }) a) a) h 0)

def execAdpRemove (s : State) : Out :=
  .next (withCur s 0x19 fun h s =>
    let a := hf h 2 63 52
    let x := adpOf s a
    checked s h [(1, x.cur.isNone), (2, x.ret.isSome)] fun s =>
      completeCmd (retireGen (putAdp s a { cur := none, ret := x.cur }) a) h 0)

/-- R503: the conditions of R456 with the current generation in the place of the Live set. -/
def execAdpAdmit (s : State) : Out :=
  .next (withCur s 0x1A fun h s =>
    let a := hf h 2 63 52
    let c := hf h 2 51 40
    let off := hf h 2 22 0
    let x := adpOf s a
    match x.cur with
    | none => rejectCmd s h 1
    | some g =>
      checked s h [(2, !(isLoaded s c)), (3, !(recordOk s c off)), (4, decide (65535 ≤ g.inflight))] fun s =>
        completeCmd (writeRecord (putAdp s a { x with cur := some { g with inflight := g.inflight + 1 } }) c off
          [hf h 3 31 0 * 2 ^ 32 + g.gen.toNat * 2 ^ 16 + a, g.fmt * 2 ^ 56 + g.rank * 2 ^ 48 + g.offset,
           g.alpha.toNat * 2 ^ 32 + g.stackSet, stampNow s]) h (g.inflight + 1))

def execAdpRelease (s : State) : Out :=
  .next (withCur s 0x1B fun h s =>
    let a := hf h 2 63 52
    let n := hf h 2 15 0
    let gen : BitVec 16 := BitVec.ofNat 16 (hf h 2 51 36)
    let x := adpOf s a
    let isCur := x.cur.any (fun g => g.gen == gen)
    let isRet := x.ret.any (fun g => g.gen == gen)
    let held (g : Option AdpGen) : Nat := (g.map (·.inflight)).getD 0
    checked s h [(0, n == 0), (1, !isCur && !isRet), (2, decide (held (if isCur then x.cur else x.ret) < n))] fun s =>
      let less (g : AdpGen) : AdpGen := { g with inflight := g.inflight - n }
      completeCmd (retireGen (putAdp s a (if isCur then { x with cur := x.cur.map less } else { x with ret := x.ret.map less })) a) h 0)

end Sys2Proof.Machine
end

