-- ==== Sys2Proof/Machine/Serving.lean ====
section
/-!
DEFINITION. Sys2Proof/Machine/Serving.lean: the deadline monitor (R506 to R510): streams, token reports, reasons, diverts.
-/

namespace Sys2Proof.Machine

def streamOf (s : State) (n : Nat) : StreamSt := Tbl.get {} s.streams n
def putStream (s : State) (n : Nat) (x : StreamSt) : State := { s with streams := Tbl.put s.streams n x }

/-! ## Opening and closing (R506) -/

def strReserved (d : List W64) : Bool :=
  wf d 0 29 0 != 0 || wf d 2 31 23 != 0 || wf d 3 31 23 != 0 || wf d 4 63 5 != 0 || !(zeroWords d [5, 6, 7])

def strOpenChecks (s : State) (d : List W64) : List (Nat × Bool) :=
  let c := wf d 0 41 30
  [(1, (streamOf s (wf d 0 63 50)).st != .closed), (2, !(isLoaded s c)), (3, !(recordOk s c (wf d 2 22 0)) || !(recordOk s c (wf d 3 22 0))),
   (4, wf d 1 63 32 == 0 || wf d 1 31 0 == 0), (5, decide (wf d 1 63 32 ≤ wf d 2 63 32) || decide (wf d 1 31 0 ≤ wf d 2 63 32))]

def execStream (s : State) : Out :=
  .next (withCur s 0x1C fun h s =>
    let d := blockWords h
    let n := wf d 0 63 50
    if strReserved d then rejectCmd s h 0
    else if wf d 0 49 49 = 0 then completeCmd (putStream s n {}) h 0
    else checked s h (strOpenChecks s d) fun s =>
      completeCmd (putStream s n
        { st := .waiting, arm := wf d 0 48 48 == 1, fbSlot := wf d 0 47 42, ctx := wf d 0 41 30, ttft := wf d 1 63 32, itl := wf d 1 31 0
          margin := wf d 2 63 32, divOff := wf d 2 22 0, batch := wf d 3 63 32, fbBind := wf d 3 22 0, sigen := wf d 4 4 4 == 1
          sigw := wf d 4 3 0, tAdm := s.time.now }) h 0)

/-- A context is removed: its streams close, each with an event (R506). -/
def closeStreams (s : State) (c : Nat) : State :=
  s.streams.foldl (fun s p =>
    if p.2.st != .closed && p.2.ctx == c then raiseEv (putStream s p.1 {}) 0x0505 clsNotice (p.1 * 2 ^ 18) 0 else s) s

/-! ## Reports (R507) and reasons (R508) -/

/-- Microseconds in fabric time. -/
def usTime (n : Nat) : W64 := BitVec.ofNat 64 (n * 16000)

/-- The deadline a reason speaks of. -/
def deadlineOf (x : StreamSt) (reason : Nat) : W64 :=
  if reason = 1 ∨ reason = 0x11 then x.tAdm + usTime x.ttft else x.tLast + usTime x.itl

def deadlineEv (s : State) (n reason : Nat) (dl : W64) : State := raiseEv s 0x0502 clsWarning (n * 2 ^ 18 + reason) dl.toNat

/-- Nanoseconds from t to now. -/
def nsSince (s : State) (t : W64) : Nat := (s.time.now - t).toNat / 16

/-- A token report (R507): T_last, ITA, the state, and reason 0x12 of a report that comes late. (Log entry 43: DESIGN CHOICE.) -/
def dlmReport (s : State) (c n tokens : Nat) : State :=
  let x := streamOf s n
  if x.st == .closed || x.ctx != c then { s with stray := s.stray + 1 }
  else
    let d := nsSince s x.tLast / tokens
    let ita := if x.intervals = 0 then d else (x.ita + ((d : Int) - x.ita).tdiv 8).toNat
    let first := x.reports = 0
    let y : StreamSt := { x with
      st := if x.st == .waiting then .streaming else x.st
      tLast := s.time.now
      ita := if first then 0 else ita
      intervals := if first then 0 else x.intervals + 1
      reports := x.reports + 1
      approach := false
      reported := x.reported.filter (fun r => decide (4 ≤ r)) }
    if !first && s.dlmEn && decide (x.itl * 1000 < d) && !(x.reported.contains 0x12) then
      deadlineEv (putStream s n { y with reported := NSet.ins y.reported 0x12, last := 0x12 }) n 0x12 (deadlineOf x 0x12)
    else putStream s n y

/-- The first predicted-miss reason that holds (Table 13.14). A Diverted stream counts as Waiting until its first report. (Log entry 43: DESIGN CHOICE.) -/
def predicted (s : State) (x : StreamSt) : Option Nat :=
  if x.reports = 0 then
    (if decide ((x.ttft - x.margin) * 1000 ≤ nsSince s x.tAdm) then some 1 else none)
  else if decide ((x.itl - x.margin) * 1000 ≤ nsSince s x.tLast) then some 2
  else if 4 ≤ x.intervals ∧ x.itl * 1000 < x.ita then some 3
  else none

/-- A divert (R510): admission into the fallback slot, the divert record with its stamp last, the signal. (Log entry 43: DESIGN CHOICE.) -/
def divert (s : State) (n v reason : Nat) (dl : W64) : State :=
  let x := streamOf s n
  let s1 := admitTo s v x.ctx x.fbBind x.batch
  let ep := (setOf s v).epoch.toNat
  let s2 := writeRecord s1 x.ctx x.divOff
    [n * 2 ^ 50 + x.fbSlot * 2 ^ 44 + v * 2 ^ 36 + ep * 2 ^ 20 + reason, dl.toNat, if x.reports = 0 then 0 else x.tLast.toNat, stampNow s]
  let s3 := if x.sigen then (match ctxOf s2 x.ctx with
      | none => s2
      | some c => c.units.foldl (fun s u => addSignal s u x.ctx x.sigw 1) s2) else s2
  raiseEv { s3 with diverts := s3.diverts + 1 } 0x0503 clsNotice (n * 2 ^ 18 + x.fbSlot * 2 ^ 8) (ep * 2 ^ 8 + v)

/-- A predicted miss: the event, and where it is armed the divert or its failure (Table 13.15). -/
def predict (s : State) (n reason : Nat) : State :=
  let x := streamOf s n
  let dl := deadlineOf x reason
  let y : StreamSt := { x with reported := NSet.ins x.reported reason, last := reason }
  if x.arm && x.st != .diverted then
    match admitCheck s x.fbSlot x.ctx x.fbBind, liveIn s x.fbSlot with
    | none, some v => divert (deadlineEv (putStream s n { y with st := .diverted }) n reason dl) n v reason dl
    | k, _ => raiseEv (putStream s n y) 0x0504 clsWarning (n * 2 ^ 18 + k.getD 1) 0
  else deadlineEv (putStream s n y) n reason dl

/-- The time a stream holds lags fabric time by 2^62: the warning of R664, once until the stream reports a token (R665). -/
def approachStream (s : State) (n : Nat) : State :=
  let x := streamOf s n
  let t := if x.reports = 0 then x.tAdm else x.tLast
  if !x.approach && decide (2 ^ 62 ≤ (s.time.now - t).toNat) then
    raiseEv (putStream s n { x with approach := true }) 0x0A01 clsWarning 2 n
  else s

/-- One stream at an examination. (Log entry 43: DESIGN CHOICE.) -/
def examine (s0 : State) (n : Nat) : State :=
  if (streamOf s0 n).st == .closed then s0
  else
    let s := approachStream s0 n
    let x := streamOf s n
    let s1 := match predicted s x with
      | none => s
      | some r => if x.reported.contains r then s else predict s n r
    let y := streamOf s1 n
    if y.reports = 0 && decide (y.ttft * 1000 ≤ nsSince s1 y.tAdm) && !(y.reported.contains 0x11) then
      deadlineEv (putStream s1 n { y with reported := NSet.ins y.reported 0x11, last := 0x11 }) n 0x11 (deadlineOf y 0x11)
    else s1

/-- The monitor examines every open stream (R508), while DLM_CTL.EN is 1 (Table 13.17). -/
def execDlmExamine (t : W64) (s : State) : Out :=
  .next (let s1 := advance s t
    if s1.dlmEn then s1.streams.foldl (fun s p => examine s p.1) s1 else s1)

end Sys2Proof.Machine
end

