-- ==== Sys2Proof/Machine/Sampler.lean ====
section
/-!
DEFINITION. Sys2Proof/Machine/Sampler.lean: the sampling units (R481 to R492): acceptance of sampler entries, one row at a time with its
result, its draw or its verification, and the token report of R507.
-/

namespace Sys2Proof.Machine

def smpOf (s : State) (r : Nat) : SmpSt := Tbl.get {} s.smp r
def updSmp (s : State) (r : Nat) (f : SmpSt → SmpSt) : State := { s with smp := Tbl.put s.smp r (f (smpOf s r)) }

/-! ## Acceptance (R482, R483) -/

def smpDescOk (op : Nat) (d : List W64) : Bool :=
  wf d 0 63 56 == op && decide (wf d 0 55 52 ≤ 1) && decide (wf d 0 51 48 ≤ 1) && wf d 0 47 13 == 0 && within 1 4096 (wf d 0 12 0)
  && wf d 1 63 21 == 0 && within 1 (2 ^ 20) (wf d 1 20 0) && hi0 d [2] && wf d 2 4 0 == 0 && zeroWords d [3, 4, 5, 6, 7]

/-- Acceptance of a sampler entry by its region's unit: one that finds eight held waits at the head of its queue. -/
def acceptSample (s : State) (t : Hart) (x : Ctx) (q : Nat) (e : QEnt) : State :=
  match t with
  | .inst _ _ => s
  | .res u c =>
    let r := readDesc s t x e
    if 8 ≤ (smpOf s (regionOf u)).cmds.length then s
    else match r.2 with
    | none => r.1
    | some d =>
      if !(smpDescOk (iOp e.w) d) || touchesRick x (addr d 2) (128 * wf d 0 12 0) then faultEnt s t fQueue e
      else if !(ctxOk s x (·.r) (addr d 2) (128 * wf d 0 12 0)) then faultEnt s t fExtent e
      else
        updSmp (updMv s t q e.seq (fun m => { m with kind := .sampler })) (regionOf u) (fun y => { y with cmds := y.cmds ++
          [{ unit := u, ctx := c, q := q, ent := e, op := iOp e.w, desc := d }] })

def isSa (op : Nat) (w : W64) : Bool := iClass w == 0xA && iOp w == op

def execSaDraw (h q : Nat) (s : State) : Out :=
  .next (withBegin s h q (isSa 0) fun t _ x e => acceptSample s t x q e)
def execSaVerify (h q : Nat) (s : State) : Out :=
  .next (withBegin s h q (isSa 1) fun t _ x e => acceptSample s t x q e)

/-! ## A row's controls (Table 13.3) -/

def isFin (c : Nat) : Bool := !(isNan (fpDecode fp32 c)) && !(isInf (fpDecode fp32 c))
/-- Comparison by value: zeros are equal. -/
def vLt (a b : Num) : Bool := numLt a b && !(isZero a && isZero b)
def vLe (a b : Num) : Bool := !(isNan a) && !(isNan b) && !(vLt b a)
def n0 : Num := .fin false 0 0
def n1 : Num := .fin false 1 0

/-- Element size of a logit or bias format. -/
def smpBytes (f : Nat) : Nat := if f = 0 then 4 else 2

/-- The controls hold allowed values (R484). (Log entry 42: DESIGN CHOICE.) -/
def rowOk (op vocab lfmt : Nat) (w : List W64) : Bool :=
  let f (i hi lo : Nat) : Num := fpDecode fp32 (wf w i hi lo)
  let nh := wf w 6 63 32
  let n := wf w 13 4 0
  wf w 1 31 16 == 0 && wf w 1 14 14 == 0 && hi0 w [2, 3, 4, 5] && wf w 6 29 11 == 0 && decide (wf w 6 10 0 ≤ 1024)
  && isFin (wf w 7 63 32) && vLe n0 (f 7 63 32) && vLt n0 (f 7 31 0) && vLe (f 7 31 0) n1
  && vLe n0 (f 8 63 32) && vLe (f 8 63 32) n1 && isFin (wf w 8 31 0) && vLt n0 (f 8 31 0) && isFin (wf w 9 63 32) && isFin (wf w 9 31 0)
  && wf w 10 63 23 == 0 && wf w 10 4 0 == 0 && wf w 13 31 5 == 0 && wf w 14 63 32 == 0 && wd w 15 == 0
  && (vLe n1 (f 7 31 0) || wf w 6 10 0 != 0)
  && (if op = 0 then wd w 11 == 0 && wd w 12 == 0 && decide (nh ≤ 65536)
      else hi0 w [11, 12] && within 1 16 n && decide (nh + n ≤ 65536) && wf w 13 63 32 % 128 == 0
        && decide (vocab * smpBytes lfmt ≤ wf w 13 63 32) && wf w 14 31 0 % 32 == 0)

/-! ## Distributions (R485, R486) -/

/-- A distribution computed from one logit row. -/
structure Dist where
  ok   : List Bool := []
  y    : List F32 := []
  w    : List F32 := []
  keep : List Bool := []
  c    : List F32 := []
  sAll : F32 := f32Zero
  best : Option Nat := none
  nf   : Bool := false
  deriving DecidableEq, Repr

/-- One level of the tree of R151. -/
def treeLevel (x : List F32) : List F32 :=
  (List.range (x.length / 2)).map (fun j => xAdd (x.getD (2 * j) f32Zero) (x.getD (2 * j + 1) f32Zero))

/-- The fixed order of R151 over 128 values. -/
def treeSum (x : List F32) : F32 := ((List.range 7).foldl (fun x _ => treeLevel x) x).headD f32Zero

def padTo (n : Nat) (x : List F32) : List F32 := x ++ List.replicate (n - x.length) f32Zero

/-- Blocks of 128 tokens, the last filled up with +0. -/
def tokenBlocks (x : List F32) : List (List F32) := (chunks 128 ((x.length + 127) / 128) x).map (padTo 128)

def blockSum (x : List F32) : F32 := ((tokenBlocks x).map treeSum).foldl xAdd f32Zero

/-- One level of the inclusive scan of R172, without marks. -/
def scanLv (st : Nat) (y : List F32) : List F32 :=
  let a := y.toArray
  y.zipIdx.map (fun p => if p.2 < st then p.1 else xAdd (a.getD (p.2 - st) f32Zero) p.1)

def scanBlock (carry : Option F32) (x : List F32) : List F32 :=
  let y := [1, 2, 4, 8, 16, 32, 64].foldl (fun y st => scanLv st y) x
  match carry with
  | none => y
  | some c => y.map (fun v => xAdd c v)

/-- The scan of R486, with the carry of R174 from block to block. -/
def scanTokens (x : List F32) : List F32 :=
  let r := (tokenBlocks x).foldl (fun (a : List (List F32) × Option F32) b =>
    let y := scanBlock a.2 b
    (y :: a.1, y.getLast?)) ([], none)
  r.1.reverse.flatten.take x.length

/-- Puts a token into a list sorted by value descending, ties to the lower token; tokens are put in ascending order. -/
def insDesc (v : Nat → Num) (t : Nat) : List Nat → List Nat
  | [] => [t]
  | u :: l => if vLt (v u) (v t) then t :: u :: l else u :: insDesc v t l

/-- Log entry 42: DESIGN CHOICE. -/
def sortDesc (v : Nat → Num) (ts : List Nat) : List Nat := ts.foldl (fun l t => insDesc v t l) []

/-- The shortest leading part whose running sum reaches the bound. -/
def leading (bound : Num) (val : Nat → F32) : F32 → List Nat → List Nat
  | _, [] => []
  | acc, t :: l =>
    let a := xAdd acc (val t)
    if vLe bound (fN a) then [t] else t :: leading bound val a l

/-- Marks of a set of tokens. -/
def marks (n : Nat) (ts : List Nat) : List Bool :=
  let m := ts.foldl (fun (a : Array Bool) t => a.setIfInBounds t true) (Array.replicate n false)
  m.toList

/-- z of R485: the logits after bias, repetition, frequency and presence penalties; `cnt` counts history tokens. -/
def zOf (w : List W64) (logits : List F32) (bias : Option (List F32)) (cnt : List (Nat × Nat)) : List F32 :=
  let b : List F32 := match bias with
    | none => logits
    | some l => (logits.zip l).map (fun p => xAdd p.1 p.2)
  b.zipIdx.map (fun p =>
    let c := Tbl.get 0 cnt p.2
    if c = 0 then p.1
    else
      let z := if vLt n0 (fN p.1) then xDiv p.1 (f32c (wf w 8 31 0)) else xMul p.1 (f32c (wf w 8 31 0))
      xSub z (xFma (f32c (wf w 9 63 32)) (toF32 (ofInt c)) (f32c (wf w 9 31 0))))

/-- The distribution of R485 over z and the allowed tokens; a greedy row takes TEMP as 1.0 and truncates nothing (R487). -/
def distOf (w : List W64) (z0 : List F32) (allow : List Bool) : Dist :=
  let v := z0.length
  let greedy := isZero (fpDecode fp32 (wf w 7 63 32))
  let ok := (z0.zip allow).map (fun p => p.2 && isFin p.1.1)
  let nf := (z0.zip allow).any (fun p => p.2 && !(isFin p.1.1))
  let oks := (ok.zipIdx.filter (·.1)).map (·.2)
  let za := z0.toArray
  let best := oks.foldl (fun (a : Option Nat) t => match a with
    | none => some t
    | some u => if vLt (fN (za.getD u f32Zero)) (fN (za.getD t f32Zero)) then some t else some u) none
  let z := if greedy then z0 else z0.map (fun x => xDiv x (f32c (wf w 7 63 32)))
  let zt := z.toArray
  let m := oks.foldl (fun a t => xMax a (zt.getD t f32Zero)) f32NegInf
  let y := (z.zip ok).map (fun p => if p.2 then xMul (xSub p.1 m) (f32c 0x3FB8AA3B) else f32NegInf)
  let ws := (y.zip ok).map (fun p => if p.2 then xExp2 p.1 else f32Zero)
  let wa := ws.toArray
  let wt (t : Nat) : F32 := wa.getD t f32Zero
  let topk := wf w 6 10 0
  let k1 := if greedy || topk == 0 then oks else (sortDesc (fun t => fN (zt.getD t f32Zero)) oks).take topk
  let minp := fpDecode fp32 (wf w 8 63 32)
  let k2 := if !greedy && vLt n0 minp then k1.filter (fun t => vLe minp (fN (wt t))) else k1
  let topp := fpDecode fp32 (wf w 7 31 0)
  let k3 := if !greedy && vLt topp n1 then
      let l := sortDesc (fun t => fN (wt t)) (k2.foldl NSet.ins [])
      let tot := l.foldl (fun a t => xAdd a (wt t)) f32Zero
      leading (fN (xMul (f32c (wf w 7 31 0)) tot)) wt f32Zero l
    else k2
  let keep := marks v k3
  { ok := ok, y := y, w := ws, keep := keep, sAll := blockSum ws, best := best, nf := nf
    c := scanTokens ((ws.zip keep).map (fun p => if p.2 then p.1 else f32Zero)) }

/-- The last value of the scan. -/
def cLast (c : List F32) : F32 := c.getLastD f32Zero

/-- The lowest kept token whose scan passes u × C[VOCAB − 1], or the highest kept token. -/
def drawFrom (c : List F32) (keep : List Bool) (u : Num) : Nat :=
  let bound := xMulN (cLast c) u
  let ks := (keep.zipIdx.filter (·.1)).map (·.2)
  let ca := c.toArray
  (ks.find? (fun t => vLt (fN bound) (fN (ca.getD t f32Zero)))).getD (ks.getLastD 0)

/-- The uniform draw of R480, R481. -/
def uDraw (w : List W64) (ctr idx : Nat) : Num := .fin false (drawNum (wd w 0) (ctr % 2 ^ 32) idx) (-24)

/-- The token a row draws, greedy or not. -/
def pick (w : List W64) (d : Dist) (ctr idx : Nat) : Nat :=
  if isZero (fpDecode fp32 (wf w 7 63 32)) then d.best.getD 0 else drawFrom d.c d.keep (uDraw w ctr idx)

def lpFull (d : Dist) (x : Nat) : F32 := xSub (d.y.getD x f32NegInf) (xLog2 d.sAll)

/-! ## Reading (R484, R490) -/

/-- A row under way: the state, whether it met poison. -/
abbrev Rd := State × Bool

def smpRead (r : Rd) (x : Ctx) (a n : Nat) : Rd × List Byte :=
  let y := ctxRead r.1 x a n 0
  ((y.1, r.2 || y.2.2), y.2.1)

/-- Elements of a logit or bias row, as FP32. -/
def smpVals (fmt n : Nat) (bs : List Byte) : List F32 :=
  (packedCodes (8 * smpBytes fmt) n bs).map (fun c => if fmt = 0 then f32c c else toF32 (fpDecode bf16 c))

/-- Counts of the history tokens. (Log entry 42: DESIGN CHOICE.) -/
def countTokens (ts : List Nat) : List (Nat × Nat) := ts.foldl (fun m t => Tbl.put m t (Tbl.get 0 m t + 1)) []

/-- The distribution of one logit row: `extra` are the draft tokens that extend the history, `pos` the verify position. -/
def readDist (r : Rd) (x : Ctx) (d w : List W64) (at_ : Nat) (extra : List Nat) (pos : Nat) : Rd × Dist :=
  let v := wf d 1 20 0
  let lf := wf d 0 55 52
  let bf := wf d 0 51 48
  let lg := smpRead r x at_ (v * smpBytes lf)
  let bi := if wf w 6 31 31 = 1 then (let y := smpRead lg.1 x (addr w 3) (v * smpBytes bf); (y.1, some (smpVals bf v y.2))) else (lg.1, none)
  let al := if wf w 6 30 30 = 1 then
      (let y := smpRead bi.1 x (addr w 4 + pos * wf w 14 31 0) ((v + 7) / 8)
       (y.1, (List.range v).map (fun t => (y.2.getD (t / 8) 0).getLsbD (t % 8))))
    else (bi.1, List.replicate v true)
  let hi := smpRead al.1 x (addr w 5) (4 * wf w 6 63 32)
  let cnt := countTokens (packedCodes 32 (wf w 6 63 32) hi.2 ++ extra)
  (hi.1, distOf w (zOf w (smpVals lf v lg.2) bi.2 cnt) al.2)

/-- The addresses a row gives: each a start and a length. -/
def rowRanges (op : Nat) (d w : List W64) : List (Nat × Nat) :=
  let v := wf d 1 20 0
  let el := v * smpBytes (wf d 0 55 52)
  let n := if op = 0 then 0 else wf w 13 4 0
  let ls := wf w 13 63 32
  (List.range (n + 1)).map (fun i => (addr w 2 + i * ls, el))
  ++ (if wf w 6 31 31 = 1 then [(addr w 3, v * smpBytes (wf d 0 51 48))] else [])
  ++ (if wf w 6 30 30 = 1 then (List.range (n + 1)).map (fun i => (addr w 4 + i * wf w 14 31 0, (v + 7) / 8)) else [])
  ++ [(addr w 5, 4 * wf w 6 63 32)]
  ++ (if op = 0 then [] else (List.range n).map (fun i => (addr w 11 + i * ls, el)) ++ [(addr w 12, 4 * n)])

/-! ## Results -/

/-- What a row gives: its status, the result bytes, tokens to report, draft tokens tested and accepted. -/
structure RowOut where
  status : Nat
  bytes  : List Byte
  report : Nat := 0
  tested : Nat := 0
  took   : Nat := 0
  deriving DecidableEq, Repr

/-- A result of `sa.draw` (Table 13.4). -/
def drawBytes (status : Nat) (nf : Bool) (token lpf lpk nkept : Nat) : List Byte :=
  leBytes 4 (status * 2 ^ 28 + (if nf then 2 ^ 27 else 0) + token) ++ leBytes 4 lpf ++ leBytes 4 lpk ++ leBytes 4 nkept

/-- Log entry 42: DESIGN CHOICE. -/
def noToken (status : Nat) (nf : Bool) : List Byte := drawBytes status nf 0xFFFFF 0x7FC00000 0x7FC00000 0

/-- A result of `sa.verify` (Table 13.6). -/
def verifyBytes (status : Nat) (nf : Bool) (nacc : Nat) (toks : List (Nat × Nat)) : List Byte :=
  leBytes 4 (status * 2 ^ 28 + (if nf then 2 ^ 27 else 0) + toks.length * 32 + nacc) ++ zeros 12
  ++ ((List.range 17).flatMap (fun j => let t := toks.getD j (0, 0); leBytes 4 t.1 ++ leBytes 4 t.2)) ++ zeros 8

/-- Log entry 42: DESIGN CHOICE. -/
def refused (op : Nat) : RowOut := { status := 3, bytes := if op = 0 then noToken 3 false else verifyBytes 3 false 0 [] }

def isGreedy (w : List W64) : Bool := isZero (fpDecode fp32 (wf w 7 63 32))

/-- One `sa.draw` row (R485, R487). -/
def drawRow (r : Rd) (x : Ctx) (d w : List W64) : Rd × RowOut :=
  let p := readDist r x d w (addr w 2) [] 0
  let q := p.2
  if q.best.isNone then (p.1, { status := 2, bytes := noToken 2 q.nf })
  else
    let t := pick w q (wf w 1 63 32) 0
    let full := lpFull q t
    if isGreedy w then (p.1, { status := 1, bytes := drawBytes 1 q.nf t full.1 full.1 1, report := 1 })
    else
      let kept := xSub (q.y.getD t f32NegInf) (xLog2 (cLast q.c))
      (p.1, { status := 0, bytes := drawBytes 0 q.nf t full.1 kept.1 (q.keep.filter id).length, report := 1 })

/-- p or q of R490: w over C[VOCAB − 1] where kept. -/
def probOf (d : Dist) : List F32 := (d.w.zip d.keep).map (fun p => if p.2 then xDiv p.1 (cLast d.c) else f32Zero)

/-- A verification under way: what has been read, the tokens emitted with their probabilities, the end. -/
structure Verify where
  rd   : Rd
  toks : List (Nat × Nat) := []
  nf   : Bool := false
  test : Nat := 0
  fin  : Option Nat := none

/-- Position i (R491): accepted, or the drawn token ends the row; a target row without an allowed token ends it with STATUS 0x2. -/
def verifyPos (x : Ctx) (d w : List W64) (dt : List Nat) (v : Verify) (i : Nat) : Verify :=
  if v.fin.isSome then v
  else
    let ls := wf w 13 63 32
    let q := readDist v.rd x d w (addr w 11 + i * ls) (dt.take i) i
    let p := readDist q.1 x d w (addr w 2 + i * ls) (dt.take i) i
    let t := dt.getD i 0
    let v1 : Verify := { v with rd := p.1, nf := v.nf || q.2.nf || p.2.nf, test := v.test + 1 }
    let emit (y : Nat) : List (Nat × Nat) := v.toks ++ [(y, (lpFull p.2 y).1)]
    if p.2.best.isNone then { v1 with fin := some 2 }
    else if isGreedy w then
      (if p.2.best = some t then { v1 with toks := emit t } else { v1 with toks := emit (p.2.best.getD 0), fin := some 1 })
    else
      let pp := probOf p.2
      let qq := probOf q.2
      let px := pp.getD t f32Zero
      if vLt (fN (xMulN (qq.getD t f32Zero) (uDraw w (wf w 1 63 32 + i) 1))) (fN px) then { v1 with toks := emit t }
      else
        let r := ((pp.zip qq).zip p.2.keep).map (fun z => if z.2 then xMax f32Zero (xSub z.1.1 z.1.2) else f32Zero)
        let r1 := if r.all (fun z => isZero (fN z)) then pp else r
        let y := drawFrom (scanTokens r1) p.2.keep (uDraw w (wf w 1 63 32 + i) 2)
        { v1 with toks := emit y, fin := some 0 }

/-- One `sa.verify` row (R490 to R492). -/
def verifyRow (r : Rd) (x : Ctx) (d w : List W64) : Rd × RowOut :=
  let n := wf w 13 4 0
  let dtb := smpRead r x (addr w 12) (4 * n)
  let dt := packedCodes 32 n dtb.2
  let v := (List.range n).foldl (verifyPos x d w dt) { rd := dtb.1 }
  let out (rd : Rd) (st nacc : Nat) (nf : Bool) (toks : List (Nat × Nat)) : Rd × RowOut :=
    (rd, { status := st, bytes := verifyBytes st nf nacc toks, report := toks.length, tested := v.test, took := nacc })
  match v.fin with
  | some 2 => out v.rd 2 v.toks.length v.nf v.toks
  | some st => out v.rd st (v.toks.length - 1) v.nf v.toks
  | none =>
    let b := readDist v.rd x d w (addr w 2 + n * wf w 13 63 32) dt n
    if b.2.best.isNone then out b.1 2 n (v.nf || b.2.nf) v.toks
    else
      let t := pick w b.2 (wf w 1 63 32 + n) 0
      out b.1 (if isGreedy w then 1 else 0) n (v.nf || b.2.nf) (v.toks ++ [(t, (lpFull b.2 t).1)])

/-- Counts a finished row (Table 13.17). -/
def countRow (y : SmpSt) (o : RowOut) : SmpSt :=
  { y with rows := y.rows + 1, excl := if 2 ≤ o.status then y.excl + 1 else y.excl
           proposed := y.proposed + BitVec.ofNat 64 o.tested, accepted := y.accepted + BitVec.ofNat 64 o.took }

/-- The command leaves the unit. -/
def dropSmp (s : State) (r : Nat) : State := updSmp s r (fun y => { y with cmds := y.cmds.tail })

/-- After a row: the next one, or the entry's completion with its count of rows without a token (R488). -/
def nextRow (s : State) (r : Nat) (m : SmpCmd) (bad : Nat) : State :=
  if m.row + 1 < wf m.desc 0 12 0 then
    updSmp s r (fun y => { y with cmds := { m with row := m.row + 1, bad := bad } :: y.cmds.tail })
  else
    updMv (dropSmp s r) (.res m.unit m.ctx) m.q m.ent.seq (fun e =>
      { e with finished := true, code := if bad = 0 then 0 else 1, detail := bad })

/-- Context ranges that an access has to wait for (R316, R36, R564). -/
def rangesWait (s : State) (x : Ctx) (rs : List (Nat × Nat)) : Bool := rs.any (fun p => piecesWait s (devPieces x p.1 p.2))

/-- One row: entry, checks, computation, result, report. A row waits while its entry or what it names cannot be read (R316). -/
def runRow (s : State) (r : Nat) (m : SmpCmd) (x : Ctx) : State :=
  let t : Hart := .res m.unit m.ctx
  let ent := smpRead (s, false) x (addr m.desc 2 + 128 * m.row) 128
  let w := leWords 16 ent.2
  let size := if m.op = 0 then 16 else 160
  let ok := rowOk m.op (wf m.desc 1 20 0) (wf m.desc 0 55 52) w
  let out := wf w 10 22 0
  let rs := if ok then rowRanges m.op m.desc w else []
  if rangesWait s x ((addr m.desc 2 + 128 * m.row, 128) :: rs) then s
  else if ent.1.2 then faultEnt (dropSmp ent.1.1 r) t fPoison m.ent
  else if rs.any (fun p => touchesRick x p.1 p.2) then faultEnt (dropSmp ent.1.1 r) t fQueue m.ent
  else if !(inShare x out size) || !(rs.all (fun p => ctxOk s x (·.r) p.1 p.2)) then
    faultEnt (dropSmp ent.1.1 r) t fExtent m.ent
  else
    let y := if !ok then (ent.1, refused m.op) else if m.op = 0 then drawRow ent.1 x m.desc w else verifyRow ent.1 x m.desc w
    if y.1.2 then faultEnt (dropSmp y.1.1 r) t fPoison m.ent
    else
      let o := y.2
      let wr := shareWrite y.1.1 x m.unit out o.bytes
      let s1 := updSmp wr.1 r (fun z => countRow z o)
      let s2 := if o.status < 2 ∧ wf w 1 15 15 = 1 then dlmReport s1 m.ctx (wf w 1 13 0) o.report else s1
      let s3 := nextRow s2 r m (if 2 ≤ o.status then m.bad + 1 else m.bad)
      if wr.2 then faultEnt s3 t fPoison m.ent else s3

/-- A region's unit processes the next row of its first command; one whose context is torn down stops at a row boundary (R482). -/
def execSamplerRow (r : Nat) (s : State) : Out :=
  .next (match (smpOf s r).cmds with
    | [] => s
    | m :: _ =>
      match ctxOf s m.ctx with
      | none => dropSmp s r
      | some x => if live s m.ctx then runRow s r m x else dropSmp s r)

end Sys2Proof.Machine
end

