-- ==== Sys2Proof/Machine/StackProg.lean ====
section
/-!
DEFINITION. Sys2Proof/Machine/StackProg.lean: stack programs on an engine (R333 to R339): launch of the instances and the time limit.
-/

namespace Sys2Proof.Machine

/-- The engine-store share slot of instance place i: six MiB in eight places (R317). (Log entry 38: DESIGN CHOICE.) -/
def shareBase (i : Nat) : Nat := i * 0xC0000

/-- The places free for instances, lowest first. (Log entry 38: DESIGN CHOICE.) -/
def freePlaces (y : SeSt) : List Nat :=
  (List.range 8).filter (fun i => !((Tbl.get {} y.inst i).active))

/-- The code of a stack program as the engine copies it (R334), from the stacks of its command (R323). -/
def readCode (g : Eng) (m : SeCmd) : Eng × List Byte :=
  let n := wf m.desc 1 63 55 * 256
  let ps := devPieces g.x (addr m.desc 1) n
  let r := readPieces g.s true ps 0 none
  if r.2.2 then (engFail { g with s := r.1 } fPoison, []) else ({ g with s := r.1 }, r.2.1)

/-- One instance at its start: g1 to g4 from the arguments, every other register zero, at CODE (R334). (Log entry 38: DESIGN CHOICE.) -/
def startInst (m : SeCmd) (c i place share : Nat) (code : List Byte) : Inst :=
  { active := true, ctx := c, unit := m.unit, seq := m.ent.seq, idx := i, ninst := wf m.desc 0 55 52
    base := shareBase place, share := share, code := addr m.desc 1, bytes := code
    core := { pc := BitVec.ofNat 48 (addr m.desc 1), xln := bit (wd m.desc 0) 47
              g := [1, 2, 3, 4].foldl (fun t r => Tbl.set 0 t r (wd m.desc (r + 2))) [] } }

def launch (s : State) (st : Nat) (m : SeCmd) (c : Nat) (code : List Byte) : State :=
  let share := wf m.desc 0 51 48 * 65536
  let places := (freePlaces (seOf s st)).take (wf m.desc 0 55 52)
  places.zipIdx.foldl (fun s p =>
    let s1 := zeroRange s (esAddr st (shareBase p.1)) share
    updSe s1 st (fun y => { y with inst := Tbl.put y.inst p.1 (startInst m c p.2 p.1 share code) })) s

def execSeRun (st k : Nat) (s : State) : Out :=
  .next (withCmd s st k 0 fun m g =>
    match m.ctx with
    | none => s
    | some c =>
      let r := readCode g m
      if r.1.fault.isSome then endWork r.1 st k m m.code m.detail
      else endWork { r.1 with s := launch r.1.s st m c r.2 } st k m m.code m.detail)

/-- The instances of a command that still run, as a bit mask by instance number. -/
def instMask (y : SeSt) (m : SeCmd) : Nat :=
  (y.inst.filter (fun p => p.2.active && m.ctx == some p.2.ctx && p.2.unit == m.unit && p.2.seq == m.ent.seq)).foldl
    (fun a p => a + 2 ^ p.2.idx) 0

def stopInsts (y : SeSt) (m : SeCmd) : SeSt :=
  { y with inst := y.inst.map (fun p =>
      (p.1, if p.2.active && m.ctx == some p.2.ctx && p.2.unit == m.unit && p.2.seq == m.ent.seq then { p.2 with active := false } else p.2)) }

/-- The flags that the command's running instances have raised (R328). -/
def instSticky (y : SeSt) (m : SeCmd) : Flags :=
  (y.inst.filter (fun p => p.2.active && m.ctx == some p.2.ctx && p.2.unit == m.unit && p.2.seq == m.ent.seq)).foldl
    (fun f p => f ||| p.2.core.sticky.setWidth 9) 0

/-- LIMIT_US has passed: every instance stops and the command ends with CODE 0x01 (R338, Table 8.2), once the stack serves (R331). -/
def execSeRunTimeLimit (st k : Nat) (s : State) : Out :=
  .next (match (seOf s st).cmds[k]? with
    | none => s
    | some m =>
      let y := seOf s st
      let lim := wf m.desc 0 31 0
      if m.running && !m.stream && m.op == 0 && m.done && stackServes y && lim != 0 && instMask y m != 0
          && decide (lim * 16000 ≤ (s.time.now - m.start).toNat) then
        setCmd (updSe s st (fun y => stopInsts y m)) st k
          { m with code := 1, detail := m.detail ||| instMask y m, flags := m.flags ||| instSticky y m }
      else s)

end Sys2Proof.Machine
end

