-- ==== Sys2Proof/Machine/Teardown.lean ====
section
/-!
DEFINITION. Sys2Proof/Machine/Teardown.lean: stopping a context on every unit of its set (R221), the scrub and its removal (R222, R224),
the state epochs of a unit (R637) and its return to service (R638).
-/

namespace Sys2Proof.Machine

/-! ## State epochs (R637) -/

/-- A unit in quarantine or under test cannot be reached. -/
def unitReach (x : UnitSt) : Bool := x.quar == .inService

/-- A change to a unit's residents or partition. (Log entry 46: DESIGN CHOICE.) -/
def bumpEpoch (s : State) (u : Nat) : State :=
  updUnit s u (fun x => { x with recEpoch := x.recEpoch + 1, epoch := if unitReach x then x.epoch + 1 else x.epoch })

/-! ## The stop (R221, R329) -/

/-- What stays at an engine of the commands of context c: a built-in command under way runs to its end, the rest is dropped. -/
def cmdStays (c : Nat) (m : SeCmd) : Bool :=
  m.ctx != some c || (!m.stream && m.op != 0 && (m.running || m.done))

/-- Drops commands of a stack. -/
def dropCmds (s : State) (st : Nat) (stays : SeCmd → Bool) : State :=
  updSe s st (fun y => withCmds s.time.now y (y.cmds.filter stays))

def stopEngines (s : State) (c : Nat) : State :=
  s.se.foldl (fun s p =>
    updSe (dropCmds s p.1 (cmdStays c)) p.1 (fun y => { y with inst := y.inst.filter (fun i => i.2.ctx != c) })) s

/-- The context on one unit: Faulted, its queues and registers gone; the unit may run another resident. (Log entry 46: DESIGN CHOICE.) -/
def stopOn (c : Nat) (s : State) (u : Nat) : State :=
  let s1 := updRes s u c (fun r => { r with st := .faulted, core := {}, rick := {} })
  let s2 := updUnit s1 u (fun x => { x with running := if x.running == some c then none else x.running })
  bumpEpoch s2 u

/-- A command that waits for the context to save is not carried out. (Log entry 46: DESIGN CHOICE.) -/
def endPreempt (s : State) (c : Nat) : State :=
  match ctxOf s c with
  | none => s
  | some x =>
    x.preempt.foldl (fun s j => finishJob s j 2 0 0) (setCtx s c { x with preempt := [], preemptU := [] })

/-- R221: the context stops on every unit of its set; its collectives are left, its partition's turn is held, its sampler commands go. (Log entry 46: DESIGN CHOICE.) -/
def stopCtx (s : State) (c : Nat) : State :=
  match ctxOf s c with
  | none => s
  | some x =>
    if x.stopped then s
    else
      let s1 := leaveAll (stopEngines s c) c
      let s2 := x.units.foldl (stopOn c) (endPreempt (updCtx s1 c (fun y => { y with stopped := true })) c)
      let s3 : State := { s2 with smp := s2.smp.map (fun p => (p.1, { p.2 with cmds := p.2.cmds.filter (fun m => m.ctx != c) })) }
      turnFault s3 x.part

/-- The event of R220 and Table 15.6. -/
def faultEvent (s : State) (c : Nat) (x : Ctx) : State :=
  raiseEv s 0x0101 clsError
    (argC c + argL x.flun + x.fkind % 16 * 2 ^ 8 + (if x.fstack.isSome then 2 ^ 7 else 0) + x.fmore) (x.fpc + x.fstack.getD 0 * 2 ^ 48)

/-- A raised fault is reported, and the context stops on every unit. (Log entry 46: DESIGN CHOICE.) -/
def execContextFault (c : Nat) (s : State) : Out :=
  .next (match ctxOf s c with
    | none => s
    | some x =>
      if x.faulted && !x.faultEv then stopCtx (faultEvent (updCtx s c (fun y => { y with faultEv := true })) c x) c else s)

/-! ## The scrub (R222, R637) -/

/-- The device ranges a context owns on a unit. -/
def scrubRanges (x : Ctx) (u : Nat) : List (Nat × Nat) :=
  [(usAddr u (shareOff x), shareSize x), (usAddr u (saveOff x), saveSize), (ocAddr u (ocOff x), ocSize x)]

/-- Zeros over ranges of a unit, with the held-data bits of the blocks covered (R37). (Log entry 47: DEDUCED.) -/
def scrubNow (s : State) (u : Nat) (rs : List (Nat × Nat)) : State :=
  let s1 := rs.foldl (fun s r => zeroRange s r.1 r.2) s
  let block (b : Nat) : Nat := usAddr (b / 2048) (b % 2048 * 4096)
  { s1 with heldData := s1.heldData.filter (fun b => b / 2048 != u || rs.all (fun r => decide (block b < r.1) || decide (r.1 + r.2 ≤ block b))) }

/-- A unit that is out of reach is scrubbed when it returns. (Log entry 47: DEDUCED.) -/
def scrubUnit (s : State) (u : Nat) (rs : List (Nat × Nat)) : State :=
  if unitReach (unitOf s u) then scrubNow s u rs else updUnit s u (fun x => { x with deferred := x.deferred ++ rs })

/-! ## The return of a unit (R633, R638) -/

/-- Scrubs that waited run, and the unit takes the record's epoch. (Log entry 47: DEDUCED.) -/
def runDeferred (s : State) (u : Nat) : State :=
  updUnit (scrubNow s u (unitOf s u).deferred) u (fun x => { x with deferred := [], epoch := x.recEpoch })

/-- Held residents become Ready as far as their waits allow. -/
def releaseHeld (s : State) (u : Nat) : State :=
  (residents s u).foldl (fun s p => settle (updRes s u p.1 (fun r => { r with held := false })) u p.1) s

/-- The unit is back (R634, R638), unless its die is out of service (R41). (Log entry 82: DESIGN CHOICE.) -/
def backInService (s : State) (u : Nat) : State :=
  if dieOutOf s (dieOf u) then updUnit s u (fun x => { x with quar := .inService, spareJob := none })
  else releaseHeld (updUnit (runDeferred s u) u (fun x => { x with en := true, quar := .inService, spareJob := none })) u

/-- The tile images in the save area of a resident are poisoned. -/
def poisonTiles (s : State) (u : Nat) (x : Ctx) : State :=
  let b := usAddr u (saveOff x)
  { s with poison := ((granules 32 (b + tileImage) (16 * 16384)).filter (fun w => tileOnly (w - b))).foldl NSet.ins s.poison }

/-- R638: the epochs agree, or the unit is stale. -/
def unitBack (s : State) (u : Nat) : State :=
  let x := unitOf s u
  if x.epoch = x.recEpoch then backInService s u
  else
    let rs := residents s u
    let s1 := raiseEv (updUnit s u (fun x => { x with quar := .stale, spareJob := none })) 0x0903 clsError (argL u) 0
    let s2 := zeroRange s1 (ocAddr u 0) 0x100000
    let s3 := scrubNow ((rs.filterMap (fun p => ctxOf s p.1)).foldl (fun s y => poisonTiles s u y) s2) u x.deferred
    let s4 := updUnit s3 u (fun y => { y with deferred := [] })
    if rs.isEmpty then backInService s4 u else s4

/-- A stale unit whose last resident is gone returns to service. -/
def staleBack (s : State) (u : Nat) : State :=
  if (unitOf s u).quar == .stale && (residents s u).isEmpty then backInService s u else s

/-! ## The removal -/

/-- The context on one unit is scrubbed and its place is free. -/
def removeOn (c : Nat) (x : Ctx) (s : State) (u : Nat) : State :=
  let s1 := scrubUnit s u (scrubRanges x u)
  let s2 : State := { s1 with res := Tbl.del s1.res (resKey u c) }
  staleBack (bumpEpoch (updUnit s2 u (fun y => if y.next = some c then { y with next := none } else y)) u) u

/-- No built-in command of the context is still at an engine (R329). (Log entry 47: DEDUCED.) -/
def enginesClear (s : State) (c : Nat) : Bool := s.se.all (fun p => p.2.cmds.all (fun m => m.ctx != some c || m.job.isSome))

/-- R222, R224: scrubbed on every unit, the context is removed. (Log entry 47: DEDUCED.) -/
def removeCtx (s : State) (c : Nat) (x : Ctx) : State :=
  let s1 := dropGroups (closeStreams (x.units.foldl (removeOn c x) (breakOf s c)) c) c
  let s2 := raiseEv { s1 with ctxs := Tbl.del s1.ctxs c } 0x0102 clsNotice (argC c + (if x.faulted then 0 else 1)) 0
  x.unload.foldl (fun s j => finishJob s j 0 0 0) s2

def execScrubComplete (c : Nat) (s : State) : Out :=
  .next (match ctxOf s c with
    | none => s
    | some x => if x.stopped && (!x.faulted || x.faultEv) && enginesClear s c then removeCtx s c x else s)

end Sys2Proof.Machine
end

