-- ==== Sys2Proof/Machine/Contexts.lean ====
section
/-!
DEFINITION. Sys2Proof/Machine/Contexts.lean: the host's commands on partitions and contexts (R198 to R209, R214, R224, R402), the rick
command (R421, R422), evaluation windows (R444 to R446), and the notices for poisoned shared weights (R641).
-/

namespace Sys2Proof.Machine

def execNop (s : State) : Out := .next (withCur s 0x00 fun h s => completeCmd s h 0)

/-! ## Partitions (R198) -/

/-- The unit set of descriptor words i to i + 3. -/
def unitSet (ws : List W64) (i : Nat) : List Nat := (List.range 256).filter (fun u => bit (wd ws (i + u / 64)) (u % 64))

def execPartition (s : State) : Out :=
  .next (withCur s 0x01 fun h s =>
    let p : Option Nat := if hf h 2 6 6 = 1 then none else some (hf h 2 5 0)
    let us := (unitSet h.ws 4).filter (fun u => (unitOf s u).part != p)
    checked s h [(1, us.any (fun u => !(residents s u).isEmpty))] fun s =>
      completeCmd (us.foldl (fun s u => bumpEpoch (updUnit s u (fun x => { x with part := p })) u) s) h 0)

/-! ## Extents as device ranges -/

/-- Granules that an extent places on its j-th stack (R206). -/
def granOn (e : Extent) (j : Nat) : Nat :=
  let n := popcount 24 e.stackSet
  if n = 0 then 0 else (e.size + n - 1 - j) / n

/-- The device ranges an extent maps. -/
def extRanges (e : Extent) : List (Nat × Nat) :=
  match e.kind with
  | 0 => []
  | 1 => [(e.dbase, e.size * 4096)]
  | _ => (bitList 24 e.stackSet).zipIdx.map (fun p => (stackBase p.1 + e.dbase, granOn e p.2 * 4096))

/-- A context has an extent that covers a device address. -/
def ctxCovers (x : Ctx) (a : Nat) : Bool := x.extents.any (fun e => (extRanges e).any (fun r => decide (r.1 ≤ a) && decide (a < r.1 + r.2)))

/-! ## Notices for shared weights (R641) -/

/-- A line lies in the range of a defined weight set. -/
def inWeights (s : State) (a : Nat) : Bool :=
  s.sets.any (fun p => isDefined p.2 && (setRanges p.2).any (fun r => decide (r.1 ≤ a) && decide (a < r.1 + r.2)))

def noticeTo (s : State) (c a : Nat) : State :=
  updFlt (raiseEv s 0x0906 clsError (argC c) a) (fun f => { f with notices := f.notices + 1 })

/-- A context loaded receives the notice of each poisoned line of a weight set that it covers. -/
def noticesAtLoad (s : State) (c : Nat) (x : Ctx) : State :=
  (s.poison.filter (fun b => isHbm b && inWeights s b && ctxCovers x b)).foldl (fun s b => noticeTo s c b) s

/-! ## Loading a context (R202 to R205, R207) -/

/-- One extent entry (Table 5.5). -/
def extOf (bs : List Byte) : Extent :=
  let d := leWords 4 bs
  { kind := wf d 0 63 60, r := bit (wd d 0) 59, w := bit (wd d 0) 58, x := bit (wd d 0) 57, a := bit (wd d 0) 56, s := bit (wd d 0) 55
    nrep := bit (wd d 0) 54, cbase := wf d 0 47 12 * 4096, size := wf d 1 29 0, dbase := wf d 2 47 12 * 4096, stackSet := wf d 3 23 0 }

/-- An entry whose fields hold allowed values. (Log entry 44: DESIGN CHOICE.) -/
def extFieldsOk (bs : List Byte) : Bool :=
  let d := leWords 4 bs
  match wf d 0 63 60 with
  | 0 => d.all (fun w => w == 0)
  | k =>
    decide (k ≤ 3) && wf d 0 53 48 == 0 && wf d 0 11 0 == 0 && wf d 1 63 30 == 0 && wf d 1 29 0 != 0 && wf d 2 63 48 == 0
    && wf d 2 11 0 == 0 && wf d 3 63 24 == 0
    && (if k = 1 then wf d 3 23 0 == 0
        else wf d 2 47 37 == 0 && (if k = 2 then popcount 24 (wf d 3 23 0) == 1 else wf d 3 23 0 != 0))

/-- A direct extent lies within one kind of window (R207), page 0 of the control windows only (R270). -/
def directOk (e : Extent) : Bool :=
  let a := e.dbase
  let b := e.dbase + e.size * 4096
  (decide (usWin ≤ a) && decide (b ≤ usWinEnd)) || (decide (hostWin ≤ a) && decide (b ≤ addrEnd))
  || (decide (scWin ≤ a) && decide (b ≤ scWin + 0x100000) && a % 0x10000 == 0 && e.size == 1)

/-- R187, R207: the table as a whole. (Log entry 44: DESIGN CHOICE.) -/
def extTableOk (es : List Extent) : Bool :=
  es.all (fun e =>
    !(e.x && e.w) && decide (extEnd e ≤ addrEnd)
    && (if e.kind = 1 then directOk e
        else (List.range (popcount 24 e.stackSet)).all (fun j => decide (e.dbase + granOn e j * 4096 ≤ 2 ^ 37))))
  && es.zipIdx.all (fun p => (es.drop (p.2 + 1)).all (fun q => !(overlap (p.1.cbase, p.1.size * 4096) (q.cbase, q.size * 4096))))
  && es.all (fun e => !e.x || es.all (fun f => !f.w || !(overlaps (extRanges e) (extRanges f))))

def loadExtents (b : List Byte) : List (List Byte) := (List.range 64).map (fun i => (b.drop (128 + 32 * i)).take 32)

/-- The context a descriptor describes. -/
def ctxOfBlock (b : List Byte) : Ctx :=
  let d := leWords 16 b
  { part := wf d 0 51 46, prio := wf d 0 45 44, xln := bit (wd d 0) 43, swait := bit (wd d 0) 42, slice := wf d 0 31 16
    entryPc := wf d 1 47 0, usOff := wf d 2 63 57, usSize := wf d 2 56 49, ocOff := wf d 2 48 45, ocSize := wf d 2 44 40
    saveOff := wf d 2 39 29, units := unitSet d 4
    extents := ((loadExtents b).map extOf).filter (fun e => e.kind != 0) }

def hdrReserved (b : List Byte) : Bool :=
  let d := leWords 16 b
  wf d 0 41 32 != 0 || wf d 0 15 0 != 0 || wf d 1 63 48 != 0 || wf d 1 2 0 != 0 || wf d 2 28 0 != 0 || wd d 3 != 0
  || !(zeroWords d [8, 9, 10, 11, 12, 13, 14, 15]) || !(within 1 128 (wf d 2 56 49)) || !(within 1 16 (wf d 2 44 40))
  || decide (1956 < wf d 2 39 29) || !((loadExtents b).all extFieldsOk)

def areasOverlap (p q : Nat × Nat) : Bool := overlap p q

/-- The share, save area and operand-cache share of a context overlap its own or another's (R200). -/
def placesClash (x y : Ctx) : Bool :=
  let a (x : Ctx) : List (Nat × Nat) := [(shareOff x, shareSize x), (saveOff x, saveSize)]
  overlaps (a x) (a y) || areasOverlap (ocOff x, ocSize x) (ocOff y, ocSize y)

/-- Log entry 44: DESIGN CHOICE. -/
def loadChecks (s : State) (b : List Byte) : List (Nat × Bool) :=
  let x := ctxOfBlock b
  [(1, hdrReserved b || x.units.isEmpty), (2, x.units.any (fun u => !(unitOf s u).en)), (3, x.units.any (fun u => (unitOf s u).part != some x.part)),
   (4, x.units.any (fun u => decide (4 ≤ (residents s u).length))),
   (5, decide (0x800000 < shareOff x + shareSize x) || decide (0x100000 < ocOff x + ocSize x) || decide (0x800000 < saveOff x + saveSize)),
   (6, areasOverlap (shareOff x, shareSize x) (saveOff x, saveSize) || x.units.any (fun u => (residentCtxs s u).any (placesClash x))),
   (7, isLoaded s (wf (leWords 1 b) 0 63 52)), (8, !(extTableOk x.extents)), (9, !((findExt x x.entryPc).any (·.x)))]

/-- R204 on one unit: registers and queues as new, the operand-cache share +0, the instruction lines of the identifier gone (R186). -/
def loadOn (c : Nat) (x : Ctx) (s : State) (u : Nat) : State :=
  let s1 := zeroRange s (ocAddr u (ocOff x)) (ocSize x)
  let s2 := updUnit s1 u (fun y => { y with icache := y.icache.filter (fun l => l.1 / 2 ^ 40 != c) })
  bumpEpoch (setRes s2 u c { left := s.order, core := { pc := BitVec.ofNat 48 x.entryPc, xln := x.xln } }) u

def execCtxLoad (s : State) : Out :=
  .next (withCur s 0x02 fun h s =>
    checked s h (loadChecks s h.block) fun s =>
      let c := wf (leWords 1 h.block) 0 63 52
      let x := ctxOfBlock h.block
      let s1 := x.units.foldl (loadOn c x) (setCtx s c x)
      completeCmd (noticesAtLoad { s1 with order := s1.order + 1 } c x) h 0)

/-! ## Unload, pre-empt, resume -/

/-- A loaded context that is not being torn down. -/
def runs (s : State) (c : Nat) : Bool := live s c

/-- Log entry 44: DESIGN CHOICE. -/
def execCtxUnload (s : State) : Out :=
  .next (withCur s 0x03 fun h s =>
    let c := hf h 2 11 0
    checked s h [(1, !(isLoaded s c))] fun s => stopCtx (updCtx s c (fun x => { x with unload := x.unload ++ [h.job] })) c)

def savingOn (s : State) (c u : Nat) : Bool := (resOf s u c).any (fun r => r.st == .saving)

/-- Log entry 44: DESIGN CHOICE. -/
def execCtxPreempt (s : State) : Out :=
  .next (withCur s 0x04 fun h s =>
    let c := hf h 2 11 0
    checked s h [(1, !(runs s c))] fun s =>
      match ctxOf s c with
      | none => s
      | some x =>
        let s1 := x.units.foldl (fun s u => leaveRunning s u c) s
        let us := x.units.filter (savingOn s1 c)
        if us.isEmpty then completeCmd s1 h 0
        else updCtx s1 c (fun y => { y with preempt := y.preempt ++ [h.job], preemptU := us.foldl NSet.ins y.preemptU }))

/-- A resume by the host (wake reason 0x04) on every unit of the set. -/
def resumeCtx (s : State) (c : Nat) : State :=
  match ctxOf s c with
  | none => s
  | some x => x.units.foldl (fun s u => settle (evalWait s u c false true) u c) s

/-- Log entry 44: DESIGN CHOICE. -/
def execCtxResume (s : State) : Out :=
  .next (withCur s 0x05 fun h s =>
    checked s h [(1, !(runs s (hf h 2 11 0)))] fun s => completeCmd (resumeCtx s (hf h 2 11 0)) h 0)

/-! ## The rick command (R421, R422) -/

/-- A mover entry that belongs to the rick. -/
def rickEnt (t : Hart) (x : Ctx) (m : MvEnt) : Bool :=
  m.kind == .push || m.kind == .seal || m.kind == .pop || (!m.ent.mark && m.kind == .fresh && (isPush t x m.ent || isPop t x m.ent))

/-- A unit holds a frame, or an entry of the rick is queued or in flight. -/
def rickBusy (s : State) (c : Nat) (x : Ctx) : Bool :=
  x.units.any (fun u => match resOf s u c with
    | none => false
    | some r => !r.rick.frames.isEmpty || r.core.mq.any (fun q => q.2.ents.any (rickEnt (.res u c) x)))

def rickOfBlock (d : List W64) : RickBind :=
  { fold := bit (wd d 0) 50, maxfr := wf d 0 49 47 + 1, handle := wf d 1 47 12, unitGran := wf d 2 29 0, ctlOff := wf d 3 22 0
    foldOff := wf d 4 22 0, foldBytes := wf d 5 23 0 }

/-- The extent that a rick in HBM lies in. -/
def rickExtOk (x : Ctx) (b : RickBind) : Bool :=
  x.extents.any (fun e => e.cbase == b.handle * 4096 && (e.kind == 2 || e.kind == 3) && e.r && e.w && !e.x && !e.a)

def rickExtSize (x : Ctx) (b : RickBind) : Nat := ((findExt x (b.handle * 4096)).map (·.size)).getD 0

/-- The checks of a binding, each by its row of Table 11.2. (Log entry 41: DESIGN CHOICE.) -/
def rickBindChecks (x : Ctx) (d : List W64) : List (Nat × Bool) :=
  let b := rickOfBlock d
  [(4, b.fold && b.maxfr != 1), (5, wf d 0 46 0 != 0), (6, wf d 1 63 48 != 0), (7, if b.fold then b.handle == 0 else !(rickExtOk x b)),
   (8, wf d 1 11 0 != 0), (9, wf d 2 63 30 != 0),
   (10, if b.fold then b.unitGran != 0 else b.unitGran == 0 || decide (rickExtSize x b < b.unitGran * x.units.length)), (11, wf d 3 63 23 != 0),
   (12, b.ctlOff % 64 != 0 || !(inShare x b.ctlOff 64)), (13, wf d 4 63 23 != 0),
   (14, if b.fold then b.foldOff % 4096 != 0 || !(inShare x b.foldOff 1) else b.foldOff != 0), (15, wf d 5 63 24 != 0),
   (16, if b.fold then b.foldBytes % 4096 != 0 || !(within 0x10000 0x800000 b.foldBytes) || !(inShare x b.foldOff b.foldBytes)
          || overlap (b.foldOff, b.foldBytes) (b.ctlOff, 64)
        else b.foldBytes != 0),
   (17, !(zeroWords d [6, 7]))]

/-- With EN = 0 the rest of the block is reserved. (Log entry 41: DESIGN CHOICE.) -/
def rickFreeChecks (d : List W64) : List (Nat × Bool) :=
  [(3, wf d 0 50 50 != 0), (4, wf d 0 49 47 != 0), (5, wf d 0 46 0 != 0), (6, wf d 1 63 48 != 0), (7, wf d 1 47 12 != 0), (8, wf d 1 11 0 != 0),
   (9, wf d 2 63 30 != 0), (10, wf d 2 29 0 != 0), (11, wf d 3 63 23 != 0), (12, wf d 3 22 0 != 0), (13, wf d 4 63 23 != 0),
   (14, wf d 4 22 0 != 0), (15, wf d 5 63 24 != 0), (16, wf d 5 23 0 != 0), (17, !(zeroWords d [6, 7]))]

/-- Every pointer 0, and zeros into each unit's control block. (Log entry 41: DESIGN CHOICE.) -/
def clearRick (s : State) (c : Nat) (x : Ctx) (b : Option RickBind) : State :=
  x.units.foldl (fun s u =>
    let s1 := updRes s u c (fun r => { r with rick := {} })
    match b with
    | none => s1
    | some b => (shareWrite s1 x u b.ctlOff (zeros 64)).1) s

def execRick (s : State) : Out :=
  .next (withCur s 0x06 fun h s =>
    let d := blockWords h
    let c := wf d 0 63 52
    let en := wf d 0 51 51 == 1
    match ctxOf s c with
    | none => rejectCmd s h 1
    | some x =>
      checked s h ((1, !(runs s c) || rickBusy s c x) :: (if en then rickBindChecks x d else rickFreeChecks d)) fun s =>
        let b := if en then some (rickOfBlock d) else none
        let s1 := clearRick s c x (if en then b else x.rick)
        completeCmd (updCtx s1 c (fun y => { y with rick := b })) h 0)

/-! ## Evaluation windows (R444 to R446) -/

def updEval (s : State) (p : Nat) (f : EvalSt → EvalSt) : State := { s with eval := Tbl.put s.eval p (f (evalOf s p)) }

/-- The context has executed `cx.halt` on every unit of its set, and rests there. -/
def haltedAll (s : State) (c : Nat) : Bool :=
  match ctxOf s c with
  | none => false
  | some x => x.units.all (fun u => (resOf s u c).any (fun r => r.core.wait == .halt))

/-- The contexts an open command names. -/
def evalNames (h : HostCmd) : List Nat :=
  (List.range (hf h 2 11 8 + 1)).map (fun i => hf h (3 + i / 5) (12 * (i % 5) + 11) (12 * (i % 5)))

/-- Log entry 45: DESIGN CHOICE. -/
def execEvalOpen (s : State) : Out :=
  .next (withCur s 0x07 fun h s =>
    let p := hf h 2 5 0
    let cs := evalNames h
    checked s h [(1, (evalOf s p).st != .closed), (2, cs.any (fun c => ctxPart s c != some p)), (3, cs.any (fun c => !(haltedAll s c)))] fun s =>
      completeCmd (updEval s p (fun y => { y with st := .quiescing, ctxs := cs.eraseDups })) h 0)

/-- A weight-writing command of the partition, from a context that the window does not name, is at an engine. -/
def writesLeft (s : State) (p : Nat) : Bool :=
  s.se.any (fun y => y.2.cmds.any (fun m => seWeights m.op && !m.stream && (match m.ctx with
    | none => false
    | some c => ctxPart s c == some p && !((evalOf s p).ctxs.contains c))))

def execEvalWindowOpen (part : Nat) (s : State) : Out :=
  .next (if (evalOf s part).st == .quiescing && !(writesLeft s part) then
      (evalOf s part).ctxs.foldl resumeCtx (raiseEv (updEval s part (fun y => { y with st := .opened })) 0x0107 clsNotice part 0)
    else s)

/-- The first evaluation context neither halted nor removed. (Log entry 45: DESIGN CHOICE.) -/
def evalRuns (s : State) (p : Nat) : Option Nat := (evalOf s p).ctxs.find? (fun c => isLoaded s c && !(haltedAll s c))

/-- Log entry 45: DESIGN CHOICE. -/
def execEvalClose (s : State) : Out :=
  .next (withCur s 0x08 fun h s =>
    let p := hf h 2 5 0
    match (evalOf s p).st with
    | .closed => completeCmd s h 0
    | .quiescing => completeCmd (updEval s p (fun y => { y with st := .closed, ctxs := [] })) h 0
    | .opened =>
      match evalRuns s p with
      | some c => finishJob s h.job 1 1 (BitVec.ofNat 64 c)
      | none => completeCmd (raiseEv (updEval s p (fun y => { y with st := .closed, ctxs := [] })) 0x0108 clsNotice p 0) h 0)

end Sys2Proof.Machine
end

