-- ==== Sys2Proof/Machine/Repair.lean ====
section
/-!
DEFINITION. Sys2Proof/Machine/Repair.lean: errors and their containment (R28, R31, R38, R40, R41, R272, R276, R309, R312, R313, R357, R358,
R621, R624, R641), quarantine and spare units (R632 to R638), HBM sparing (R639, R640), the steward controllers (R647, R648), the
shared caches' flush and reservations (R283 to R286), FLT_ARM.
-/

namespace Sys2Proof.Machine

def armed (s : State) (b : Nat) : Bool := s.flt.arm.getLsbD b

/-- R649. -/
def execFltArm (v : W64) (s : State) : Out := .next (updFlt s (fun f => { f with arm := BitVec.ofNat 5 (fld v 4 0) }))

/-! ## Lines of HBM (R309, R358, R641) -/

/-- The shard of a defined weight set that holds an HBM address: set and index (R450). -/
def shardAt (s : State) (a : Nat) : Option (Nat × Nat) :=
  (s.sets.find? (fun p => isDefined p.2 && p.2.nshard != 0 && (setRanges p.2).any (fun r => decide (r.1 ≤ a) && decide (a < r.1 + r.2)))).map
    (fun p => (p.1, Tbl.get 0 p.2.shard0 (stackOf a) + (a - stackBase (stackOf a) - p.2.offset) / 2 ^ 26))

/-- A shard loses its verified state; a Complete set returns to Filling (R621, R641). -/
def loseShard (s : State) (a code : Nat) : State :=
  match shardAt s a with
  | none => s
  | some (n, i) => updSet s n (fun x => { x with shards := Tbl.put x.shards i code, st := if x.st = .complete then .filling else x.st })

/-- A line of HBM is found uncorrectable: the poison pattern, the event, the notices for shared weights. A clean copy in the home slice
goes; a dirty one is newer and stays. -/
def poisonLine (s : State) (b : Nat) (eng : Bool) : State :=
  let st := stackOf b
  let s1 : State := { s with poison := NSet.ins s.poison b, count := Tbl.del s.count (b / 128) }
  let s2 := updSe (dropClean s1 b 128) st (fun y => { y with hbmUe := y.hbmUe + 1, ue := if eng then y.ue + 1 else y.ue })
  let s3 := raiseEv s2 0x0202 clsError st b
  if inWeights s3 b then loseShard (s3.ctxs.foldl (fun s p => if ctxCovers p.2 b then noticeTo s p.1 b else s) s3) b 3 else s3

/-- A read of a line of HBM finds an error (R309). (Log entry 83: DESIGN CHOICE.) -/
def lineError (s : State) (a : Nat) (correctable eng : Bool) : State :=
  let b := a / 128 * 128
  if !(isHbm a) || poisoned s b then s
  else if correctable then updSe s (stackOf a) (fun y => { y with hbmCe := y.hbmCe + 1, ce := if eng then y.ce + 1 else y.ce })
  else poisonLine s b eng

def execHbmReadError (a : Nat) (correctable eng : Bool) (s : State) : Out := .next (lineError s a correctable eng)

/-- The patrol reads the next line of the stack: no error, a corrected one, an uncorrectable one (R358). -/
def execSePatrolScrub (st err : Nat) (s : State) : Out :=
  .next (let y := seOf s st
    if stackServes y then
      let s1 := setSe s st { y with scrubPos := (y.scrubPos + 128) % 2 ^ 37 }
      if err = 0 then s1 else lineError s1 (stackBase st + y.scrubPos) (err == 1) true
    else s)

/-- One registered range is hashed again (R357); a mismatch costs a shard its verified state (R621). A poisoned range gives no digest
(R627). -/
def execDigestReverify (st k : Nat) (s : State) : Out :=
  .next (let y := seOf s st
    match y.regns[k]? with
    | none => s
    | some r =>
      if y.digestInt = 0 || !(stackServes y) || rawPoison s r.src r.len then s
      else if sha256 (memBytes s r.src r.len) = r.digest then s
      else loseShard (raiseEv (setSe s st { y with digestFail := y.digestFail + 1 }) 0x0301 clsError st r.src) r.src 2)

/-! ## The shared caches (R38, R283, R286, R312, R313) -/

/-- A granule of a range of granules is homed in region r; three consecutive granules have both parities (R277). -/
def rangeHomes (r : Nat) (p : Nat × Nat) : Bool :=
  isHbm p.1 && (List.range (min 3 (p.2 / 4096))).any (fun i => homeRegion (p.1 + 4096 * i) == r)

/-- A context is mapped to a region (R38). -/
def mappedTo (x : Ctx) (r : Nat) : Bool :=
  x.units.any (fun u => regionOf u == r) || x.extents.any (fun e => (extRanges e).any (rangeHomes r))

/-- An uncorrectable error of a shared cache at byte a is reported to each context mapped to the region (R38). -/
def setError (s : State) (r a : Nat) : State :=
  s.ctxs.foldl (fun s p => if mappedTo p.2 r then raiseEv s 0x0206 clsError (argC p.1 + r) (a / 128 * 128) else s) s

/-- A dirty line is poisoned, with an event for each context mapped to the region. (Log entry 83: DESIGN CHOICE.) -/
def spoilLine (s : State) (r a : Nat) (l : ScLine) : State :=
  setError { s with lines := Tbl.put s.lines (a / 128) { l with poison := true } } r a

/-- The dirty lines among the addresses that an error may have touched. -/
def dirtyAt (s : State) (r : Nat) (as : List Nat) : List (Nat × ScLine) :=
  as.filterMap (fun a => match lineOf s (a / 128) with
    | some l => if l.dirty && isHbm a && homeRegion a == r then some (a, l) else none
    | none => none)

/-- The lines of the set of one address, by their first bytes: those an error in a tag of the set may touch (R312). (Log entry 83: DESIGN CHOICE.) -/
def setLines (s : State) (a : Nat) : List Nat :=
  (s.lines.filter (fun p => sameSlice p.1 (a / 128) && (p.1 == a / 128 || Config.scSet p.1 % 4096 == Config.scSet (a / 128) % 4096))).map
    (fun p => p.1 * 128)

/-- An uncorrectable error in a data word of one of the lines, or, `tag`, in a tag of the first line's set (R312): clean lines are read
again, dirty ones are lost. An error in a tag that costs no dirty line counts all the same. (Log entry 83: DESIGN CHOICE.) -/
def execScUncorrectable (r : Nat) (tag : Bool) (lines : List Nat) (s : State) : Out :=
  .next (let ds := dirtyAt s r (if tag then setLines s (lines.headD 0) else lines)
    if lines.isEmpty then s
    else if tag && ds.isEmpty then setError (updSc s r (fun x => { x with ue := x.ue + 1 })) r (lines.headD 0)
    else if ds.isEmpty then updSc s r (fun x => { x with ce := x.ce + 1 })
    else ds.foldl (fun s p => spoilLine s r p.1 p.2) (updSc s r (fun x => { x with ue := x.ue + 1 })))

def execScPatrolScrub (r ce : Nat) (s : State) : Out := .next (updSc s r (fun x => { x with ce := x.ce + BitVec.ofNat 64 ce }))

def execScFlush (r : Nat) (s : State) : Out := .next (updSc s r (fun x => { x with busy := true }))

/-- Every dirty line of the region goes back and every line goes (R286). A line whose stack does not serve keeps the flush waiting. -/
def execScFlushComplete (r : Nat) (s : State) : Out :=
  .next (let mine := s.lines.filter (fun p => homeRegion (p.1 * 128) == r)
    if !(scOf s r).busy || mine.any (fun p => p.2.dirty && addrWaits s (p.1 * 128)) then s
    else
      let s1 := mine.foldl (fun s p => if p.2.dirty then writeBack s p.1 p.2 else s) s
      updSc { s1 with lines := s1.lines.filter (fun p => homeRegion (p.1 * 128) != r) } r (fun x => { x with busy := false }))

/-- At least 4 ways are neither reserved nor drove ways, and no way is both (R283). -/
def waysOk (rsv : List (Nat × BitVec 24)) (drove : Nat) : Bool :=
  let all := rsv.foldl (fun a p => a ||| p.2.toNat) 0
  decide (popcount 24 all + drove ≤ 20) && (List.range drove).all (fun i => !(all.testBit (23 - i)))

/-- A write of SC_DROVE_WAYS (offset 0x1018) or of SC_WAY_RSV[p] (0x1100 + 8p). A drove way caches no HBM: the lines in it leave, and the
write waits while the stack of a dirty one takes no access. A reservation moves no line (R284). (Log entry 102: DESIGN CHOICE.) -/
def execScWayRsv (r off : Nat) (v : W64) (s : State) : Out :=
  .next (let x := scOf s r
    let bad := setSc s r { x with rsvErr := true }
    if off = 0x1018 then
      (if fld v 3 0 ≤ 8 ∧ waysOk x.wayRsv (fld v 3 0) = true then
        let out := s.lines.filter (fun p => homeRegion (p.1 * 128) == r && decide (24 - fld v 3 0 ≤ p.2.way))
        (if out.any (fun p => p.2.dirty && stackWaits s (p.1 * 128)) then s
         else out.foldl evictLine (setSc s r { x with droveWays := fld v 3 0 }))
       else bad)
    else if 0x1100 ≤ off ∧ off < 0x1300 ∧ off % 8 = 0 then
      let w := Tbl.set 0 x.wayRsv ((off - 0x1100) / 8) (BitVec.ofNat 24 (fld v 23 0))
      (if waysOk w x.droveWays then setSc s r { x with wayRsv := w } else bad)
    else s)

/-! ## Unit stores and operand caches (R27, R272, R275, R276) -/

/-- The residents whose share, save area or operand-cache share holds a word just lost. A lost word of a tile image waits for the
restore (R628). -/
def wordOwners (s : State) (u : Nat) (us oc : List Nat) : List Nat :=
  (residents s u).filterMap (fun p => match ctxOf s p.1 with
    | none => none
    | some x =>
      let hit := us.any (fun o => (decide (shareOff x ≤ o) && decide (o < shareOff x + shareSize x))
          || (decide (saveOff x ≤ o) && decide (o < saveOff x + saveSize) && !(tileOnly (o / 32 * 32 - saveOff x))))
        || oc.any (fun o => decide (ocOff x ≤ o) && decide (o < ocOff x + ocSize x))
      if hit then some p.1 else none)

/-- The patrol of a unit's store and operand cache: so many corrected words, and the offsets of uncorrectable ones. (Log entry 81: DESIGN CHOICE.) -/
def execUsPatrolScrub (u ce : Nat) (us oc : List Nat) (s : State) : Out :=
  .next (if s.pwr.gated.contains (regionOf u) then s
    else
      let a := us.filter (fun o => decide (o < 0x800000))
      let b := oc.filter (fun o => decide (o < 0x100000))
      let gs := a.map (fun o => usAddr u (o / 32 * 32)) ++ b.map (fun o => ocAddr u (o / 32 * 32))
      let s1 : State := { s with poison := gs.foldl NSet.ins s.poison }
      let s2 := updFlt s1 (fun f => { f with usCe := f.usCe + BitVec.ofNat 64 ce, usUe := f.usUe + BitVec.ofNat 64 gs.length })
      (wordOwners s u a b).foldl
        (fun s c => bump (raiseFault s c fPoison ((Config.freeWord s.freeCtr).toNat % 2 ^ 48) u none)) s2)

/-! ## Quarantine and spare units (R28, R52, R632 to R636) -/

/-- The physical site that serves a LUN (Table 1.3). -/
def siteOf (s : State) (u : Nat) : Nat := if (unitOf s u).spareIn then 32 + regionOf u % 2 else u % 32

/-- The spare site of a unit's region is neither in use, nor being put in use, nor failed. -/
def spareFree (s : State) (u : Nat) : Bool :=
  let r := regionOf u
  !(s.flt.spareUsed.getLsbD r) && !(s.flt.spareFail.getLsbD r) && (regionUnits r).all (fun v => (unitOf s v).quar != .substituting)

/-- Quarantine: UNIT_MAP.EN reads 0, the other residents are held, and an armed substitution begins. -/
def quarantine (s : State) (u : Nat) : State :=
  let sub := armed s 0 && spareFree s u && !(unitOf s u).spareIn
  let s1 := updUnit s u (fun x => { x with en := false, quar := if sub then .substituting else .quarantined, spareFrom := s.time.now })
  let s2 := (residents s1 u).foldl (fun s p => updRes s u p.1 (fun r => { r with held := true })) s1
  raiseEv s2 0x0901 clsError (argL u + siteOf s u) 0

def execUnitLogicError (u : Nat) (s : State) : Out :=
  .next (let x := unitOf s u
    if !x.en || x.quar != .inService then s
    else
      let s1 := updFlt s (fun f => { f with parity := f.parity + 1 })
      quarantine (match x.running with
        | none => s1
        | some c => hwFault s1 c u) u)

/-- Time since the quarantine or the SPARE command that began the unit's repair, in µs (R633, R636). -/
def spareTime (s : State) (u : Nat) : Nat := (s.time.now - (unitOf s u).spareFrom).toNat / 16000

/-- A command on the unit ends. -/
def endSpare (s : State) (u code us : Nat) : State :=
  match (unitOf s u).spareJob with
  | none => s
  | some j => finishJob (updUnit s u (fun x => { x with spareJob := none })) j code 0 (BitVec.ofNat 64 us)

/-- A resident whose areas hold a poisoned word at the copy takes the fault, and so do all where the site's stores cannot be read (R634). (Log entry 81: DESIGN CHOICE.) -/
def copyFaults (s : State) (u : Nat) (readable : Bool) : State :=
  (residents s u).foldl (fun s p => match ctxOf s p.1 with
    | none => s
    | some x =>
      if p.2.held && (!readable || (scrubRanges x u).any (fun r => rawPoison s r.1 r.2)) then
        bump (raiseFault s p.1 fPoison ((Config.freeWord s.freeCtr).toNat % 2 ^ 48) u none)
      else s) s

/-- The substitution ends: the spare passed its self-test or not, the failed site's stores could be read or not (R633 to R635). (Log entry 112: DESIGN CHOICE.) -/
def execSpareSubstitute (u : Nat) (pass readable : Bool) (t : W64) (s : State) : Out :=
  .next (let s := advance s t
    let us := spareTime s u
    if (unitOf s u).quar != .substituting || repairsWait s then s
    else if !pass then
      endSpare (updFlt (updUnit s u (fun x => { x with quar := .quarantined }))
        (fun f => { f with spareFail := f.spareFail ||| BitVec.ofNat 16 (2 ^ regionOf u) })) u 2 us
    else
      let s1 := copyFaults s u readable
      let s2 := if readable then s1 else zeroUnit s1 u
      let s3 := updFlt (updUnit s2 u (fun x => { x with spareIn := true }))
        (fun f => { f with spareUsed := f.spareUsed ||| BitVec.ofNat 16 (2 ^ regionOf u) })
      let s4 := endSpare (appendSupp s3 0 u) u 0 us
      raiseEv (backInService s4 u) 0x0902 clsNotice (argL u + 32 + regionOf u % 2) us)

/-- A retest ends: the unit returns under R638, or its site is marked failed. (Log entry 82: DESIGN CHOICE.) -/
def execUnitReturn (u : Nat) (pass : Bool) (t : W64) (s : State) : Out :=
  .next (let s := advance s t
    let us := spareTime s u
    if (unitOf s u).quar != .retesting || repairsWait s then s
    else if pass then unitBack (endSpare s u 0 us) u
    else endSpare (appendSupp (updUnit s u (fun x => { x with quar := .quarantined })) 2 u) u 2 us)

/-- The unit stands in quarantine, whatever is being done about it. -/
def inQuarantine (s : State) (u : Nat) : Bool := (unitOf s u).quar != .inService && (unitOf s u).quar != .retired

def spareChecks (s : State) (h : HostCmd) : List (Nat × Bool) :=
  let u := hf h 2 7 0
  let act := hf h 2 9 8
  [(1, act == 3 || hf h 2 63 10 != 0 || [3, 4, 5, 6, 7].any (fun i => wd h.ws i != 0)), (2, (runCfg s.trust).items.disabled.contains u),
   (3, if act = 2 then (unitOf s u).quar == .retired else !(inQuarantine s u)), (4, act == 0 && !(spareFree s u)),
   (5, (regionUnits (regionOf u)).any (fun v => (unitOf s v).spareJob.isSome))]

/-- RETIRE: the residents are torn down without a fault event, and the unit stays disabled across starts. (Log entry 82: DESIGN CHOICE.) -/
def retireUnit (s : State) (u : Nat) : State :=
  appendSupp ((residents s u).foldl (fun s p => stopCtx s p.1) (updUnit s u (fun x => { x with en := false, quar := .retired }))) 1 u

/-- Log entry 82: DESIGN CHOICE. -/
def execSpare (s : State) : Out :=
  .next (withCur s 0x39 fun h s =>
    let u := hf h 2 7 0
    checked s h (spareChecks s h) fun s =>
      match hf h 2 9 8 with
      | 0 => updUnit s u (fun x => { x with quar := .substituting, spareJob := some h.job, spareFrom := h.since })
      | 1 => updUnit s u (fun x => { x with quar := .retesting, spareJob := some h.job, spareFrom := h.since })
      | _ => completeCmd (retireUnit s u) h ((s.time.now - h.since).toNat / 16000))

/-! ## Clusters, stacks, dies (R31, R40, R41, R50) -/

/-- Contexts that own a unit of a list, each with one such unit. -/
def ownersOf (s : State) (us : List Nat) : List (Nat × Nat) :=
  s.ctxs.filterMap (fun p => (p.2.units.find? (fun u => us.contains u)).map (fun u => (p.1, u)))

def faultOwners (s : State) (us : List Nat) : State := (ownersOf s us).foldl (fun s p => hwFault s p.1 p.2) s

/-- The units that the clock of a cluster, or of the spare site that serves a unit of it, runs. -/
def clockUnits (s : State) (cl : Nat) (spare : Bool) : List Nat :=
  ((List.range 4).map (fun i => 4 * cl + i)).filter (fun u => !spare || (unitOf s u).spareIn)

/-- The clock of a cluster, or of its region's spare site, fails (R31, R50). (Log entries 82: DESIGN CHOICE, 92: DESIGN CHOICE.) -/
def clockFault (s : State) (cl : Nat) (spare : Bool) : State :=
  let s1 := faultOwners s (clockUnits s cl spare)
  let i := if spare then 64 + cl / 4 else cl
  let s2 := updFlt (islandOff s1 i) (fun f => { f with clkFault := NSet.ins f.clkFault i })
  raiseEv (updFlt s2 (fun f => { f with clock := f.clock + 1 })) 0x0904 clsError cl 0

def execClusterClockFault (cl : Nat) (spare : Bool) (s : State) : Out := .next (clockFault s cl spare)

/-- A context has granules on a stack (R40). (Log entry 113: DESIGN CHOICE.) -/
def onStack (x : Ctx) (st : Nat) : Bool := x.extents.any (fun e => (extRanges e).any (fun r => isHbm r.1 && stackOf r.1 == st && r.2 != 0))

/-- A stack is lost: its engine's commands end, and every context with granules on it takes the fault. (Log entry 84: DESIGN CHOICE.) -/
def loseStack (s : State) (st : Nat) : State :=
  let y := seOf s st
  let s1 := (y.cmds.filterMap (·.job)).foldl (fun s j => finishJob s j 2 0 0) (dropCmds s st (fun _ => false))
  let s2 := updSe s1 st (fun y => { y with failed := true, inst := [], copying := none, blocked := [] })
  s2.ctxs.foldl (fun s p => if onStack p.2 st then hwFault s p.1 (p.2.units.headD 0) else s) s2

def stackFails (s : State) (st : Nat) : State :=
  if (seOf s st).failed then s else loseStack (raiseEv s 0x0302 clsCritical st 0) st

def execStackFail (st : Nat) (s : State) : Out := .next (stackFails s st)

/-- A core regulator group faults: the die's 32 units, its two regions and its three stacks leave service. (Log entry 82: DESIGN CHOICE.) -/
def dieFails (s : State) (d : Nat) : State :=
  let us := (List.range 32).map (fun i => 32 * d + i)
  let s1 := raiseEv (updFlt s (fun f => { f with dieOut := f.dieOut ||| BitVec.ofNat 8 (2 ^ d) })) 0x0905 clsCritical d 0
  let s2 := us.foldl (fun s u => updUnit s u (fun x => { x with en := false })) (faultOwners s1 us)
  let s3 := ((List.range 8).map (8 * d + ·) ++ [64 + 2 * d, 65 + 2 * d]).foldl islandOff s2
  [3 * d, 3 * d + 1, 3 * d + 2].foldl (fun s st => if (seOf s st).failed then s else loseStack s st) s3

def execRegulatorFault (d : Nat) (s : State) : Out := .next (if s.flt.dieOut.getLsbD d then s else dieFails s d)

/-- A fault that no lower level contains: the package event, and the device holds (R4, R42). (Log entry 84: DESIGN CHOICE.) -/
def execPackageFault (src : Nat) (s : State) : Out := .next (updFlt (packageEvent s src) (fun f => { f with pkgHold := NSet.ins f.pkgHold src }))

/-! ## HBM sparing (R639, R640) -/

/-- The stack can take a spare: nothing is under repair there, and the controller works. (Log entry 80: DESIGN CHOICE.) -/
def mayRepair (s : State) (a : Nat) : Bool :=
  let y := seOf s (stackOf a)
  isHbm a && !(repairsWait s) && !y.failed && y.copying.isNone && y.blocked.isEmpty

/-- A spare is taken: the supplement entry and the event. (Log entry 80: DESIGN CHOICE.) -/
def spareTaken (s : State) (a kind : Nat) : State :=
  raiseEv (appendSupp s (4 + kind) a) 0x0908 clsNotice (kind * 2 ^ 8 + stackOf a) a

/-- Post-package repair of a row; the bank is blocked until it is done. A bank has 4 spare rows. -/
def execHbmRowSpare (a : Nat) (s : State) : Out :=
  .next (if mayRepair s a && armed s 1 && decide (Tbl.get 0 (seOf s (stackOf a)).rowSpares (hbmBank a) < 4) then
      spareTaken (updSe s (stackOf a) (fun y => { takeRow y a with blocked := [hbmBank a] })) a 0
    else s)

def execHbmRowRepairDone (st : Nat) (s : State) : Out := .next (updSe s st (fun y => { y with blocked := [] }))

def execHbmBankSpare (a : Nat) (s : State) : Out :=
  .next (if mayRepair s a && armed s 2 && (bankReserve (seOf s (stackOf a))).isSome
        && (Tbl.find? (seOf s (stackOf a)).bankSpares (hbmBank a)).isNone then
      spareTaken (updSe s (stackOf a) (fun y => { takeBank y a with copying := some (1, a) })) a 1
    else s)

/-- A pseudo-channel takes an unused reserve; with none left the stack fails. -/
def execHbmPcSpare (a : Nat) (s : State) : Out :=
  .next (if mayRepair s a && armed s 3 then
      (if (pcReserve (seOf s (stackOf a))).isSome then
        spareTaken (updSe s (stackOf a) (fun y => { takePc y a with copying := some (2, a) })) a 2
       else stackFails s (stackOf a))
    else s)

def execHbmSpareCopyDone (st : Nat) (s : State) : Out := .next (updSe s st (fun y => { y with copying := none }))

/-! ## Steward controllers (R647, R648) -/

def stewardDown (s : State) (n : Nat) : Bool := if n = 0 then s.flt.down0 else s.flt.down1

/-- Resets of a controller within the last hour. -/
def recentResets (s : State) (n : Nat) : Nat :=
  (s.flt.resetAt.filter (fun p => p.1 == n && decide ((s.time.now - p.2).toNat ≤ 57600000000000))).length

/-- A controller is reset; the third reset within an hour holds it and the device. -/
def resetSteward (s : State) (n : Nat) : State :=
  let s1 := packageEvent (updFlt s (fun f => { f with
    resets0 := if n = 0 then (f.resets0 + 1) % 2 ^ 16 else f.resets0, resets1 := if n = 0 then f.resets1 else (f.resets1 + 1) % 2 ^ 16
    down0 := f.down0 || n == 0, down1 := f.down1 || n != 0, resetAt := f.resetAt ++ [(n, s.time.now)] })) (4 + n)
  if 3 ≤ recentResets s1 n then updFlt s1 (fun f => { f with heldDown := NSet.ins f.heldDown n, pkgHold := NSet.ins f.pkgHold (4 + n) }) else s1

def execStewardWatchdog (n : Nat) (s : State) : Out := .next (if stewardDown s n then s else resetSteward s n)
def execStewardMemoryUe (n : Nat) (s : State) : Out := .next (if stewardDown s n then s else resetSteward s n)

/-- The firmware is reloaded and the controller resumes its role. -/
def execStewardResume (n : Nat) (s : State) : Out :=
  .next (if s.flt.heldDown.contains n then s
    else updFlt s (fun f => { f with down0 := f.down0 && n != 0, down1 := f.down1 && n == 0 }))

def execStewardBeat (n : Nat) (s : State) : Out :=
  .next (if stewardDown s n then s
    else updFlt s (fun f => { f with beat0 := if n = 0 then f.beat0 + 1 else f.beat0, beat1 := if n = 0 then f.beat1 else f.beat1 + 1 }))

end Sys2Proof.Machine
end

