-- ==== Sys2Proof/Machine/Time.lean ====
section
/-!
DEFINITION. Sys2Proof/Machine/Time.lean: fabric time and its discipline (R653 to R662, R664): the upstream of a follower, steps and slews,
the states of Table 18.3, TIME_SET, TIME_CTL, the pulses in and out, the approach warning.
-/

namespace Sys2Proof.Machine

def updTime (s : State) (f : TimeSt → TimeSt) : State := { s with time := f s.time }

/-- A 64-bit difference read as signed (R654). -/
def serialDiff (a b : W64) : Int := (a - b).toInt

/-! ## Upstream and stratum (R658) -/

/-- The Up port of UP_PORTS whose neighbour reports the lowest stratum below 255, the lower port among equals. -/
def upstream (s : State) : Option Nat :=
  ((bitList 12 s.time.upPorts.toNat).filter (fun p => isUp s p && decide ((portOf s p).nbStratum < 255))).foldl
    (fun acc p => match acc with
      | none => some p
      | some q => if (portOf s p).nbStratum < (portOf s q).nbStratum then some p else some q) none

def stratum (s : State) : Nat :=
  if s.time.root then 0
  else match upstream s with
    | none => 255
    | some p => min 255 ((portOf s p).nbStratum + 1)

/-! ## Steps, slews, states -/

/-- 4 ns, within which an offset counts as none, and 1 µs, in 1/16 ns. -/
def offsTight : Int := 64
def stepLimit : Int := 16000

/-- The rate of a slew (R660): of the sign that closes the offset, up to ±1,000 ppm; how much is not stated. (Log entry 90: DESIGN CHOICE.) -/
def slewPpb (s : State) (off : Int) : BitVec 32 :=
  let m : Int := ((Config.freeWord s.freeCtr).toNat % 1000001 : Nat)
  BitVec.ofInt 32 (if off < 0 then m else -m)

/-- Corrects the phase by an offset (R660): forward in a step when no context is loaded and the device is more than 1 µs behind,
otherwise by a slew. -/
def correctPhase (s : State) (off : Int) : State :=
  if off < -stepLimit ∧ !(anyCtx s) then
    updTime s (fun t => { t with now := t.now + BitVec.ofInt 64 (-off), offs := 0, ppb := 0 })
  else if off < -offsTight ∨ offsTight < off then bump (updTime s (fun t => { t with offs := off, ppb := slewPpb s off }))
  else updTime s (fun t => { t with offs := off, ppb := 0 })

/-- Locked after 100 exchanges within 4 ns; the return from Holdover is reported (R661). (Log entry 90: DESIGN CHOICE.) -/
def countExchange (s : State) (off : Int) : State :=
  let tight : Bool := decide (-offsTight ≤ off) && decide (off ≤ offsTight)
  let n := if tight then s.time.good + 1 else 0
  if s.time.disc == .acquiring && decide (100 ≤ n) then
    let s1 := updTime s (fun t => { t with disc := .locked, good := 0, fromHold := false })
    if s.time.fromHold then raiseEv s1 0x0A02 clsWarning 1 0 else s1
  else updTime s (fun t => { t with good := n })

/-- Free or Holdover to Acquiring. -/
def acquire (s : State) : State :=
  if s.time.disc == .free || s.time.disc == .holdover then
    updTime s (fun t => { t with disc := .acquiring, good := 0, fromHold := t.disc == .holdover })
  else s

/-- A follower takes up its upstream: a change between two ports is slewed from Acquiring (R661). -/
def takeUpstream (s : State) (p : Nat) : State :=
  if s.time.upPort = some p then acquire s
  else
    let s1 := updPort (acquire s) p (fun x => { x with offs := [] })
    updTime s1 (fun t => { t with upPort := some p, good := 0, disc := if t.disc == .locked then .acquiring else t.disc })

/-- Average of at most 16 exchanges. (Log entry 90: DESIGN CHOICE.) -/
def meanOffs (l : List Int) : Int := if l.isEmpty then 0 else l.foldl (· + ·) 0 / (l.length : Int)

/-- An exchange with the upstream (R659). -/
def exchange (s : State) (p : Nat) (off : Int) : State :=
  let l := (off :: (portOf s p).offs).take 16
  let m := meanOffs l
  let s1 := countExchange (correctPhase (updPort s p (fun x => { x with offs := l })) m) m
  if m < -stepLimit ∧ !(anyCtx s) then updPort s1 p (fun x => { x with offs := [] }) else s1

/-- A TIMING word: the neighbour's stratum, and for a follower's upstream the four times of an exchange, t1 sent, t2 received, t3 sent
back, t4 received back. The time of its receipt is kept for the next word sent. (Log entry 90: DESIGN CHOICE.) -/
def execTiming (p stratum : Nat) (t1 t2 t3 t4 : W64) (s : State) : Out :=
  .next (if isUp s p then
      let s1 := updPort s p (fun x => { x with nbStratum := min 255 stratum, stamps := [x.stamps.headD 0, s.time.now] })
      if s.time.root then s1
      else match upstream s1 with
        | none => s1
        | some q =>
          let s2 := takeUpstream s1 q
          if q = p then exchange s2 p ((serialDiff t2 t1 - serialDiff t4 t3) / 2) else s2
    else s)

/-- A TIMING word goes out with the stratum and the send and receive times of the previous exchange. -/
def execTimingSend (p : Nat) (t : W64) (s : State) : Out :=
  .next (let s1 := advance s t
    if isUp s1 p then
      updPort s1 p (fun x => { sendWord x 3 (stratum s1 :: x.stamps.map (·.toNat)) with stamps := [s1.time.now, x.stamps.getD 1 0] })
    else s1)

/-! ## Registers -/

/-- R660. (Log entry 91: DESIGN CHOICE.) -/
def execTimeSet (v : W64) (s : State) : Out :=
  .next (let behind : Bool := decide ((v - s.time.now).toNat = 0 ∨ 2 ^ 63 ≤ (v - s.time.now).toNat)
    if !s.time.root then updTime s (fun t => { t with eRole := true })
    else if anyCtx s || behind then
      updTime s (fun t => { t with eBusy := t.eBusy || anyCtx s, eBack := t.eBack || (behind && v != s.time.now) })
    else updTime s (fun t => { t with now := v }))

/-- Table 18.8 and Table 18.3. -/
def execTimeCtl (v : W64) (s : State) : Out :=
  .next (
    let root := bit v 0
    let src := fld v 3 2
    let s1 := updTime s (fun t => { t with upPorts := BitVec.ofNat 12 (fld v 27 16), ppsOutEn := bit v 4, src := src, root := root
                                           ppsOut := t.ppsOut && bit v 4 })
    if root && src == 0 then updTime s1 (fun t => { t with disc := .free, good := 0, fromHold := false, ppb := 0, offs := 0, upPort := none })
    else if root then (if s.time.disc == .free then acquire s1 else s1)
    else match upstream s1 with
      | none => s1
      | some p => takeUpstream s1 p)

/-! ## Pulses (R657, R662) -/

def second : Nat := 16000000000

/-- The offset of a time from the nearest multiple of a second. -/
def secondOffs (now : Nat) : Int :=
  let r := now % second
  if r < second / 2 then (r : Int) else (r : Int) - (second : Int)

/-- Log entry 90: DESIGN CHOICE. -/
def execPpsIn (t : W64) (s : State) : Out :=
  .next (let s1 := advance s t
    if s1.time.root && (s1.time.src == 1 || s1.time.src == 3) then
      let off := secondOffs s1.time.now.toNat
      let s2 := acquire s1
      countExchange (correctPhase s2 off) off
    else s1)

/-- PPS_OUT is high for 10 µs from each multiple of a second. -/
def execPpsOut (t : W64) (s : State) : Out :=
  .next (updTime (advance s t) (fun x => { x with ppsOut := x.ppsOutEn && decide (x.now.toNat % second < 160000) }))

/-- REF10M_IN is present again. (Log entry 90: DESIGN CHOICE.) -/
def execRef10mInReturn (s : State) : Out :=
  .next (if s.time.root && (s.time.src == 2 || s.time.src == 3) && s.time.disc == .holdover then acquire s else s)

/-! ## Loss and approach -/

/-- The source that `cause` names is one that disciplines this device: 0 upstream, 1 PPS_IN, 2 REF10M_IN. -/
def lostSource (s : State) (cause : Nat) : Bool :=
  match cause with
  | 0 => !s.time.root && (upstream s).isNone
  | 1 => s.time.root && (s.time.src == 1 || s.time.src == 3)
  | _ => s.time.root && (s.time.src == 2 || s.time.src == 3)

def execDisciplineLoss (cause : Nat) (t : W64) (s : State) : Out :=
  .next (let s1 := advance s t
    if lostSource s1 cause && (s1.time.disc == .locked || s1.time.disc == .acquiring) then
      raiseEv (updTime s1 (fun x => { x with disc := .holdover, good := 0, upPort := none
                                             ePps := x.ePps || cause == 1, eRef := x.eRef || decide (2 ≤ cause) }))
        0x0A02 clsWarning 0 0
    else s1)

/-- The warning of R664, kind 0x01, once for each approach. (Log entry 90: DESIGN CHOICE.) -/
def execFabricTimeApproach (t : W64) (s : State) : Out :=
  .next (let s1 := advance s t
    let near : Bool := decide (0xC000000000000000 ≤ s1.time.now.toNat)
    if near && !s1.time.approach then raiseEv (updTime s1 (fun x => { x with approach := true })) 0x0A01 clsWarning 1 0
    else updTime s1 (fun x => { x with approach := x.approach && near }))

end Sys2Proof.Machine
end

