-- ==== Sys2Proof/Machine/Boot.lean ====
section
/-!
DEFINITION. Sys2Proof/Machine/Boot.lean: start-up (R589 to R593, R600, R604 to R607), supplies and reference clock (R696 to R699, R703),
firmware and record staging, commit and key generation (R601, R602, R610).
-/

namespace Sys2Proof.Machine

/-! ## Objects of the keeping store -/


def fwUsable (t : TrustSt) (o : KsObj) : Bool := o.present && o.ok && decide (t.fwSvn.toNat ≤ o.svn)
def cfgUsable (t : TrustSt) (o : KsObj) : Bool := o.present && o.ok && o.serial == t.serial && decide (t.cfgSvn.toNat ≤ o.version)

/-- The slot to use: the usable one of the higher version, slot A among equals (R590, R600). -/
def pickSlot (usable : KsObj → Bool) (a b : KsObj) : Option Bool :=
  if usable b && (!(usable a) || decide (a.version < b.version)) then some true
  else if usable a then some false else none

/-! ## Start-up -/

/-- A time of at most n ms that the device takes. (Log entry 77: DESIGN CHOICE.) -/
def msWithin (s : State) (n : Nat) : Nat := (Config.freeWord s.freeCtr).toNat % (n + 1)

/-- The SRAM block of I/O die 0, 64 KiB, as power-up leaves it (R593). (Log entry 109: DESIGN CHOICE.) -/
def sramBlock (sram : List Byte) : List Byte := fixLen 0x10000 sram

/-- What steps 2 to 4 leave in the steward controllers, for the slots picked: secrets, the supplement's verdict, the identity (R592 to R595). -/
def stewardBoot (t : TrustSt) (f c : Bool) : TrustSt :=
  let ident := unsealed t
  { t with phase := 1, fwSlot := f, cfgSlot := c, suppBad := suppBad t, retest := suppUnits t, identOk := ident.isSome, seed := ident.getD []
           fail := if ident.isSome then 0 else 4 }

/-- Steps 3 and 4 once K_PUF is there, with their failures (Table 16.9). -/
def bootWith (s : State) : State :=
  let t := s.trust
  match pickSlot (fwUsable t) t.fwA t.fwB, pickSlot (cfgUsable t) t.cfgA t.cfgB with
  | none, _ => updTrust s (fun x => { x with phase := 6, fail := 2 })
  | some f, none => updTrust s (fun x => { x with phase := 7, fail := 3, fwSlot := f })
  | some f, some c => bump (applySupp (updTrust s (fun x => { stewardBoot x f c with bootMs := msWithin s 30 * 2 ^ 16 })))

/-- Steps 1 to 4 of Table 16.8: K_PUF is reconstructed from the SRAM block and the helper data, or start-up stops in Failed (R593). -/
def standbyBoot (sram : List Byte) (s : State) : State :=
  if s.trust.phase != 0 then s
  else match Config.pufKey (sramBlock sram) (helperBytes s.trust) with
    | none => updTrust s (fun x => { x with phase := 7, fail := 1 })
    | some k => bootWith (updTrust s (fun x => { x with kPuf := k }))

def execStandbyBoot (sram : List Byte) (s : State) : Out := .next (standbyBoot sram s)

/-- The host port comes Up with all four modules. -/
def portUp (s : State) : State := updHost s (fun h => { h with link := 2, ioUp := true, modules := 15 })

/-- A failed unit is covered by its region's spare where that is free (R52); it is reported all the same. (Log entry 78: DESIGN CHOICE.) -/
def coverUnit (s : State) (u : Nat) : State :=
  let s1 := raiseEv s 0x0901 clsError (argL u + siteOf s u) 0
  if spareFree s u && !(unitOf s u).spareIn then
    updFlt (updUnit s1 u (fun x => { x with en := true, spareIn := true, quar := .inService }))
      (fun f => { f with spareUsed := f.spareUsed ||| BitVec.ofNat 16 (2 ^ regionOf u) })
  else updUnit s1 u (fun x => { x with en := false, quar := .quarantined })

/-- The failures that start-up finds: codes 0 to 7 a die's regulators, 8 to 31 a stack, 32 to 287 a unit. (Log entry 78: DESIGN CHOICE.) -/
def bootFail (s : State) (c : Nat) : State :=
  if c < 8 then (if dieOutOf s c then s else dieFails s c) else if c < 32 then stackFails s (c - 8) else if c < 288 then coverUnit s (c - 32) else s

/-- FAIL for the first failure in the order of the steps: regulators, stacks, units. (Log entry 78: DESIGN CHOICE.) -/
def failCode (old : Nat) (l : List Nat) : Nat :=
  if old ≠ 0 then old
  else if l.any (fun c => decide (c < 8)) then 5
  else if l.any (fun c => decide (c < 32)) then 6
  else if l.any (fun c => decide (c < 288)) then 7 else 0

/-- Units whose site the supplement marks as failed, and that self-test does not test again. (Log entry 78: DESIGN CHOICE.) -/
def markedUnits (s : State) : List Nat :=
  ((List.range 256).filter (fun u => (unitOf s u).quar == .quarantined && !(s.trust.retest.contains u))).map (· + 32)

/-- A unit that the supplement marks and that passes its retest is in service (R592). (Log entry 79: DESIGN CHOICE.) -/
def retestPass (failed : List Nat) (s : State) (u : Nat) : State :=
  if failed.contains (u + 32) || (unitOf s u).quar != .quarantined then s
  else updUnit s u (fun x => { x with en := true, quar := .inService })

/-- The failures of a step take effect, and FAIL keeps the first (Table 16.9). -/
def stepFails (s : State) (all found : List Nat) : State :=
  updTrust (all.foldl bootFail s) (fun t => { t with fail := failCode t.fail found })

/-- Step 5: the regulators start with the trims, I/O dies first; every store is zero from here on. -/
def toPowering (s : State) : State :=
  updTrust (updPwr (dropCompute s) (fun w => { w with st := .saving, v12 := true, trims := (runCfg s.trust).items.trims }))
    (fun t => { t with phase := 2 })

/-- Step 6, with the dies whose regulators failed: networks and host-port training start. -/
def toTraining (failed : List Nat) (s : State) : State :=
  let l := failed.filter (fun c => decide (c < 8))
  updTrust (updHost (stepFails s l l) (fun h => { h with link := if h.link = 0 then 1 else h.link })) (fun t => { t with phase := 3 })

/-- Step 8, with the stacks that failed training; the host port is Up. -/
def toTesting (failed : List Nat) (s : State) : State :=
  let l := failed.filter (fun c => decide (8 ≤ c) && decide (c < 32))
  updTrust (portUp (stepFails s l l)) (fun t => { t with phase := 4 })

/-- Step 10, with the units that failed self-test: the device accepts commands. Package events owed are raised. -/
def toReady (failed : List Nat) (s : State) : State :=
  let l := failed.filter (fun c => decide (32 ≤ c))
  let s1 := stepFails (s.trust.retest.foldl (retestPass failed) s) (l ++ markedUnits s) l
  let s2 := bump (updTrust s1 (fun t => { t with phase := 5, retest := [], bootMs := t.bootMs + msWithin s1 187 }))
  s2.flt.owed.foldl packageEvent (updFlt s2 (fun f => { f with owed := [] }))

/-- The next phase of start-up (Table 16.8). -/
def nextPhase (failed : List Nat) (s : State) : State :=
  match s.trust.phase with
  | 1 => toPowering s
  | 2 => toTraining (failed.foldl NSet.ins []) s
  | 3 => toTesting (failed.foldl NSet.ins []) s
  | 4 => toReady (failed.foldl NSet.ins []) s
  | _ => s

/-- Start-up from its phase up to phase n. (Log entry 78: DESIGN CHOICE.) -/
def powerTo (failed : List Nat) (n : Nat) : Nat → State → State
  | 0, s => s
  | k + 1, s => if s.trust.phase < n then powerTo failed n k (nextPhase failed s) else s

/-- With V12 in range, start-up runs up to phase n; `failed` are the parts that the tests of those phases find. In Recovery and Failed only
the host port comes up. After a thermal trip nothing starts (R698). (Log entry 78: DESIGN CHOICE.) -/
def execPowering (failed : List Nat) (n : Nat) (s : State) : Out :=
  .next (if s.pwr.thermtrip then s
    else match s.trust.phase with
      | 6 => portUp (updPwr s (fun w => { w with v12 := true }))
      | 7 => portUp (updPwr s (fun w => { w with v12 := true }))
      | 0 => s
      | _ => powerTo failed (min n 5) 4 s)

/-- R607, R686: RESET_N releases THERMTRIP_N. (Log entry 77: DESIGN CHOICE.) -/
def execResetN (s : State) : Out := .next (updPwr (restart s) (fun w => { w with thermtrip := false }))

def execBootCtlRestart (s : State) : Out := .next (restart s)

/-! ## Supplies and clock -/

def execV12Fault (s : State) : Out :=
  .next (if s.pwr.v12 then owePackage (updPwr (loseV12 s) (fun w => { w with v12 := false })) 6 else s)

/-- V3P3SB leaves its range while V12 is present; below 2.9 V the device resets (R697, R699). (Log entry 77: DESIGN CHOICE.) -/
def execV3p3sbFault (below : Bool) (s : State) : Out :=
  .next (if below then updPwr (restart s) (fun w => { w with thermtrip := false })
    else if s.pwr.v12 then packageEvent s 7 else s)

/-- The host port leaves Up (R564). -/
def linkDown (s : State) : State :=
  if s.host.link < 2 then s
  else
    packageEvent (updHost s (fun h => { h with
      link := 0, ioUp := false, cacheEn := false, modules := 0, linkLoss := true, losses := h.losses + 1, downAt := s.time.now })) 1

/-- Clusters with a running context. -/
def busyClusters (s : State) : List Nat :=
  (List.range 64).filter (fun c => (List.range 4).any (fun i => (unitOf s (4 * c + i)).running.isSome))

/-- R703. -/
def execRefclkLoss (s : State) : Out :=
  .next (if s.pwr.refclk then
      let s1 := (busyClusters s).foldl (fun s c => clockFault s c false) (updPwr s (fun w => { w with refclk := false }))
      let s2 := s1.pwr.islands.foldl islandOff s1
      let s3 := (List.range 12).foldl (fun s p =>
        if isUp s p then portDown s p else if (portOf s p).st == .training then portOff s p .down else s) s2
      owePackage (linkDown s3) 8
    else s)

/-! ## Staging, commit, key generation -/

/-- A write to FW_CTL while BUSY is 1 is ignored. -/
def execFwCtlWrite (cfg : Bool) (s : State) : Out :=
  .next (if s.trust.fwBusy then s else updTrust s (fun t => { t with fwBusy := true, fwCfg := cfg }))

def objSlotSize (cfg : Bool) : Nat := if cfg then 2 ^ 20 else 2 ^ 23

/-- RESULT of a staged object (Table 16.7); none where it goes to the slot. (Log entry 77: DESIGN CHOICE.) -/
def stageResult (t : TrustSt) (cfg : Bool) (bs : List Byte) : Option Nat :=
  if !(objVerifies cfg bs) then some 2
  else if objField bs 8 4 < (if cfg then t.cfgSvn.toNat else t.fwSvn.toNat) then some 3
  else if cfg && objField bs 16 8 != t.serial.toNat then some 4
  else none


/-- The object goes to the slot that is not in use. -/
def storeObj (t : TrustSt) (cfg : Bool) (o : KsObj) : TrustSt :=
  match cfg, (if cfg then t.cfgSlot else t.fwSlot) with
  | false, false => { t with fwB := o }
  | false, true => { t with fwA := o }
  | true, false => { t with cfgB := o }
  | true, true => { t with cfgA := o }

def stageEnd (s : State) (code : Nat) : State :=
  let s1 := updTrust s (fun t => { t with fwBusy := false, fwResult := code })
  if code = 2 then raiseEv s1 0x0801 clsError (if s.trust.fwCfg then 2 else 1) 0 else s1

/-- The steward reads and verifies the staged object and writes it to its slot; `w` is what the write carries where it reaches the keeping
store, which performs it only when that is current (R587, R601). (Log entry 109: DESIGN CHOICE.) -/
def execFwStageComplete (w : KsMsg) (s : State) : Out :=
  .next (
    let t := s.trust
    let n := t.stageLen
    if !t.fwBusy then s
    else if !(isHost t.stageAddr) || decide (addrEnd < t.stageAddr + n) || decide (objSlotSize t.fwCfg < n) || decide (n < 64) then stageEnd s 1
    else if !s.host.cacheEn then s
    else if rawPoison s t.stageAddr n then stageEnd (markRx s t.stageAddr n) 1
    else
      let bs := memBytes s t.stageAddr n
      match stageResult t t.fwCfg bs with
      | some k => stageEnd s k
      | none =>
        if ksCurrent t bs w then stageEnd (updTrust s (fun t => ksWrote 1 (storeObj t t.fwCfg (stageObj bs)))) 0 else stageEnd s 5)

/-- R602: one write of the keeping store. (Log entry 109: DESIGN CHOICE.) -/
def execFwCtlCommit (s : State) : Out :=
  .next (if s.trust.fwBusy then s
    else updTrust s (fun t => ksWrote 1 { t with
      fwSvn := BitVec.ofNat 32 (max t.fwSvn.toNat (runFw t).svn), cfgSvn := BitVec.ofNat 32 (max t.cfgSvn.toNat (runCfg t).version), fwResult := 0 }))

/-- R610: one write of the keeping store. (Log entry 109: DESIGN CHOICE.) -/
def execKemCtlNext (s : State) : Out := .next (updTrust s (fun t => ksWrote 1 { t with kemGen := t.kemGen + 1 }))

end Sys2Proof.Machine
end

