-- ==== Sys2Proof/Machine/Fetch.lean ====
section
/-!
DEFINITION. Sys2Proof/Machine/Fetch.lean: fetching and decoding an instruction (R184 to R186, R227 to R230), filling the instruction
cache (R186) and dispatching into an engine queue (R190).
-/

namespace Sys2Proof.Machine

/-- Key of an instruction-cache line: its context identifier and its address (R186). -/
def icKey (c line : Nat) : Nat := c * 2 ^ 40 + line

/-- The word at an address of a 256-byte line. -/
def lineWord (bs : List Byte) (pc : Nat) : W64 := BitVec.ofNat 64 (leNat ((bs.drop (pc % 256)).take 8))

/-- What a fetch at PC finds: a word, a miss of a line, or no permission. -/
inductive Fetched where
  | word (w : W64)
  | miss (line : Nat)
  | denied
  deriving DecidableEq, Repr

/-- The fetch of R185 through the extent table, needing X. Table 1.1a gives a fetch no path into a unit store, so one that maps to a
unit-store window is refused as R45 and R46 refuse an access: an extent fault. An instance fetches from the code copied for it (R334). (Log entry 97: DEDUCED.) -/
def fetchAt (s : State) (t : Hart) (k : Core) (x : Ctx) : Fetched :=
  let pc := k.pc.toNat
  match t with
  | .res u c =>
    match findExt x pc with
    | none => .denied
    | some e =>
      if !e.x || isUs (extDev e pc) then .denied
      else match Tbl.find? (unitOf s u).icache (icKey c (pc / 256)) with
        | some l => .word (lineWord l pc)
        | none => .miss (pc / 256)
  | .inst st i =>
    let n := instOf s st i
    if n.code ≤ pc ∧ pc + 8 ≤ n.code + n.bytes.length then
      .word (BitVec.ofNat 64 (leNat ((n.bytes.drop (pc - n.code)).take 8)))
    else .denied

/-- The sequencer can take up a new instruction. -/
def canFetch (k : Core) : Bool := k.wait == .none && k.ir.isNone && k.miss.isNone

/-- What follows from a fetched word (R228). -/
def decodeInto (s : State) (t : Hart) (k : Core) (w : W64) : State :=
  match decodeWord (pGet k (iPred w)) (isInst t) w with
  | .illegal => faultAt s t fIllegal k.pc
  | .skip => setHartCore s t (retire k)
  | .go => setHartCore s t { k with ir := some w }

def doFetch (s : State) (h : Nat) : State :=
  withRun s h fun t k x =>
    if canFetch k then
      match fetchAt s t k x with
      | .denied => faultAt s t fExtent k.pc
      | .miss l => setHartCore s t { k with miss := some l }
      | .word w => decodeInto s t k w
    else s

def execInstructionFetch (h : Nat) (s : State) : Out := .next (doFetch s h)

/-- A full cache of 256 lines gives up one line, which the spec does not name (free). (Log entry 11: DESIGN CHOICE.) -/
def icRoom (ic : List (Nat × List Byte)) (ctr : Nat) : List (Nat × List Byte) :=
  if ic.length < 256 then ic else ic.eraseIdx (Config.icacheVictim ctr % ic.length)

def doFill (s : State) (h : Nat) : State :=
  withRun s h fun t k x =>
    match t, k.miss with
    | .res u c, some l =>
      let a := l * 256
      if (devPieces x a 256).any (fun p => addrWaits s p.1) then s
      else
        let r := ctxRead s x a 256 0
        if r.2.2 then faultAt (setHartCore r.1 t { k with miss := none }) t fPoison k.pc
        else
          let s1 := updUnit r.1 u (fun y => { y with icache := Tbl.put (icRoom y.icache s.freeCtr) (icKey c l) r.2.1 })
          bump (setHartCore s1 t { k with miss := none })
    | _, _ => s

def execIcacheFill (h : Nat) (s : State) : Out := .next (doFill s h)

def doDispatch (s : State) (h : Nat) : State :=
  withRun s h fun t k _ =>
    match k.ir with
    | none => s
    | some w =>
      if !(isEngine w) || engHeld k w then s
      else if queueFull k (queueOf w) then s
      else setHartCore s t (retire (dispatch k (queueOf w) w (capRegs w) (destReg w) false []))

def execEngineDispatch (h : Nat) (s : State) : Out := .next (doDispatch s h)

end Sys2Proof.Machine
end

