-- ==== Sys2Proof/Machine/MoverBegin.lean ====
section
/-!
DEFINITION. Sys2Proof/Machine/MoverBegin.lean: the beginning of a mover entry of any kind (R361): its acceptance by the rule of its kind,
and its first transfer.
-/

namespace Sys2Proof.Machine

/-- Acceptance of an entry that may name the rick. -/
def acceptRick (s : State) (t : Hart) (x : Ctx) (q : Nat) (e : QEnt) : State :=
  match x.rick with
  | none => s
  | some b =>
    let r := rickOf s (hartUnit s t) (hartCtx s t)
    if isPop t x e then acceptPop s t x q b r e
    else if lenOf e = 0 then acceptSeal s t x q b r e else acceptPush s t x q b r e

/-- Acceptance by kind (Table 6.13). -/
def acceptAny (s : State) (t : Hart) (k : Core) (x : Ctx) (q : Nat) (e : QEnt) : State :=
  if iClass e.w = 0xA then acceptSample s t x q e
  else match iOp e.w with
    | 0x00 => if isPop t x e then acceptRick s t x q e else acceptRow s t x q e .ctx .share
    | 0x01 =>
      if isPush t x e then acceptRick s t x q e
      else if isSend s t e then acceptSend s t x q e
      else acceptRow s t x q e .share .ctx
    | 0x02 => acceptRow s t x q e .ctx .ctx
    | 0x03 => acceptDesc s t x q e [1, 2, 3, 4] true
    | 0x08 => acceptAtom s t x q e
    | 0x09 => acceptRed s t x q e
    | 0x10 => acceptFlag s t q e
    | 0x18 => acceptLim s t k q e
    | _ => s

/-- The entry was accepted: it is no longer fresh in its queue. -/
def accepted (s : State) (t : Hart) (q seq : Nat) : Bool := (mvEntOf s t q seq).any (fun m => m.kind != .fresh)

def execMoverEntryBegin (h q : Nat) (s : State) : Out :=
  .next (withBegin s h q (fun _ => true) fun t k x e =>
    let s1 := acceptAny s t k x q e
    if accepted s1 t q e.seq then
      (match hartCore s1 t with
       | none => s1
       | some k1 => doIssue s1 t k1 x q)
    else s1)

end Sys2Proof.Machine
end

