-- ==== Sys2Proof/Machine/Turns.lean ====
section
/-!
DEFINITION. Sys2Proof/Machine/Turns.lean: turns and their plans (R459 to R464), set-send (R500): arming, sending of plan entries, their
acknowledgement and time-out, the end of a turn.
-/

namespace Sys2Proof.Machine

/-! ## Plans -/

/-- Whose plan: a partition's turn, or the k-th set-send. -/
inductive PlanRef where
  | turn (p : Nat)
  | send (k : Nat)
  deriving DecidableEq, Repr

def planOf (s : State) : PlanRef → List PlanEnt
  | .turn p => (turnOf s p).plan
  | .send k => ((s.sends[k]?).map (·.plan)).getD []

def putPlan (s : State) (r : PlanRef) (l : List PlanEnt) : State :=
  match r with
  | .turn p => updTurn s p (fun t => { t with plan := l })
  | .send k => { s with sends := s.sends.modify k (fun x => { x with plan := l }) }

/-- The set a plan sends. -/
def planSet (s : State) : PlanRef → Nat
  | .turn p => (turnOf s p).tgtSet
  | .send k => ((s.sends[k]?).map (·.set)).getD 0

/-- The plans that may run now: those of turns in Gathering with ARM_SEND, then set-sends in order (R461, R500). -/
def runningPlans (s : State) : List PlanRef :=
  ((s.turns.filter (fun p => p.2.st == .gathering && p.2.armSend)).map (fun p => PlanRef.turn p.1))
    ++ (List.range s.sends.length).map PlanRef.send

/-- One plan entry of Table 12.9, as read from memory. -/
def planEnt (bs : List Byte) : PlanEnt :=
  let d := leWords 4 bs
  { src := wf d 0 47 0, tag := wf d 1 63 52, len := wf d 1 39 0, dst := wf d 2 47 0, dev := wf d 3 19 0
    rsvd := wf d 0 63 48 != 0 || wf d 1 51 40 != 0 || wf d 2 63 48 != 0 || wf d 3 63 20 != 0
      || wf d 0 11 0 != 0 || wf d 1 11 0 != 0 || !(within 4096 (2 ^ 37) (wf d 1 39 0)) }

def planEnts (n : Nat) (bs : List Byte) : List PlanEnt :=
  (List.range n).map (fun i => planEnt ((bs.drop (32 * i)).take 32))

/-- R463: the entry's SRC lies in one stack's range of the set, DEVICE is another device, and its fields hold allowed values (R21). (Log entry 49: DEDUCED.) -/
def planEntOk (s : State) (v : Nat) (e : PlanEnt) : Bool :=
  !e.rsvd && e.dev != s.fab.devId
  && (setRanges (setOf s v)).any (fun r => decide (r.1 ≤ e.src) && decide (e.src + e.len ≤ r.1 + r.2))

/-- Where bytes of a re-shard entry not yet acknowledged are counted (R531). -/
def reshardKey (dev tag : Nat) : Nat := 2 ^ 32 + dev * 4096 + tag

def forgetUnacked (s : State) (l : List PlanEnt) : State :=
  l.foldl (fun s e => updFab s (fun f => { f with unacked := Tbl.del f.unacked (reshardKey e.dev e.tag) })) s

/-- The entries not acknowledged; one of length 0 never is: it fails when it comes to run. -/
def unackedEnts (l : List PlanEnt) : List PlanEnt := l.filter (fun e => decide (e.acked < e.len) || e.len == 0)

/-- The k lowest numbers of a list. -/
def lowest (k : Nat) (l : List Nat) : List Nat := (l.foldl NSet.ins []).take k

/-- A set-send stops (R500): its event names the tags not acknowledged. -/
def stopSend (s : State) (k : Nat) : State :=
  match s.sends[k]? with
  | none => s
  | some x =>
    let tags := (unackedEnts x.plan).map (·.tag)
    let low := lowest 5 tags
    let arg := ((List.range 5).map (fun i => low.getD i 0xFFF * 2 ^ (12 * i))).foldl (· + ·) 0
    let s1 := forgetUnacked { s with sends := s.sends.eraseIdx k } x.plan
    finishJob (raiseEv s1 0x0408 clsError (tags.length * 2 ^ 20 + x.set) arg) x.job 2 0 0

/-- A plan entry fails: the turn is Held with the cause, a set-send stops. (Log entry 49: DEDUCED.) -/
def failPlan (s : State) (r : PlanRef) (cause : Nat) : State :=
  match r with
  | .turn p => turnTo s p .held cause
  | .send k => stopSend s k

/-- The entry that stack st's engine sends from next: in plan order, four under way at once (R463, R327); none starts under HOLD
(R531). An entry whose SRC is not in HBM comes to run at stack 0. -/
def nextEnt (s : State) (st : Nat) : Option (PlanRef × Nat × PlanEnt) :=
  let all := (runningPlans s).flatMap (fun r => (planOf s r).zipIdx.map (fun p => (r, p.2, p.1)))
  let mine := all.filter (fun x => (if isHbm x.2.2.src then stackOf x.2.2.src else 0) == st)
  let busy := (mine.filter (fun x => x.2.2.running && decide (x.2.2.acked < x.2.2.len))).length
  mine.find? (fun x => !x.2.2.stuck && (decide (x.2.2.sent < x.2.2.len) || x.2.2.len == 0)
    && (x.2.2.running || (decide (busy < 4) && !s.fab.hold)))

/-- Sends the entry's next packet; poison in the source stops the entry, which then waits unacknowledged. (Log entry 49: DEDUCED.) -/
def sendPlan (s : State) (r : PlanRef) (i : Nat) (e : PlanEnt) : State :=
  let da := e.dst + e.sent
  let n := min (8192 - da % 8192) (e.len - e.sent)
  if rawPoison s (e.src + e.sent) n then putPlan s r ((planOf s r).set i { e with running := true, stuck := true })
  else
    let k : Pkt := { typ := 3, dst := e.dev, a := da, b := BitVec.ofNat 64 (e.tag * 2 ^ 52 + e.trans % 16 * 2 ^ 48 + e.len)
                     data := memBytes s (e.src + e.sent) n }
    let s1 := putPlan s r ((planOf s r).set i { e with running := true, sent := e.sent + n })
    originate (addUnacked s1 (reshardKey e.dev e.tag) n) k

def execPlanEntrySend (st : Nat) (s : State) : Out :=
  .next (if !(stackServes (seOf s st)) then s
    else match nextEnt s st with
      | none => s
      | some (r, i, e) =>
        if e.running || planEntOk s (planSet s r) e then sendPlan s r i e else failPlan s r 3)

/-! ## Acknowledgement -/

/-- The first set-send whose entries are all acknowledged completes with its event (R500). -/
def sendDone (s : State) : State :=
  match s.sends.findIdx? (fun x => (unackedEnts x.plan).isEmpty) with
  | none => s
  | some k =>
    match s.sends[k]? with
    | none => s
    | some x => finishJob (raiseEv { s with sends := s.sends.eraseIdx k } 0x0407 clsNotice x.set 0) x.job 0 0 0

def sendsDone (s : State) : State := s.sends.foldl (fun s _ => sendDone s) s

/-- Whether an acknowledgement from a device under a TAG belongs to an entry. -/
def ackMatches (dev tag : Nat) (e : PlanEnt) : Bool := e.dev == dev && e.tag == tag && e.running && decide (e.acked < e.len)

def ackEnt (dev tag n : Nat) (e : PlanEnt) : PlanEnt := if ackMatches dev tag e then { e with acked := min e.len (e.acked + n) } else e

/-- Bytes of a plan entry acknowledged by its peer: TURN_TX_ACK counts them (Table 12.6). -/
def planAck (s : State) (dev tag n : Nat) : State :=
  let s1 := ackBytes s (reshardKey dev tag) n
  let s2 : State := { s1 with
    turns := s1.turns.map (fun p => (p.1,
      if p.2.plan.any (ackMatches dev tag) then
        { p.2 with plan := p.2.plan.map (ackEnt dev tag n), txAck := p.2.txAck + BitVec.ofNat 64 n } else p.2))
    sends := s1.sends.map (fun x => { x with plan := x.plan.map (ackEnt dev tag n) }) }
  sendsDone s2

/-- The plan, running or held, that owns an entry to a device under a TAG. -/
def planOwner (s : State) (dev tag : Nat) : Option PlanRef :=
  (runningPlans s).find? (fun r => (planOf s r).any (ackMatches dev tag))

/-- An entry is unacknowledged 100 µs after its last write (Table 12.8, R500): `job` is the partition, or 64 plus the set of a
set-send. (Log entry 7: DESIGN CHOICE.) -/
def execPlanAckTimeout (job tag : Nat) (s : State) : Out :=
  .next (let late (e : PlanEnt) : Bool := e.tag == tag && e.running && decide (e.acked < e.len)
    if job < 64 then
      (if (turnOf s job).st == .gathering && (turnOf s job).plan.any late then turnTo s job .held 2 else s)
    else match s.sends.findIdx? (fun x => x.set + 64 == job && x.plan.any late) with
      | none => s
      | some k => stopSend s k)

/-! ## The turn -/

/-- The plan as the device copies it at the arm: none where it cannot be read (R460). (Log entry 50: DESIGN CHOICE.) -/
def readPlan (s : State) (t : TurnSt) : Option (List PlanEnt) :=
  if t.planN = 0 then some []
  else if isHost t.planAddr && decide (t.planAddr + 32 * t.planN ≤ addrEnd) && !(rawPoison s t.planAddr (32 * t.planN)) then
    some (planEnts t.planN (memBytes s t.planAddr (32 * t.planN)))
  else none

/-- The condition of R460 that refuses an arm. -/
def armCheck (s : State) (p : Nat) : Option Nat :=
  let t := turnOf s p
  let x := setOf s t.tgtSet
  firstFail [(1, !(x.st == .empty || x.st == .complete) || sending s t.tgtSet),
    (2, s.turns.any (fun q => q.1 != p && turnArmed q.2 && q.2.tgtSlot == t.tgtSlot)),
    (3, match liveIn s t.tgtSlot with
      | none => false
      | some o => !(newer t.tgtEpoch (setOf s o).epoch)),
    (4, (readPlan s t).isNone)]

/-- An arm (R460, R461): refused with its event, or Emitting with the target Filling under its new epoch. (Log entry 50: DESIGN CHOICE.) -/
def armTurn (s : State) (p : Nat) : State :=
  match armCheck s p, readPlan s (turnOf s p) with
  | none, some l =>
    let t := turnOf s p
    let s1 := updSet s t.tgtSet (fun x => { x with st := .filling, epoch := t.tgtEpoch })
    let s2 := updTurn s1 p (fun t => { t with armErr := false, armEmit := true, plan := l, emitDone := 0, txAck := 0, rxBytes := 0, tags := [] })
    turnAdvance (approachSets (turnTo s2 p .emitting 0)) p
  | k, _ => raiseEv (updTurn (markRx s (turnOf s p).planAddr (32 * (turnOf s p).planN)) p (fun t => { t with armErr := true, armEmit := false })) 0x0405 clsWarning p (k.getD 4)

/-- ABORT (R461): Idle, the plan dropped; the target stays Filling. -/
def abortTurn (s0 : State) (p : Nat) : State :=
  let s := if (turnOf s0 p).armPend then updTurn s0 p (fun t => { t with armPend := false }) else s0
  if (turnOf s p).st == .idle then s
  else
    let s1 := forgetUnacked s (turnOf s p).plan
    turnTo (updTurn s1 p (fun t => { t with plan := [] })) p .idle 0

/-- RESEND in Held with HOLD_CAUSE 0x02 or 0x03: every unacknowledged entry goes out again (Table 12.7). -/
def resendTurn (s : State) (p : Nat) : State :=
  let t := turnOf s p
  if t.st == .held && (t.cause == 2 || t.cause == 3) then
    let s1 := forgetUnacked s (unackedEnts t.plan)
    let again (e : PlanEnt) : PlanEnt :=
      if e.acked < e.len then { e with sent := 0, acked := 0, running := false, stuck := false, trans := e.trans + 1 } else e
    turnTo (updTurn s1 p (fun t => { t with plan := t.plan.map again })) p .gathering 0
  else s

/-- A write of TURN_CTL (Table 12.7). An arm reads host memory, and waits for it (R564). (Log entry 50: DESIGN CHOICE.) -/
def writeTurnCtl (s : State) (p : Nat) (v : W64) : State :=
  let s1 := if bit v 4 then abortTurn s p else s
  let s2 := if bit v 5 then resendTurn s1 p else s1
  let s3 := updTurn s2 p (fun t => { t with armSend := bit v 1, armSwitch := bit v 2 })
  let t := turnOf s3 p
  if bit v 0 && (t.st == .idle || t.st == .done) then
    (if t.planN != 0 && !s.host.cacheEn then updTurn s3 p (fun t => { t with armPend := true }) else armTurn s3 p)
  else s3

/-- An arm that waited for host memory goes on (R564). -/
def armNow (s : State) (p : Nat) : State :=
  let t := turnOf s p
  if t.armPend then
    let s1 := updTurn s p (fun t => { t with armPend := false })
    if t.st == .idle || t.st == .done then armTurn s1 p else s1
  else s

def execTurnArm (part : Nat) (v : W64) (s : State) : Out := .next (if part < 64 then writeTurnCtl s part v else s)
def execTurnResend (part : Nat) (s : State) : Out := .next (resendTurn s part)
def execTurnAbort (part : Nat) (s : State) : Out := .next (abortTurn s part)

def wholeTags (t : TurnSt) : Nat := (t.tags.filter (fun p => p.2.whole)).length

/-- Gathering is complete: Done, the target Complete, and with ARM_SWITCH the slot switched, or the event that it was not (R461). -/
def execTurnDone (part : Nat) (s : State) : Out :=
  .next (let t := turnOf s part
    if t.st == .gathering && (!t.armSend || (unackedEnts t.plan).isEmpty) && wholeTags t == t.rxExp then
      let s1 := turnTo (setFilled s t.tgtSet) part .done 0
      if t.armSwitch then
        (if (switchCheck s1 t.tgtSlot t.tgtSet false).isNone then doSwitch s1 t.tgtSlot t.tgtSet false
         else raiseEv s1 0x0406 clsWarning (t.tgtSlot * 2 ^ 8 + part) 0)
      else s1
    else s)

/-! ## Set-send (R500) -/

def execSetSend (s : State) : Out :=
  .next (withCur s 0x16 fun h s =>
    let v := hf h 2 7 0
    let st := (setOf s v).st
    checked s h [(1, !(st == .complete || st == .live || st == .draining))] fun s =>
      sendsDone { s with sends := s.sends ++ [{ set := v, plan := planEnts (hf h 2 44 32) h.block, job := h.job }] })

/-! ## Re-shard writes received (R464) -/

/-- Whether a set is open to a sender: a turn's target while it is Emitting or Gathering, or a receive from that device. -/
def openTo (s : State) (src v : Nat) : Bool :=
  s.turns.any (fun p => (p.2.st == .emitting || p.2.st == .gathering) && p.2.tgtSet == v)
  || ((setOf s v).st == .filling && (setOf s v).rxOpen && (setOf s v).rxDev == src)

/-- Counts bytes of a tag's most recent transmission, whose number is modulo 16 (Table 14.5): a newer transmission starts its count again,
and what comes late of an older one does not count. -/
def tagGot (l : List (Nat × TagRx)) (tag trans len n : Nat) : List (Nat × TagRx) :=
  let fresh : TagRx := { trans := trans % 16, bytes := n, len := len, whole := decide (len ≤ n) }
  match Tbl.find? l tag with
  | none => Tbl.put l tag fresh
  | some o =>
    if o.whole then l
    else if o.trans = trans % 16 then Tbl.put l tag { o with bytes := o.bytes + n, whole := decide (len ≤ o.bytes + n) }
    else if subMod 4 trans o.trans < 8 then Tbl.put l tag fresh
    else l

def tagWhole (l : List (Nat × TagRx)) (tag : Nat) : Bool := (Tbl.get {} l tag).whole

end Sys2Proof.Machine
end

