-- ==== Sys2Proof/Machine/Packets.lean ====
section
/-!
DEFINITION. Sys2Proof/Machine/Packets.lean: packets that arrive at this device (R464, R526, R533 to R536): WRITE and FLAG through the
receive windows, re-shard writes, ACK and NACK, and the forwarding of packets for other devices.
-/

namespace Sys2Proof.Machine

/-! ## Receive windows (R534) -/

/-- Window w is enabled, admits what bit b of RX_WIN_A admits, and its source range holds a device. -/
def winAdmits (s : State) (b src w : Nat) : Bool :=
  let a := Tbl.get 0 s.fab.winA w
  let r := Tbl.get 0 s.fab.winR w
  bit a 63 && bit a b && decide (fld r 19 0 ≤ src) && decide (src ≤ fld r 39 20)

/-- First byte and size of window w. -/
def winRange (s : State) (w : Nat) : Nat × Nat := (fld (Tbl.get 0 s.fab.winA w) 47 12 * 4096, fld (Tbl.get 0 s.fab.winS w) 29 0 * 4096)

/-- The ranges that a source may reach with packets of the kind of bit b. -/
def admittedRanges (s : State) (b src : Nat) : List (Nat × Nat) := ((List.range 64).filter (winAdmits s b src)).map (winRange s)

/-- No byte of the range lies in the unbacked half of a unit-store window or in a save area (R45, R46). -/
def windowGuard (s : State) (a n : Nat) : Bool :=
  !(isUs a) || (cutRange 0x1000000 (n / 0x1000000 + 2) (a - usWin) n).all (fun p =>
    decide (p.1 % 0x1000000 + p.2 ≤ 0x800000) && offSave s (p.1 / 0x1000000) (p.1 % 0x1000000) (p.1 % 0x1000000 + p.2))

/-- A line or bank word of the range reads as poisoned: a line in its home slice by the copy there, anything else by its mark. (Log entry 55: DEDUCED.) -/
def targetPoison (s : State) (a n : Nat) : Bool :=
  if isHbm a then (granules 128 a n).any (fun b => addrFailed s b || (match lineOf s (b / 128) with
    | some l => l.poison
    | none => poisoned s b))
  else rawPoison s a n

/-- A window admits a WRITE (b = 62) or FLAG (b = 61) to its range (Table 14.5): a WRITE may lie in several that join. (Log entry 55: DEDUCED.) -/
def admitted (s : State) (b src a n : Nat) : Bool :=
  let rs := admittedRanges s b src
  (if b = 62 then inAreas rs 66 a (a + n) else rs.any (fun r => decide (r.1 ≤ a) && decide (a + n ≤ r.1 + r.2))) && windowGuard s a n

/-- An ACK of one record. -/
def ackPkt (dst tag n : Nat) : Pkt := { typ := 4, dst := dst, b := 1, data := leBytes 4 n ++ leBytes 4 tag }
def nackPkt (dst tag reason : Nat) : Pkt := { typ := 5, dst := dst, a := reason, b := BitVec.ofNat 64 tag }

/-- Performs or refuses a request (R536): it goes through the home slices or into the unit store, whole or not at all. `ok` says that a
window admitted it when it came in (R559). (Log entry 56: DESIGN CHOICE.) -/
def perform (s : State) (ok : Bool) (src a tag : Nat) (bs : List Byte) : State :=
  if !ok then originate (updFab s (fun f => { f with rxRefused := f.rxRefused + 1 })) (nackPkt src tag 1)
  else if targetPoison s a bs.length then originate (updFab s (fun f => { f with rxRefused := f.rxRefused + 1 })) (nackPkt src tag 2)
  else originate (devWrite s a bs 0 none).1 (ackPkt src tag bs.length)

/-! ## Re-shard writes (R464, R499) -/

/-- Counts what a re-shard write brought, for the turn whose target the set is, or for the set's receive. -/
def countTag (s : State) (v tag trans len n : Nat) : State :=
  match s.turns.find? (fun q => (q.2.st == .emitting || q.2.st == .gathering) && q.2.tgtSet == v) with
  | some q => updTurn s q.1 (fun t => { t with tags := tagGot t.tags tag trans len n, rxBytes := t.rxBytes + BitVec.ofNat 64 n })
  | none => receiveDone (updSet s v (fun x => { x with rxGot := tagGot x.rxGot tag trans len n })) v

def tagDone (s : State) (v tag : Nat) : Bool :=
  match s.turns.find? (fun q => (q.2.st == .emitting || q.2.st == .gathering) && q.2.tgtSet == v) with
  | some q => tagWhole q.2.tags tag
  | none => tagWhole (setOf s v).rxGot tag

/-- The stack engine performs an admitted write over its internal path; one for a tag that is whole is acknowledged and dropped. (Log entry 56: DESIGN CHOICE.) -/
def performReshard (s : State) (src a tag trans len : Nat) (data : List Byte) : State :=
  let n := data.length
  match setHolding s (a, n) with
  | none => originate s (nackPkt src tag 3)
  | some v =>
    if !(openTo s src v) then originate s (nackPkt src tag 3)
    else
      let s1 := if tagDone s v tag then s else countTag (rawWrite s a data).1 v tag trans len n
      originate s1 (ackPkt src tag n)

/-! ## Acknowledgements (R373, R374, R463, R536) -/

/-- The mover entry that owes its completion to a source tag, with its hart and queue. -/
def tagEntry (s : State) (src tag : Nat) : Option (Hart × Nat × MvEnt) :=
  match tagOf s tag with
  | none => none
  | some (k, q, seq) =>
    let t : Hart := .res (k / 4096) (k % 4096)
    match mvEntOf s t q seq with
    | none => none
    | some e => if e.dev = src ∧ e.tag = tag then some (t, q, e) else none

/-- n more bytes of an entry are performed at the peer; the transfers they end are retired. -/
def ackEntry (n : Nat) (e : MvEnt) : MvEnt :=
  let a := min e.total (e.acked + n)
  { e with acked := a, out := if e.kind == .remote then e.out.filter (fun y => decide (a < y.row)) else e.out }

/-- One record of an ACK. -/
def ackRecord (src : Nat) (s : State) (r : Nat × Nat) : State :=
  if r.1 < 4096 then planAck s src r.1 r.2
  else match tagEntry s src r.1 with
    | none => ackBytes s r.1 r.2
    | some (t, q, e) => settleHart (updMv (ackBytes s r.1 r.2) t q e.ent.seq (ackEntry r.2)) t

def execAckReceived (l : LinkHdr) (src : Nat) (tags counts : List Nat) (s : State) : Out :=
  .next (linkIn s l 4 (8 * tags.length) fun s => (tags.zip counts).foldl (ackRecord src) s)

/-- The sender's entry fails at once (R536); a refused plan entry holds its turn or stops its send (R464). A refused re-shard write of
a set-send leaves its entry unacknowledged, and the send stops by its time-out. -/
def execNackReceived (l : LinkHdr) (src tag reason : Nat) (s : State) : Out :=
  .next (linkIn s l 5 0 fun s =>
    if reason = 3 then
      (match planOwner s src tag with
       | some (.turn k) => failPlan s (.turn k) 3
       | _ => s)
    else match tagEntry s src tag with
      | none => s
      | some (t, q, e) =>
        (match hartCore s t with
         | none => s
         | some k => failRemote s t k q e))

/-! ## Forwarding (R521, R523, R526 to R528, R533) -/

/-- A packet that would pass the hop budget is dropped, with an event at most once per ms. -/
def hopDropped (s : State) (dst src : Nat) : State :=
  let s1 := updFab s (fun f => { f with hopDrop := f.hopDrop + 1 })
  if msPassed s s.fab.hopAt then
    updFab (raiseEv s1 0x0606 clsWarning 0 (dst * 2 ^ 20 + src)) (fun f => { f with hopAt := some s.time.now })
  else s1

/-- Log entry 56: DESIGN CHOICE. -/
def forward (s : State) (k : Pkt) : State :=
  if (routeOf s k.dst).isSome ∧ s.fab.hopBudget < k.hops + 1 then hopDropped s k.dst k.src
  else routePkt s { k with hops := k.hops + 1 }

/-! ## Packets as they come in (R527, R530)

A packet that has come in whole and in its link's order may still have to wait: an ORD packet for its place in its trunk's TSEQ order, any
packet for a store that cannot be reached now, and an ORD packet for an earlier one of its source that waits so. -/

/-- The store that a packet acts on cannot be reached now (R316, R564). -/
def rxBlocked (s : State) (c : Instr) : Bool :=
  match c with
  | .writeReceived _ _ a _ data => addrWaits s a || addrWaits s (a + data.length - 1)
  | .flagReceived _ _ a _ _ => addrWaits s a || addrWaits s (a + 7)
  | .reshardReceived _ _ a _ _ _ _ => addrWaits s a
  | .collOpen _ g _ _ _ => collWaits s g
  | .collJoin _ g _ _ _ _ _ _ _ _ _ => collWaits s g
  | .collVerdict _ g _ _ _ _ _ => collWaits s g
  | .collData _ g _ _ _ _ _ _ => collWaits s g
  | .collTrailer _ g _ _ _ _ _ _ _ _ _ => collWaits s g
  | .collDone _ g _ _ => collWaits s g
  | .collFinal _ g _ _ _ _ _ _ _ _ _ _ _ _ => collWaits s g
  | .collLeave _ g _ _ _ _ => collWaits s g
  | _ => false

/-- What a packet does where it is acted on. -/
def rxAct (s : State) (ok : Bool) (c : Instr) : State :=
  match c with
  | .writeReceived _ src a tag data => perform s ok src a tag data
  | .flagReceived _ src a tag v => perform s ok src a tag (leBytes 8 v.toNat)
  | .reshardReceived _ src a tag tn len data => performReshard s src a tag tn len data
  | .packetForward l typ hops dst src a b data =>
    if typ = 0 ∨ 6 < typ then missOnly s
    else forward s { typ := typ, ord := l.ord, vc1 := l.vc1, hops := hops, dst := dst, src := src, a := a, b := b, data := data }
  | .collOpen _ g src seq sig => onOpen g src seq sig s
  | .collJoin _ g src seq same diff ranks early earlyRank late lateRank =>
    onJoin g src seq { same := same, diff := diff, ranks := ranks, early := early, earlyRank := earlyRank, late := late, lateRank := lateRank } s
  | .collVerdict _ g src seq kind count ranks => onVerdict g src seq kind count ranks s
  | .collData _ g src seq chunk idx words counts => onData g src seq chunk idx words counts s
  | .collTrailer _ g src seq sum wsum hash nwovf wovf nwnan wnan => onTrailer g src seq ⟨sum, wsum, hash, nwovf, wovf, nwnan, wnan⟩ s
  | .collDone _ g src seq => onDone g src seq s
  | .collFinal _ g src seq code flags lag slow nnamed named nwovf wovf nwnan wnan0 =>
    onFinal g src seq { code := code, flags := flags, lag := lag, slow := slow, nnamed := nnamed, named := named, nwovf := nwovf, wovf := wovf
                        nwnan := nwnan, wnan0 := wnan0 } s
  | .collLeave _ g src seq rank flags => onLeave g src seq rank flags s
  | _ => s

/-- A packet waits: its store cannot be reached, or it is an ORD packet behind one of its source and destination that waits (R530). (Log entry 56: DESIGN CHOICE.) -/
def mustWait (s : State) (r : RxPkt) : Bool :=
  rxBlocked s r.c || (r.hdr.ord && s.fab.rxWait.any (fun q => q.hdr.ord && q.src == r.src && q.dst == r.dst))

/-- Acts on a packet, whose buffer frees, or keeps it waiting. (Log entry 56: DESIGN CHOICE.) -/
def tryRx (s : State) (r : RxPkt) : State :=
  if mustWait s r then updFab s (fun f => { f with rxWait := f.rxWait ++ [r] }) else rxAct (freeBuf s r.hdr r.typ r.n) r.ok r.c

/-- Acts on the waiting packets that need wait no more, oldest first. (Log entry 56: DESIGN CHOICE.) -/
def drainRx (s : State) : State := s.fab.rxWait.foldl tryRx (updFab s (fun f => { f with rxWait := [] }))

/-- The TSEQ that a trunk expects next; 65,536 where the next packet gives it. (Log entry 106: DESIGN CHOICE.) -/
def rxExpect (s : State) (t : Nat) : Nat := Tbl.get 0 s.fab.rxT t

/-- Goes on with the packets of a trunk that were held for the one before them. -/
def nextHeld : Nat → State → Nat → State
  | 0, s, _ => s
  | n + 1, s, t =>
    match s.fab.rxHold.find? (fun q => q.key == t && q.hdr.tseq % 65536 == rxExpect s t) with
    | none => s
    | some q =>
      let s1 := updFab s (fun f => { f with rxHold := f.rxHold.filter (fun z => z != q), rxT := Tbl.put f.rxT t ((q.hdr.tseq + 1) % 65536) })
      nextHeld n (tryRx s1 q) t

/-- A packet in its trunk's order (R527): one ahead of what the trunk expects is held; one behind it has been passed over and goes on. (Log entry 106: DESIGN CHOICE.) -/
def inTrunk (s : State) (r : RxPkt) : State :=
  let e := rxExpect s r.key
  if !r.hdr.ord then tryRx s r
  else if e < 65536 ∧ r.hdr.tseq % 65536 ≠ e then
    (if subMod 16 r.hdr.tseq e < 2 ^ 15 then updFab s (fun f => { f with rxHold := f.rxHold ++ [r] }) else tryRx s r)
  else
    nextHeld s.fab.rxHold.length (tryRx (updFab s (fun f => { f with rxT := Tbl.put f.rxT r.key ((r.hdr.tseq + 1) % 65536) })) r) r.key

/-- A packet of n payload bytes comes in (R517). The packets that wait are looked at first. -/
def takeRx (s : State) (l : LinkHdr) (c : Instr) (typ n src dst : Nat) (ok : Bool) : State :=
  if linkOk s l then
    inTrunk (drainRx (linkTake s l n)) { c := c, hdr := l, typ := typ, n := n, src := src, dst := dst, key := rxTrunk s l.port, ok := ok }
  else s

def execWriteReceived (l : LinkHdr) (src a tag : Nat) (data : List Byte) (s : State) : Out :=
  .next (takeRx s l (.writeReceived l src a tag data) 1 data.length src s.fab.devId (admitted s 62 src a data.length))

/-- A FLAG is one indivisible 8-byte write; a watching context wakes by WAKE_LINE_FIRE (R400). -/
def execFlagReceived (l : LinkHdr) (src a tag : Nat) (value : W64) (s : State) : Out :=
  .next (takeRx s l (.flagReceived l src a tag value) 2 8 src s.fab.devId (admitted s 61 src a 8))

def execReshardReceived (l : LinkHdr) (src a tag trans len : Nat) (data : List Byte) (s : State) : Out :=
  .next (takeRx s l (.reshardReceived l src a tag trans len data) 3 data.length src s.fab.devId true)

/-- A packet of a reserved type is discarded where it arrives (R521). A packet for this device is another command's (R526). -/
def execPacketForward (l : LinkHdr) (typ hops dst src a : Nat) (b : W64) (data : List Byte) (s : State) : Out :=
  .next (
    if dst = s.fab.devId ∧ typ ≠ 0 ∧ typ ≤ 6 then s
    else takeRx s l (.packetForward l typ hops dst src a b data) typ data.length src dst true)

/-- The next KEEPALIVE; the ACKSEQ owed within 200 ns of the last packet has gone by then (Table 14.2), and the lark domain looks at the
packets that wait. (Log entries 53: DESIGN CHOICE, 56: DESIGN CHOICE.) -/
def execKeepaliveSend (p : Nat) (s : State) : Out :=
  .next (
    if isUp s p then updPort (drainRx s) p (fun x => sendWord (sendAckseq { x with kaCount := (x.kaCount + 1) % 65536 }) 1 [x.kaCount])
    else s)

/-! ## Collective packets (Table 14.9) -/

/-- A COLL packet of a group, with a payload of n bytes. -/
def takeColl (s : State) (l : LinkHdr) (c : Instr) (src n : Nat) : State := takeRx s l c 6 n src s.fab.devId true

def execCollOpen (l : LinkHdr) (g src seq : Nat) (sig : W64) (s : State) : Out := .next (takeColl s l (.collOpen l g src seq sig) src 8)

def execCollJoin (l : LinkHdr) (g src seq same diff : Nat) (ranks : List Nat) (early : W64) (earlyRank : Nat) (late : W64) (lateRank : Nat)
    (s : State) : Out :=
  .next (takeColl s l (.collJoin l g src seq same diff ranks early earlyRank late lateRank) src 80)

def execCollVerdict (l : LinkHdr) (g src seq kind count : Nat) (ranks : List Nat) (s : State) : Out :=
  .next (takeColl s l (.collVerdict l g src seq kind count ranks) src (if kind = 0 then 0 else 40))

def execCollData (l : LinkHdr) (g src seq chunk : Nat) (idx : List Nat) (words : List (BitVec 128)) (counts : List Nat) (s : State) : Out :=
  .next (takeColl s l (.collData l g src seq chunk idx words counts) src (dataLen s g idx words counts))

def execCollTrailer (l : LinkHdr) (g src seq : Nat) (sum wsum : BitVec 128) (hash : W64) (nwovf : Nat) (wovf : List Nat) (nwnan : Nat)
    (wnan : List Nat) (s : State) : Out :=
  .next (takeColl s l (.collTrailer l g src seq sum wsum hash nwovf wovf nwnan wnan) src (if cOp (collOf s g).desc = 1 then 72 else 8))

def execCollDone (l : LinkHdr) (g src seq : Nat) (s : State) : Out := .next (takeColl s l (.collDone l g src seq) src 0)

def execCollFinal (l : LinkHdr) (g src seq code flags lag slow nnamed : Nat) (named : List Nat) (nwovf : Nat) (wovf : List Nat)
    (nwnan wnan0 : Nat) (s : State) : Out :=
  .next (takeColl s l (.collFinal l g src seq code flags lag slow nnamed named nwovf wovf nwnan wnan0) src 104)

def execCollLeave (l : LinkHdr) (g src seq rank flags : Nat) (s : State) : Out := .next (takeColl s l (.collLeave l g src seq rank flags) src 16)

end Sys2Proof.Machine
end

