-- ==== Sys2Proof/Machine/Rings.lean ====
section
/-!
DEFINITION. Sys2Proof/Machine/Rings.lean: the host port (R560, R564), the submission and result rings (R565 to R576), the event queue (R577
to R581, R584) and its MSI-X messages (R580).
-/

namespace Sys2Proof.Machine

/-- The host port is Up (HP_STAT.LINK 2 or 3). -/
def linkUp (s : State) : Bool := decide (2 ≤ s.host.link)

/-- A range lies in host memory (R565). -/
def inHost (a n : Nat) : Bool := isHost a && decide (a + n ≤ addrEnd)

/-! ## Ring registers -/

/-- Accepted commands whose results are not yet written (R568). -/
def resultsOwed (x : RingSt) : Nat := (x.owed.filter (fun j => !j.nores)).length + x.done.length

/-- SQR_CTL.IDLE (R584): EN has been written 0 and no result is owed. (Log entry 63: DESIGN CHOICE.) -/
def ringIdle (x : RingSt) : Bool := x.off && resultsOwed x == 0

/-- A LOG2N field takes a value within its range, and otherwise stays as it is. -/
def log2Field (lo hi old v : Nat) : Nat := if lo ≤ v ∧ v ≤ hi then v else old

/-- Zero into the stamp word of each of n 32-byte slots (R565). -/
def zeroStamps (s : State) (base n : Nat) : State :=
  (List.range n).foldl (fun s q => hostWrite s (base + q * 32 + 24) (zeros 8)) s

/-- Both rings, taken whole, lie in host memory (R565); a base register holds no bits below 4 KiB. -/
def ringBasesOk (x : RingSt) : Bool := inHost x.base (2 ^ x.log2n * 64) && inHost x.resBase (2 ^ x.log2n * 32)

/-- The stamps of a ring that an enable zeroes: at once, or, where host memory cannot be written now, when it can again (R564, R565). (Log entry 63: DESIGN CHOICE.) -/
def ringZero (s : State) (r : Nat) : State :=
  let x := ringOf s r
  if !s.host.cacheEn then setRing s r { x with zeroPend := true }
  else zeroStamps (setRing s r { x with zeroPend := false }) x.resBase (2 ^ x.log2n)

/-- A write of SQR_CTL[r] (R565, R584). (Log entry 63: DESIGN CHOICE.) -/
def writeSqrCtl (s : State) (r : Nat) (v : W64) : State :=
  let x := ringOf s r
  let y : RingSt := { x with vec := fld v 21 16, intEn := bit v 15, log2n := if x.en then x.log2n else log2Field 4 16 x.log2n (fld v 12 8) }
  if !(bit v 0) then setRing s r { y with en := false, off := true, zeroPend := false }
  else if x.en then setRing s r y
  else if !(ringBasesOk y) then setRing s r { y with errBase := true }
  else
    ringZero (setRing s r { y with
      en := true, off := false, stopped := false, tail := 0, head := 0, resHead := 0, resSeq := 0
      done := x.done.map (fun d => { d with body := false }) }) r

def execSqrCtl (ring : Nat) (v : W64) (s : State) : Out := .next (if 16 ≤ ring then s else writeSqrCtl s ring v)

/-- A doorbell that publishes nothing lawful (R567): more than the ring holds, or behind the one before. -/
def badDoorbell (x : RingSt) (n : Nat) : Bool :=
  decide (2 ^ x.log2n < subMod 32 n x.head.toNat) || !(serialLe32 x.tail.toNat n)

/-- Log entry 63: DESIGN CHOICE. -/
def writeSqrDb (s : State) (r : Nat) (v : W64) : State :=
  let x := ringOf s r
  let n := fld v 31 0
  if !x.en then setRing s r { x with errDis := true }
  else if badDoorbell x n then raiseEv (setRing s r { x with errDb := true, stopped := true }) 0x0702 clsError r n
  else setRing s r { x with tail := BitVec.ofNat 32 n }

def execSqrDb (ring : Nat) (v : W64) (s : State) : Out := .next (if 16 ≤ ring then s else writeSqrDb s ring v)

/-- A head write is refused when it lies behind the old one or beyond the sequence (R576). (Log entry 63: DESIGN CHOICE.) -/
def badHead (old seq n : Nat) : Bool := !(serialLe32 old n) || !(serialLe32 n seq)

/-- Log entry 63: DESIGN CHOICE. -/
def writeResHead (s : State) (r : Nat) (v : W64) : State :=
  let x := ringOf s r
  let n := fld v 31 0
  if badHead x.resHead.toNat x.resSeq.toNat n then setRing s r { x with errHead := true } else setRing s r { x with resHead := BitVec.ofNat 32 n }

def execResHead (ring : Nat) (v : W64) (s : State) : Out := .next (if 16 ≤ ring then s else writeResHead s ring v)

/-! ## Acceptance of descriptors (R563, R566 to R571, R574) -/

/-- Where the next descriptor of a ring lies (R566). -/
def descAddr (x : RingSt) : Nat := x.base + x.head.toNat % 2 ^ x.log2n * 64

/-- The next descriptor's words; none where its read returns poison. -/
def nextDesc (s : State) (x : RingSt) : Option (List W64) :=
  if rawPoison s (descAddr x) 64 then none else some (leWords 8 (memBytes s (descAddr x) 64))

def slotFree (x : RingSt) : Bool := decide (subMod 32 (x.resSeq.toNat + resultsOwed x) x.resHead.toNat < 2 ^ x.log2n)

/-- A ring whose next descriptor can be accepted: a result slot where it needs one (R568), nothing earlier outstanding behind a
fence (R570). -/
def ringReady (s : State) (r : Nat) : Bool :=
  let x := ringOf s r
  x.en && !x.stopped && x.tail != x.head && (match nextDesc s x with
    | none => slotFree x
    | some w => (wf w 0 54 54 == 1 || slotFree x) && (wf w 0 55 55 == 0 || x.owed.isEmpty))

/-- The next ring in round-robin order that can be served (R569). (Log entry 65: DESIGN CHOICE.) -/
def nextRing (s : State) : Option Nat := ((List.range 16).map (fun i => (s.host.rr + 1 + i) % 16)).find? (ringReady s)

/-- The device takes commands: Ready, with host memory reachable, steward controller 0 at work (Table 17.6), no package fault held (R42),
and the command before it carried out. (Log entry 65: DESIGN CHOICE.) -/
def acceptsCmds (s : State) : Bool :=
  s.trust.phase == 5 && s.host.cacheEn && !s.flt.down0 && s.flt.pkgHold.isEmpty && s.host.cur.isNone

/-- The bits of descriptor words 2 to 7 that a command uses (Table 15.3); none for a reserved OPC. Where the owning rule makes a reserved
field its own check, every bit passes here. (Log entry 66: DESIGN CHOICE.) -/
def argMask (opc : Nat) : Option (List Nat) :=
  let all : Nat := 2 ^ 64 - 1
  match opc with
  | 0x00 => some []
  | 0x01 => some [0x7F, 0, all, all, all, all]
  | 0x02 => some []
  | 0x03 => some [0xFFF]
  | 0x04 => some [0xFFF]
  | 0x05 => some [0xFFF]
  | 0x06 => some []
  | 0x07 => some [0xF3F, 2 ^ 60 - 1, 2 ^ 60 - 1, 2 ^ 60 - 1, 2 ^ 60 - 1]
  | 0x08 => some [0x3F]
  | 0x10 => some []
  | 0x11 => some [0xFF]
  | 0x12 => some [0xFFFFC000007FFFFF, 0xFFFFFFFF]
  | 0x13 => some [0xFE000000000000FF]
  | 0x14 => some [0xFFFF00FF]
  | 0x15 => some [0xFFFFFFFF, 0x1FFF000FFFFF]
  | 0x16 => some [0x1FFF000000FF]
  | 0x18 => some [all, all, all, all]
  | 0x19 => some [0xFFF0000000000000]
  | 0x1A => some [0xFFFFFF00007FFFFF, 0xFFFFFFFF]
  | 0x1B => some [0xFFFFFFF00000FFFF]
  | 0x1C => some []
  | 0x20 => some []
  | 0x21 => some []
  | 0x22 => some [0x1F]
  | 0x30 => some []
  | 0x31 => some []
  | 0x32 => some [all, all, all, all, all, all]
  | 0x38 => some []
  | 0x39 => some [all, all, all, all, all, all]
  | 0x3C => some [all, all, all, all, all, all]
  | 0x3D => some [all, all, all, all, all, all]
  | _ => none

/-- Length of a command's parameter block; none where it has none (Table 15.3). -/
def blockLen (ws : List W64) : Option Nat :=
  match wf ws 0 63 56 with
  | 0x02 => some 2176
  | 0x06 => some 64
  | 0x10 => some 448
  | 0x16 => some (32 * wf ws 2 44 32)
  | 0x1C => some 64
  | 0x20 => some 64
  | 0x21 => some 128
  | 0x22 => some 64
  | 0x30 => some 64
  | 0x31 => some 1680
  | 0x38 => some 64
  | _ => none

/-- EVAL_OPEN: the places of CTX_IDs beyond N are reserved. (Log entry 66: DESIGN CHOICE.) -/
def evalSpare (ws : List W64) : Bool :=
  (List.range 20).any (fun i => decide (wf ws 2 11 8 < i) && wf ws (3 + i / 5) (12 * (i % 5) + 11) (12 * (i % 5)) != 0)

/-- A reserved or out-of-range value in the descriptor itself: CHECK 0 (R571, R574). (Log entry 66: DESIGN CHOICE.) -/
def descBad (ws : List W64) : Bool :=
  wf ws 0 53 32 != 0 || wf ws 1 63 48 != 0 || (match argMask (wf ws 0 63 56) with
    | none => true
    | some m => (List.range 6).any (fun i => wd ws (2 + i) &&& ~~~(BitVec.ofNat 64 (m.getD i 0)) != 0))
  || ((blockLen ws).isNone && wf ws 1 47 0 != 0)
  || (match wf ws 0 63 56 with
    | 0x01 => wf ws 2 6 6 == 1 && wf ws 2 5 0 != 0
    | 0x07 => evalSpare ws
    | 0x16 => decide (4096 < wf ws 2 44 32)
    | 0x22 => decide (24 ≤ wf ws 2 4 0)
    | _ => false)

/-- A descriptor that is read: its block is copied, or it is rejected (R574). -/
def takeDesc (s : State) (j : Job) (ws : List W64) : State :=
  let a := wf ws 1 47 0
  let h : HostCmd := { job := j, ws := ws }
  if descBad ws then rejectCmd s h 0
  else match blockLen ws with
    | none => updHost s (fun y => { y with cur := some { h with since := s.time.now } })
    | some n =>
      if !(inHost a n) then rejectCmd s h 0xFF
      else if rawPoison s a n then rejectCmd (markRx s a n) h 0xFE
      else updHost s (fun y => { y with cur := some { h with block := memBytes s a n, since := s.time.now } })

/-- Ring r's next descriptor is accepted; it is the command that its row carries out next. -/
def acceptFrom (s : State) (r : Nat) : State :=
  let x := ringOf s r
  let j0 : Job := { ring := r, seq := s.host.jobSeq }
  let into (j : Job) : State :=
    setRing (updHost s (fun h => { h with rr := r, jobSeq := h.jobSeq + 1 })) r { x with head := x.head + 1, owed := x.owed ++ [j] }
  match nextDesc s x with
  | none =>
    let j : Job := { j0 with opc := 0xFF, tag := 2 ^ 32 - 1 }
    rejectCmd (markRx (into j) (descAddr x) 64) { job := j } 0xFE
  | some ws =>
    let j : Job := { j0 with opc := wf ws 0 63 56, tag := wf ws 0 31 0, nores := wf ws 0 54 54 == 1 }
    takeDesc (into j) j ws

/-- Log entry 65: DESIGN CHOICE. -/
def execDescriptorAccept (s : State) : Out :=
  .next (if acceptsCmds s then (match nextRing s with
      | none => s
      | some r => acceptFrom s r) else s)

/-! ## Results (R575, R580) -/

/-- An enabled vector owes a message (R580). -/
def oweMsix (s : State) (en : Bool) (vec : Nat) : State := if en then updHost s (fun h => { h with msixPend := NSet.ins h.msixPend vec }) else s

/-- The oldest result of a ring: words 0 to 2 where they are not yet written, then the stamp. (Log entry 67: DESIGN CHOICE.) -/
def stampResult (s : State) (r : Nat) : State :=
  let x := ringOf s r
  match x.done with
  | [] => s
  | d :: t =>
    let q := x.resSeq.toNat
    if s.host.cacheEn && decide (subMod 32 q x.resHead.toNat < 2 ^ x.log2n) then
      let a := resSlot x q
      let s1 := if d.body then s else hostWrite s a (leBytes 8 d.w0.toNat ++ leBytes 8 d.w1.toNat ++ leBytes 8 d.w2.toNat)
      let s2 := hostWrite s1 (a + 24) (leBytes 8 (q * 2 ^ 32 + 1))
      oweMsix (setRing s2 r { x with resSeq := x.resSeq + 1, done := t }) x.intEn x.vec
    else s

def execResultStampWrite (ring : Nat) (s : State) : Out := .next (stampResult s ring)

/-! ## Events (R577 to R581) -/

def evqSize (h : HostSt) : Nat := 2 ^ h.evqLog2n
/-- Free slots of the event queue. -/
def evqFree (h : HostSt) : Nat := evqSize h - subMod 32 h.evqSeq.toNat h.evqHead.toNat

/-- EVQ_LOST: 16 bits a class, saturating (Table 15.6, event 0x0701). -/
def lostWord (h : HostSt) : Nat :=
  ((List.range 4).map (fun c => min 0xFFFF (Tbl.get 0 h.lost c) * 2 ^ (16 * c))).foldl (· + ·) 0

/-- A record goes into the next slot, its stamp after its words (R575, R577). -/
def putEvent (s : State) (e : Ev) : State :=
  let h := s.host
  let a := h.evqBase + h.evqSeq.toNat % evqSize h * 32
  let w0 := e.code * 2 ^ 48 + e.cls * 2 ^ 46 + e.arg0.toNat
  let s1 := hostWrite s a (leBytes 8 w0 ++ leBytes 8 e.arg1.toNat ++ leBytes 8 e.time.toNat)
  let s2 := hostWrite s1 (a + 24) (leBytes 8 (h.evqSeq.toNat * 2 ^ 32 + 1))
  oweMsix (updHost s2 (fun y => { y with evqSeq := y.evqSeq + 1 })) h.evqIntEn h.evqVec

/-- An event that finds no slot is counted under its class (R579). (Log entry 64: DESIGN CHOICE.) -/
def loseEvent (s : State) (e : Ev) : State :=
  updHost s (fun h => { h with lost := Tbl.put h.lost e.cls (min 0xFFFF (Tbl.get 0 h.lost e.cls + 1)) })

/-- A slot is open to a class: the last CRIT_RSV free slots are for critical events. (Log entry 64: DESIGN CHOICE.) -/
def classOpen (h : HostSt) (cls : Nat) : Bool := if cls = clsCritical then decide (0 < evqFree h) else decide (h.critRsv < evqFree h)

/-- While records wait for host memory, the first waiting event that the free slots would not hold is lost (R564, R579). (Log entry 64: DESIGN CHOICE.) -/
def loseFirst (h : HostSt) : Nat → List Ev → Option (Nat × Ev)
  | _, [] => none
  | k, e :: t =>
    let room := if e.cls = clsCritical then decide (k < evqFree h) else decide (h.critRsv + k < evqFree h)
    if room then (loseFirst h (k + 1) t).map (fun p => (p.1 + 1, p.2)) else some (0, e)

/-- The next event is written or lost; the counts of lost ones go first once there is room beyond the reserve (R579). (Log entry 64: DESIGN CHOICE.) -/
def writeEvent (s : State) : State :=
  let h := s.host
  if h.evqEn && !h.cacheEn then
    (match loseFirst h 0 s.evs with
     | none => s
     | some (i, e) => loseEvent { s with evs := s.evs.eraseIdx i } e)
  else if h.evqEn && !h.lost.isEmpty && decide (h.critRsv < evqFree h) then
    putEvent (updHost s (fun y => { y with lost := [] }))
      { code := 0x0701, cls := clsCritical, arg1 := BitVec.ofNat 64 (lostWord h), time := s.time.now }
  else match s.evs with
    | [] => s
    | e :: t =>
      let s1 : State := { s with evs := t }
      if h.evqEn && classOpen h e.cls then putEvent s1 e else loseEvent s1 e

def execEventWrite (s : State) : Out := .next (writeEvent s)

/-- The event queue's stamps, zeroed in the same way. -/
def evqZero (s : State) : State :=
  if !s.host.cacheEn then updHost s (fun h => { h with evqZero := true })
  else zeroStamps (updHost s (fun h => { h with evqZero := false })) s.host.evqBase (evqSize s.host)

/-- A write of EVQ_CTL (R577, R584). (Log entry 63: DESIGN CHOICE.) -/
def writeEvqCtl (s : State) (v : W64) : State :=
  let h := s.host
  let g : HostSt := { h with
    critRsv := fld v 23 16, evqLog2n := if h.evqEn then h.evqLog2n else log2Field 8 20 h.evqLog2n (fld v 10 6)
    evqHeadErr := h.evqHeadErr && !(bit v 2), evqBaseErr := h.evqBaseErr && !(bit v 1) }
  if !(bit v 0) then { s with host := { g with evqEn := false, evqZero := false } }
  else if h.evqEn then { s with host := g }
  else if !(inHost g.evqBase (evqSize g * 32)) then { s with host := { g with evqBaseErr := true } }
  else evqZero { s with host := { g with evqEn := true, evqHead := 0, evqSeq := 0 } }

def execEvqCtl (v : W64) (s : State) : Out := .next (writeEvqCtl s v)

def writeEvqHead (s : State) (v : W64) : State :=
  let n := fld v 31 0
  updHost s (fun h => if badHead h.evqHead.toNat h.evqSeq.toNat n then { h with evqHeadErr := true } else { h with evqHead := BitVec.ofNat 32 n })

def execEvqHead (v : W64) (s : State) : Out := .next (writeEvqHead s v)

/-- A vector may send: none within EVQ_INT.MOD µs of its last message (R580). -/
def msixDue (s : State) (vec : Nat) : Bool :=
  s.host.msixPend.contains vec && (match Tbl.find? s.host.msixLast vec with
    | none => true
    | some t => decide (s.host.evqMod * 16000 ≤ (s.time.now - t).toNat))

/-- Log entry 67: DESIGN CHOICE. -/
def execMsixSend (vec : Nat) (t : W64) (s : State) : Out :=
  .next (let s1 := advance s t
    if linkUp s1 && msixDue s1 vec then
      updHost s1 (fun h => { h with
        msixPend := NSet.del h.msixPend vec, msixLast := Tbl.put h.msixLast vec s1.time.now, msixSent := h.msixSent ++ [vec] })
    else s1)

/-! ## The port (R560, R564) -/

def execHostLinkDown (s : State) : Out := .next (linkDown s)

/-- The link returns (R564): event 0x0703, and the package events that were owed (R698, R703); the port's own fault is over. (Log entry 68: DESIGN CHOICE.) -/
def execHostLinkRestored (t : W64) (s : State) : Out :=
  .next (let s := advance s t
    if linkUp s || !(decide (5 ≤ s.trust.phase)) then s
    else
      let s1 := raiseEv (updPwr (portUp s) (fun p => { p with refclk := true })) 0x0703 clsCritical 0 ((s.time.now - s.host.downAt) / 16).toNat
      s.flt.owed.foldl packageEvent (updFlt s1 (fun f => { f with owed := [], pkgHold := NSet.del f.pkgHold 1 })))

/-- A module fails; the port runs on the others, and goes down with the last. (Log entry 68: DESIGN CHOICE.) -/
def execModuleLost (m : Nat) (s : State) : Out :=
  .next (if linkUp s && s.host.modules.getLsbD m then
      let left := s.host.modules &&& ~~~(BitVec.ofNat 4 (2 ^ m))
      let s1 := updHost s (fun h => { h with modules := left, moduleLost := true })
      if left = 0 then linkDown s1 else packageEvent (updHost s1 (fun h => { h with link := 3 })) 1
    else s)

/-- The device holds no host line: it answers RspIHitI (Table 15.1). (Log entry 68: DESIGN CHOICE.) -/
def execHostSnoop (a : Nat) (s : State) : Out := .next (if linkUp s then updHost s (fun h => { h with snoops := h.snoops ++ [a] }) else s)

/-- What waited for host memory in the device's own registers goes on: stamps that enables zero, arms of turns (R564). -/
def hostBack (s : State) : State :=
  let s1 := (List.range 16).foldl (fun s r => if (ringOf s r).zeroPend then ringZero s r else s) s
  let s2 := if s1.host.evqZero then evqZero s1 else s1
  (List.range 64).foldl armNow s2

/-- Log entry 68: DESIGN CHOICE. -/
def execCacheEnChange (en : Bool) (s : State) : Out :=
  .next (let s1 := updHost s (fun h => { h with cacheEn := en && linkUp s })
    if en && linkUp s then hostBack s1 else s1)

end Sys2Proof.Machine
end

