-- ==== Sys2Proof/Machine/Shards.lean ====
section
/-!
DEFINITION. Sys2Proof/Machine/Shards.lean: the host's digests (R356), shard loads and reloads (R613 to R621, R642, R643), content keys (R611,
R612) and attestation (R599, R608, R609).
-/

namespace Sys2Proof.Machine

/-! ## SE_HOST -/

/-- The descriptor of R356 as the host gives it: all four modes; MODE 0b11 reads and writes nothing. (Log entry 76: DESIGN CHOICE.) -/
def parseHostDigest (d : List W64) : Parsed :=
  let mode := wf d 0 55 54
  { ok := wf d 0 63 56 == 6 && wf d 0 53 0 == 0 && within 1 (2 ^ 30) (wd d 2).toNat && hi0 d [1, 3, 4] && zeroWords d [5, 6, 7]
      && (mode != 0 || wd d 4 == 0) && addr d 1 % 128 == 0
    ops := if mode = 3 then [{ a := addr d 1, n := 0, align := 128 }]
      else [{ a := addr d 1, n := (wd d 2).toNat, align := 128 }, { a := addr d 3, n := 32, r := false, w := true }]
        ++ (if mode = 0 then [] else [{ a := addr d 4, n := 32 }]) }

/-- A device range on one stack. -/
def onOneStack (st a n : Nat) : Bool := isHbm a && stackOf a == st && isHbm (a + n - 1) && stackOf (a + n - 1) == st

/-- Log entry 76: DESIGN CHOICE. -/
def execSeHost (s : State) : Out :=
  .next (match s.host.cur with
    | none => s
    | some h0 =>
      let st := hf h0 2 4 0
      let p := parseHostDigest (blockWords h0)
      let ok := p.ok && p.ops.all (fun o => onOneStack st o.a o.n)
      let rd := opRanges hostView p.ops (fun o => o.r)
      let wr := opRanges hostView p.ops (fun o => o.w)
      if h0.job.opc = 0x22 ∧ ok = true ∧ (engineFull s st || (liveSetMeets s wr).isSome || (adpMeets s wr).isSome) = true then s
      else withCur s 0x22 fun h s =>
        checked s h [(1, !ok)] fun s =>
          if (seOf s st).failed then finishJob s h.job 2 0 0
          else updSe (slicesWrite (slicesRead s rd) wr) st (fun y => { y with cmds := y.cmds ++
            [{ op := 6, desc := blockWords h, rd := rd, wr := wr, job := some h.job }] }))

/-! ## Shards of a set (R450) -/

/-- Where shard i lies: its device address and length; none where no stack of the set holds it. -/
def shardSpan (x : SetSt) (i : Nat) : Option (Nat × Nat) :=
  ((bitList 24 x.stackSet).find? (fun st =>
      decide (Tbl.get 0 x.shard0 st ≤ i) && decide (i < Tbl.get 0 x.shard0 st + shardsOf (Tbl.get 0 x.sizes st)))).map (fun st =>
    let j := i - Tbl.get 0 x.shard0 st
    (stackBase st + x.offset + j * 2 ^ 26, min (2 ^ 26) (Tbl.get 0 x.sizes st * 4096 - j * 2 ^ 26)))

def spanOf (s : State) (n i : Nat) : Nat × Nat := (shardSpan (setOf s n) i).getD (0, 0)

/-- A status that counts as verified (Table 16.13). -/
def verifiedCode (c : Nat) : Bool := c == 0 || c == 5
def shardCode (x : SetSt) (i : Nat) : Nat := Tbl.get 6 x.shards i
def putShard (s : State) (n i c : Nat) : State := updSet s n (fun x => { x with shards := Tbl.put x.shards i c })

/-- A Filling set is Complete when every one of its shards is verified (R619). -/
def shardsDone (s : State) (n : Nat) : State :=
  let x := setOf s n
  if x.st == .filling && x.nshard != 0 && (List.range x.nshard).all (fun i => verifiedCode (shardCode x i)) then setFilled s n else s

/-- The installed key of a KEY_ID. -/
def keyOf (s : State) (keyId : Nat) : Option (List Byte) := (s.trust.keys.find? (fun p => p.2.keyId == keyId)).map (·.2.key)

/-- Initialisation vector and additional data of shard i (R615). -/
def gcmIv (ivPfx : W64) (i : Nat) : List Byte := leBytes 8 ivPfx.toNat ++ leBytes 4 i
def gcmAad (model : W64) (i len : Nat) : List Byte := leBytes 8 model.toNat ++ leBytes 4 i ++ leBytes 4 len

/-- What arrives of a shard's source: plain, or decrypted as it arrives. -/
def arrived (s : State) (mode : Nat) (key : List Byte) (ivPfx : W64) (i src len : Nat) : List Byte :=
  if mode = 1 then Config.gcmPlain key (gcmIv ivPfx i) (memBytes s src len) else memBytes s src len

/-- The lines of a range of len bytes whose source is read without poison, by offset. -/
def cleanLines (s : State) (src len : Nat) : List Nat :=
  ((List.range (len / 128)).map (· * 128)).filter (fun o => !(rawPoison s (src + o) 128))

/-- Full-line writes through the home slices with the STREAM hint; the Bool says that one was not performed (R615, R616). -/
def writeLines (s : State) (dst : Nat) (data : List Byte) (offs : List Nat) : State × Bool :=
  offs.foldl (fun (r : State × Bool) o =>
    let y := devWrite r.1 (dst + o) ((data.drop o).take 128) 1 none
    (y.1, r.2 || y.2)) (s, false)

/-! ## SHARD_LOAD (R613 to R615) -/

def loadOf (s : State) (h : HostCmd) : LoadSt :=
  let d := blockWords h
  let keyId := wf d 0 31 0
  { set := wf d 0 63 56, mode := wf d 0 39 38, fdig := wf d 0 37 37 == 1, keyId := keyId, key := (keyOf s keyId).getD []
    first := wf d 1 63 32, count := wf d 1 31 0, src := addr d 2, tags := addr d 3, digs := addr d 4, stat := addr d 5
    model := wd d 6, ivPfx := wd d 7, job := h.job }

/-- The shards a load covers. -/
def loadRange (l : LoadSt) : List Nat := (List.range l.count).map (l.first + ·)
def covers1 (l : LoadSt) (n i : Nat) : Bool := l.set == n && l.mode != 2 && decide (l.first ≤ i) && decide (i < l.first + l.count)

/-- Host memory that the block's addresses name, from the first byte to the last. -/
def loadAddrs (s : State) (l : LoadSt) : List (Nat × Nat) :=
  let last := (spanOf s l.set (l.first + l.count - 1)).2
  (if l.mode = 2 then [] else [(l.src, (l.count - 1) * 2 ^ 26 + max 1 last)]) ++ (if l.mode = 1 then [(l.tags, 16 * l.count)] else [])
  ++ (if l.fdig then [(l.digs, 32 * l.count)] else []) ++ [(l.stat, l.count)]

/-- Log entry 74: DESIGN CHOICE. -/
def shardLoadChecks (s : State) (d : List W64) (l : LoadSt) : List (Nat × Bool) :=
  let x := setOf s l.set
  let meets := (loadRange l).any (fun i => s.trust.loads.any (fun m => covers1 m l.set i))
  [(1, l.mode == 3 || wf d 0 36 32 != 0 || (l.mode != 1 && l.keyId != 0) || !(within 1 49152 l.count) || !(hi0 d [2, 3, 4, 5])
       || l.src % 4096 != 0 || (loadAddrs s l).any (fun p => !(inHost p.1 p.2))),
   (2, !(isDefined x) || x.nshard == 0), (3, decide (x.nshard < l.first + l.count)),
   (4, l.mode != 2 && (x.st == .live || x.st == .draining || targeted s l.set || sending s l.set || meets)),
   (5, l.mode != 2 && x.st == .filling && wf d 0 55 40 != x.epoch.toNat),
   (6, l.mode == 1 && (keyOf s l.keyId).isNone)]

/-- An accepted load: the set is Filling, its range's verified shards are so no longer, and their registrations go (R615, R617). (Log entry 74: DESIGN CHOICE.) -/
def startLoad (s : State) (l : LoadSt) (epoch : Nat) : State :=
  let s1 : State := { s with trust := { s.trust with loads := s.trust.loads ++ [l] } }
  if l.mode = 2 then s1
  else
    let s2 := updSet s1 l.set (fun x => { x with
      st := .filling, epoch := BitVec.ofNat 16 epoch
      shards := (loadRange l).foldl (fun t i => if verifiedCode (Tbl.get 6 t i) then Tbl.put t i 4 else t) x.shards })
    (loadRange l).foldl (fun s i => dropRegns s (spanOf s l.set i)) s2

/-- Up to four loads run at once; a fifth waits. -/
def execShardLoad (s : State) : Out :=
  .next (match s.host.cur with
    | none => s
    | some h0 =>
      let d := blockWords h0
      let l0 := loadOf s h0
      if h0.job.opc = 0x30 ∧ (firstFail (shardLoadChecks s d l0)).isNone = true ∧ 4 ≤ s.trust.loads.length then s
      else withCur s 0x30 fun h s =>
        checked s h (shardLoadChecks s d l0) fun s => startLoad s { l0 with job := h.job } (wf d 0 55 40))

/-! ## A load's shards arrive (R615 to R620) -/

/-- The digest of a shard that has passed R616, against its entry at DIGESTS: its status (R617). -/
def shardDigest (s : State) (l : LoadSt) (i : Nat) : State × Nat :=
  let p := spanOf s l.set i
  let at_ := l.digs + 32 * (i - l.first)
  let st := stackOf p.1
  let s1 := updSe s st (fun y => { y with cmdsDone := y.cmdsDone + 1 })
  if rawPoison s at_ 32 then (s1, 3)
  else
    let want := memBytes s at_ 32
    if sha256 (memBytes s p.1 p.2) ≠ want then (s1, 2)
    else if 2048 ≤ (seOf s st).regns.length then (s1, 5)
    else (updSe s1 st (fun y => { y with regns := y.regns ++ [{ src := p.1, len := p.2, digest := want }] }), 0)

/-- One shard: its lines written as they arrive, and its status. (Log entry 74: DESIGN CHOICE.) -/
def loadShard (s : State) (l : LoadSt) (i : Nat) : State × Nat :=
  let p := spanOf s l.set i
  let src := l.src + (i - l.first) * 2 ^ 26
  let tag := l.tags + 16 * (i - l.first)
  let w := writeLines (markRx s src p.2) p.1 (arrived s l.mode l.key l.ivPfx i src p.2) (cleanLines s src p.2)
  if rawPoison s src p.2 || w.2 || (l.mode == 1 && rawPoison s tag 16) then (w.1, 3)
  else if l.mode = 1 ∧ Config.gcmTagOk l.key (gcmIv l.ivPfx i) (gcmAad l.model i p.2) (memBytes s src p.2) (memBytes s tag 16) = false then
    (w.1, 1)
  else if l.fdig then shardDigest w.1 l i
  else (w.1, 0)

/-- The shards of a load in ascending order; one that is stopped has done the first `fin` of them. (Log entry 74: DESIGN CHOICE.) -/
def loadAll (s : State) (l : LoadSt) (fin : Nat) : State :=
  let n := if l.stop then min fin l.count else l.count
  let s1 := ((loadRange l).take n).foldl (fun s i => let r := loadShard s l i; putShard r.1 l.set i r.2) s
  ((loadRange l).drop n).foldl (fun s i => putShard s l.set i 4) s1

/-- The report of a load (R618). -/
def reportLoad (s : State) (l : LoadSt) : State :=
  let x := setOf s l.set
  let bad := (loadRange l).filter (fun i => !(verifiedCode (shardCode x i)))
  let s1 := hostWrite s l.stat ((loadRange l).map (fun i => BitVec.ofNat 8 (shardCode x i)))
  if bad.isEmpty then finishJob s1 l.job 0 0 0
  else
    let s2 := raiseEv s1 0x0409 clsError (bad.length * 2 ^ 8 + l.set) (bad.getD 1 0xFFFFFFFF * 2 ^ 32 + bad.getD 0 0xFFFFFFFF)
    let s3 := if l.mode = 2 then s2
      else { s2 with trust := { s2.trust with shardFails := s2.trust.shardFails + BitVec.ofNat 64 bad.length } }
    finishJob s3 l.job 2 0 (BitVec.ofNat 64 bad.length)

/-- A stack that a load writes does not serve. -/
def spansWait (s : State) (n : Nat) (is : List Nat) : Bool := is.any (fun i => addrWaits s (spanOf s n i).1)

/-- Log entry 74: DESIGN CHOICE. -/
def execShardLoadComplete (k fin : Nat) (s : State) : Out :=
  .next (match s.trust.loads[k]? with
    | none => s
    | some l =>
      if !s.host.cacheEn || (l.mode != 2 && spansWait s l.set (loadRange l)) then s
      else
        let s1 : State := { s with trust := { s.trust with loads := s.trust.loads.eraseIdx k } }
        let s2 := if l.mode = 2 then s1 else loadAll s1 l fin
        reportLoad (if l.mode = 2 then s2 else shardsDone s2 l.set) l)

/-! ## RELOAD_SHARD (R642, R643) -/

/-- The poisoned lines of a range of HBM. -/
def poisonLines (s : State) (p : Nat × Nat) : List Nat := s.poison.filter (fun a => isHbm a && decide (p.1 ≤ a) && decide (a < p.1 + p.2))

def reloadOf (s : State) (h : HostCmd) : ReloadSt :=
  let d := blockWords h
  { set := wf d 0 63 56, mode := wf d 0 55 54, key := (keyOf s (wf d 0 31 0)).getD [], index := wf d 1 31 0, src := addr d 2
    tag := (h.block.drop 24).take 16, model := wd d 5, ivPfx := wd d 6, lines := [], job := h.job }

def reloadChecks (s : State) (d : List W64) (l : ReloadSt) : List (Nat × Bool) :=
  let x := setOf s l.set
  let p := spanOf s l.set l.index
  [(1, decide (1 < l.mode) || wf d 0 53 32 != 0 || (l.mode != 1 && (wf d 0 31 0 != 0 || !(zeroWords d [3, 4]))) || wf d 1 63 32 != 0
       || !(hi0 d [2]) || wd d 7 != 0 || l.src % 4096 != 0 || !(inHost l.src (max 1 p.2))),
   (2, !(isDefined x) || decide (x.nshard ≤ l.index)), (3, l.mode == 1 && (keyOf s (wf d 0 31 0)).isNone),
   (4, s.trust.loads.any (fun m => covers1 m l.set l.index) || s.trust.reloads.any (fun m => m.set == l.set && m.index == l.index)),
   (5, decide (512 < (poisonLines s p).length))]

/-- Log entry 75: DESIGN CHOICE. -/
def execReloadShard (s : State) : Out :=
  .next (withCur s 0x38 fun h s0 =>
    let d := blockWords h
    let l := reloadOf s0 h
    let p := spanOf s0 l.set l.index
    let s := slicesRead s0 [p]
    checked s h (reloadChecks s d l) fun s =>
      let ls := poisonLines s p
      if ls.isEmpty ∧ verifiedCode (shardCode (setOf s l.set) l.index) = true then completeCmd s h 0
      else { s with trust := { s.trust with reloads := s.trust.reloads ++ [{ l with lines := ls }] } })

/-- The source passes: the tag matches, or every read of it is free of poison. (Log entry 75: DESIGN CHOICE.) -/
def reloadPasses (s : State) (l : ReloadSt) (len : Nat) : Bool :=
  !(rawPoison s l.src len) && (l.mode != 1
    || Config.gcmTagOk l.key (gcmIv l.ivPfx l.index) (gcmAad l.model l.index len) (memBytes s l.src len) l.tag)

/-- The kept lines, or with none poisoned every line, are written and the shard is verified again; a check that fails changes nothing. (Log entry 75: DESIGN CHOICE.) -/
def finishReload (s : State) (l : ReloadSt) : State :=
  let p := spanOf s l.set l.index
  if l.stop then finishJob s l.job 2 0 0
  else if !(reloadPasses s l p.2) then finishJob (markRx s l.src p.2) l.job 2 0 0
  else
    let offs := if l.lines.isEmpty then (List.range (p.2 / 128)).map (· * 128) else l.lines.map (· - p.1)
    let data := arrived s l.mode l.key l.ivPfx l.index l.src p.2
    let w := writeLines s p.1 data offs
    let s1 := updFlt w.1 (fun f => { f with reloads := f.reloads + BitVec.ofNat 64 offs.length })
    if w.2 then finishJob s1 l.job 2 0 (BitVec.ofNat 64 offs.length)
    else if l.lines.isEmpty ∧ sha256 (memBytes s1 p.1 p.2) ≠ sha256 data then finishJob s1 l.job 2 0 (BitVec.ofNat 64 offs.length)
    else finishJob (shardsDone (putShard s1 l.set l.index 0) l.set) l.job 0 0 (BitVec.ofNat 64 offs.length)

def execReloadShardComplete (k : Nat) (s : State) : Out :=
  .next (match s.trust.reloads[k]? with
    | none => s
    | some l =>
      if !s.host.cacheEn || addrWaits s (spanOf s l.set l.index).1 then s
      else finishReload { s with trust := { s.trust with reloads := s.trust.reloads.eraseIdx k } } l)

/-! ## KEY_DELIVER (R611) -/

def slotKey (s : State) (n : Nat) : Option KeySlot := Tbl.find? s.trust.keys n

/-- A running load decrypts with the key of a slot. -/
def slotUsed (s : State) (n : Nat) : Bool :=
  match slotKey s n with
  | none => false
  | some k => s.trust.loads.any (fun l => l.mode == 1 && l.keyId == k.keyId)

/-- The label of the KDF: "wrap", KEY_ID, SLOT, DEV_SERIAL (R611, step 2). (Log entry 72: DESIGN CHOICE.) -/
def wrapLabel (s : State) (keyId n : Nat) : List Byte :=
  keyLabel "wrap" ++ leBytes 4 keyId ++ leBytes 1 n ++ leBytes 8 s.trust.serial.toNat

/-- The key-encryption key of a block: the KDF of R594 keyed with the secret that the block's ciphertext decapsulates to. -/
def kekOf (s : State) (b : List Byte) (keyId n : Nat) : List Byte :=
  kdf (Config.kemDecaps (kemSeed s.trust) ((b.drop 64).take 1568)) (wrapLabel s keyId n) 1

/-- The content key by AES-256-GCM with a zero IV and word 0 of the block as additional data; none where the tag does not verify. -/
def unwrapKey (s : State) (b : List Byte) (keyId n : Nat) : Option (List Byte) :=
  let kek := kekOf s b keyId n
  let ct := (b.drop 1632).take 32
  if Config.gcmTagOk kek (zeros 12) (b.take 8) ct ((b.drop 1664).take 16) then some (Config.gcmPlain kek (zeros 12) ct) else none

/-- Log entry 73: DEDUCED. -/
def execKeyDeliver (s : State) : Out :=
  .next (withCur s 0x31 fun h s =>
    let d := blockWords h
    let n := wf d 0 63 56
    let keyId := wf d 0 31 0
    let install := wf d 0 55 55 == 1
    checked s h [(1, wf d 0 54 48 != 0 || !(zeroWords d [1, 2, 3, 4, 5, 6, 7])), (2, !s.trust.identOk),
        (3, wf d 0 47 32 != s.trust.kemGen.toNat % 2 ^ 16), (4, slotUsed s n || s.trust.keys.any (fun p => p.1 != n && p.2.keyId == keyId))] fun s =>
      if !install then completeCmd (updTrust s (fun t => { t with keys := Tbl.del t.keys n })) h 0
      else match unwrapKey s h.block keyId n with
        | none => rejectCmd (raiseEv s 0x0801 clsError 3 0) h 5
        | some k => completeCmd (updTrust s (fun t => { t with keys := Tbl.put t.keys n { keyId := keyId, key := k } })) h 0)

/-! ## ATTEST (R599, R608, R609) -/

def sigsLeft (s : State) : Nat := 2 ^ 25 - s.trust.sigNext

/-- DEV_IDENT, from the record in use (R589). -/
def devIdent (s : State) : Nat :=
  let r := (runCfg s.trust).items
  r.member % 2 ^ 16 * 2 ^ 48 + r.stepping % 2 ^ 8 * 2 ^ 40 + r.hnn % 256 * 2 ^ 32 + (if r.screen then 1 else 0) * 2 ^ 24
def fwVersion (s : State) : Nat := (runFw s.trust).version % 2 ^ 32 * 2 ^ 32 + (runCfg s.trust).version % 2 ^ 32

/-- The UNIT_MAP entry of a LUN (Table 1.3). -/
def unitMap (s : State) (u : Nat) : Nat :=
  (if (unitOf s u).en then 2 ^ 15 else 0) + (if (unitOf s u).spareIn then 2 ^ 14 else 0) + dieOf u * 2 ^ 6 + siteOf s u
def unitMapBytes (s : State) : List Byte := (List.range 256).flatMap (fun u => leBytes 2 (unitMap s u))

def kemKey (s : State) : List Byte := kemPub s.trust

/-- The entries of the supplement that are applied, each with its MAC (R591). -/
def appliedSupp (s : State) : List Byte := (appliedEnts s.trust).flatMap (fun e => entryBytes e ++ e.mac)

/-- The 256-byte body of a report (Table 16.10), for signature index q. -/
def reportBody (s : State) (h : HostCmd) (q : Nat) : List Byte :=
  leBytes 8 (devIdent s) ++ leBytes 8 s.trust.serial.toNat ++ leBytes 8 (fwVersion s) ++ leBytes 8 s.time.now.toNat
  ++ (List.range 4).flatMap (fun i => leBytes 8 (wd h.ws (3 + i)).toNat)
  ++ sha256 (objBytes (runFw s.trust) 0) ++ sha256 (objBytes (runCfg s.trust) 1) ++ sha256 (appliedSupp s) ++ sha256 (unitMapBytes s)
  ++ sha256 (kemKey s)
  ++ leBytes 4 s.trust.fwSvn.toNat ++ leBytes 4 s.trust.cfgSvn.toNat ++ leBytes 4 s.trust.kemGen.toNat ++ leBytes 4 s.trust.suppSeq.toNat
  ++ leBytes 4 q ++ zeros 12

/-- One signature fewer: event 0x0802 below 2^20 and below each further multiple of 2^16 (R599). (Log entry 73: DEDUCED.) -/
def takeSig (s : State) : State :=
  let old := sigsLeft s
  let s1 := updTrust s (fun t => ksWrote 1 { t with sigNext := t.sigNext + 1 })
  if old ≤ 2 ^ 20 ∧ old % 2 ^ 16 = 0 then raiseEv s1 0x0802 clsWarning 0 (old - 1) else s1

/-- The report: body, encapsulation key, signature over both. -/
def report (s : State) (h : HostCmd) : List Byte :=
  let m := reportBody s h s.trust.sigNext ++ kemKey s
  m ++ identSign s.trust.seed s.trust.sigNext m

/-- A report is written to host memory, and waits for it (R564). Its index is written to the signing state first: where the device's supply is
cut between that and the release (`cut`), the device restarts and the index is skipped (R599). (Log entry 73: DEDUCED.) -/
def execAttest (cut : Bool) (s : State) : Out :=
  .next (if !s.host.cacheEn then s
    else withCur s 0x32 fun h s =>
      let out := hf h 2 47 0
      let cert := hf h 2 48 48 == 1
      let n := if cert then (certBytes s.trust).length else 7060
      checked s h [(0, out % 64 != 0), (1, hf h 2 63 49 != 0 || wd h.ws 7 != 0), (2, !(inHost out n)), (3, !s.trust.identOk),
          (4, sigsLeft s == 0)] fun s =>
        if cert then completeCmd (hostWrite s out (certBytes s.trust)) h n
        else if cut then updPwr (restart (takeSig s)) (fun w => { w with thermtrip := false })
        else completeCmd (takeSig (hostWrite s out (report s h))) h n)

end Sys2Proof.Machine
end

