-- ==== Sys2Proof/Machine/Regs.lean ====
section
/-!
DEFINITION. Sys2Proof/Machine/Regs.lean: the device registers by address (R582, Tables 7.3, 8.10, 12.6, 12.14, 13.17, 14.12, 15.8, 16.14, 17.7,
18.8): what each reads as, the writes that have no row of their own (R20), and the host's accesses through BAR0 and BAR2 (R46, R269,
R561). A write to a register that has a row has that row's effect.
-/

namespace Sys2Proof.Machine

/-- The state a register's row leaves. -/
def after (o : Out) (s : State) : State :=
  match o with
  | .next t => t
  | _ => s

/-- Entry i of an array of registers `stride` bytes apart from `base`, with the offset within the entry; none outside its n entries. -/
def regIx (base stride n o : Nat) : Option (Nat × Nat) :=
  if base ≤ o ∧ o < base + stride * n then some ((o - base) / stride, (o - base) % stride) else none

def b2n (b : Bool) (i : Nat) : Nat := if b then 2 ^ i else 0

/-! ## What registers read as -/

def portCode : PortState → Nat
  | .disabled => 0
  | .down => 1
  | .training => 2
  | .up => 3
def strCode : StrState → Nat
  | .closed => 0
  | .waiting => 1
  | .streaming => 2
  | .diverted => 3
def drvCode : DrvState → Nat
  | .closed => 0
  | .opened => 1
  | .closing => 2
  | .broken => 3
def setCode : SetState → Nat
  | .undefined => 0
  | .empty => 1
  | .filling => 2
  | .complete => 3
  | .live => 4
  | .draining => 5
def quarCode : QuarSt → Nat
  | .inService => 0
  | .quarantined => 1
  | .substituting => 2
  | .retesting => 3
  | .stale => 4
  | .retired => 5
def discCode : Disc → Nat
  | .free => 0
  | .acquiring => 1
  | .locked => 2
  | .holdover => 3
/-- PWR_STAT.STATE; a package that is off reads as Standby, its compute dies being unpowered. (Log entry 70: DESIGN CHOICE.) -/
def pwrCode : PwrState → Nat
  | .active => 0
  | .saving => 1
  | .standby => 2
  | .off => 2

/-- SQR registers of ring r (Table 15.8). (Log entry 111: DESIGN CHOICE.) -/
def ringReg (s : State) (r o : Nat) : Nat :=
  let x := ringOf s r
  match o with
  | 0x00 => x.base
  | 0x08 => x.resBase
  | 0x10 => x.vec * 2 ^ 16 + b2n x.intEn 15 + x.log2n * 2 ^ 8 + b2n (ringIdle x) 2 + b2n x.en 0
  | 0x20 => x.head.toNat
  | 0x28 => x.resHead.toNat
  | 0x30 => x.resSeq.toNat
  | 0x38 => b2n x.errHead 3 + b2n x.errDis 2 + b2n x.errBase 1 + b2n x.errDb 0
  | _ => 0

/-- REF_STAT of a stack. (Log entry 86: DESIGN CHOICE.) -/
def refStat (y : SeSt) : Nat := y.temp % 256 * 2 ^ 8 + b2n y.held 3 + y.rate

def hostReg (s : State) (o : Nat) : Nat :=
  let h := s.host
  match o with
  | 0x0000 => devIdent s
  | 0x0008 => s.trust.serial.toNat
  | 0x0010 => fwVersion s
  | 0x0018 => h.modules.toNat * 2 ^ 12 + b2n h.cacheEn 7 + b2n h.ioUp 6 + h.link
  | 0x0020 => b2n h.poisonRx 2 + b2n h.moduleLost 1 + b2n h.linkLoss 0
  | 0x0028 => h.aper.toNat
  | 0x0030 => h.losses.toNat
  | 0x0100 => h.evqBase
  | 0x0108 => h.critRsv * 2 ^ 16 + h.evqLog2n * 2 ^ 6 + b2n h.evqHeadErr 2 + b2n h.evqBaseErr 1 + b2n h.evqEn 0
  | 0x0110 => h.evqHead.toNat
  | 0x0118 => h.evqSeq.toNat
  | 0x0120 => lostWord h
  | 0x0128 => h.evqMod * 2 ^ 16 + b2n h.evqIntEn 6 + h.evqVec
  | 0x0200 => h.holdC * 2 ^ 16 + h.t4 * 2 ^ 8 + h.t2
  | _ =>
    match regIx 0x0208 8 24 o, regIx 0x0400 8 64 o, regIx 0x1000 0x40 16 o with
    | some (i, _), _, _ => refStat (seOf s i)
    | _, some (i, _), _ => leNat ((List.range 4).flatMap (fun j => leBytes 2 (unitMap s (4 * i + j))))
    | _, _, some (r, p) => ringReg s r p
    | _, _, _ => 0

def slotPtr (s : State) (n : Nat) : Nat :=
  match liveIn s n with
  | none => 0
  | some v => (setOf s v).epoch.toNat * 2 ^ 16 + 2 ^ 8 + v

def turnReg (s : State) (p o : Nat) : Nat :=
  let t := turnOf s p
  match o with
  | 0x00 => b2n t.armSwitch 2 + b2n t.armSend 1 + b2n t.armEmit 0
  | 0x08 => t.cause * 2 ^ 16 + b2n t.armErr 8 + turnCode t.st
  | 0x10 => t.tgtEpoch.toNat * 2 ^ 32 + t.tgtSlot * 2 ^ 8 + t.tgtSet
  | 0x18 => t.emitExp
  | 0x20 => t.emitDone
  | 0x28 => t.planAddr
  | 0x30 => t.planN
  | 0x38 => t.rxExp
  | 0x40 => wholeTags t
  | 0x48 => t.txAck.toNat
  | 0x50 => t.rxBytes.toNat
  | _ => 0

def setStat (x : SetSt) : Nat := x.inflight * 2 ^ 48 + x.epoch.toNat * 2 ^ 32 + b2n (setFailed x) 3 + setCode x.st

/-- A channel's counters (Table 12.14); the time of an entry that waits now counts. -/
def drvReg (s : State) (c o : Nat) : Nat :=
  let x := Tbl.get {} s.drv c
  match o with
  | 0x00 => drvCode x.st
  | 0x08 => x.delivered.toNat
  | 0x10 => (x.waitNs + (match x.waitFrom with
      | none => 0
      | some t => (s.time.now - t) / 16)).toNat
  | 0x18 => transitBytes x
  | _ => 0

def turnBlock (s : State) (o : Nat) : Nat :=
  match regIx 0 8 64 o, regIx 0x0200 0x80 64 o, regIx 0x2200 8 256 o, regIx 0x2A00 0x20 64 o with
  | some (n, _), _, _, _ => slotPtr s n
  | _, some (p, q), _, _ => turnReg s p q
  | _, _, some (n, _), _ => setStat (setOf s n)
  | _, _, _, some (c, q) => drvReg s c q
  | _, _, _, _ => 0

def genStat (g : Option AdpGen) : Nat :=
  match g with
  | none => 0
  | some x => x.inflight * 2 ^ 48 + x.gen.toNat * 2 ^ 32 + 1

def dlmStat (x : StreamSt) : Nat := x.ita % 2 ^ 32 * 2 ^ 32 + x.last * 2 ^ 8 + strCode x.st

def servBlock (s : State) (o : Nat) : Nat :=
  match regIx 0 16 4096 o, regIx 0x10000 8 16384 o, regIx 0x30100 0x20 16 o with
  | some (a, q), _, _ => genStat (if q = 0 then (adpOf s a).cur else (adpOf s a).ret)
  | _, some (n, _), _ => dlmStat (Tbl.get {} s.streams n)
  | _, _, some (r, q) =>
    let x := Tbl.get {} s.smp r
    (match q with
     | 0x00 => x.rows
     | 0x08 => x.excl
     | 0x10 => x.proposed
     | _ => x.accepted).toNat
  | _, _, _ => if o = 0x30000 then b2n s.dlmEn 0 else if o = 0x30008 then s.diverts.toNat else if o = 0x30010 then s.stray.toNat else 0

def portReg (s : State) (p o : Nat) : Nat :=
  let x := portOf s p
  match o with
  | 0x00 => b2n x.en 0
  | 0x08 => x.nbDev * 2 ^ 44 + x.nbPort * 2 ^ 40 + portCode x.st
  | 0x10 => x.fecCe.toNat
  | 0x18 => x.fecUe.toNat
  | 0x20 => x.replayC.toNat
  | 0x28 => x.txBytes.toNat
  | 0x30 => x.rxBytes.toNat
  | 0x38 => x.drops.toNat
  | _ => 0

def grpReg (s : State) (g o : Nat) : Nat :=
  let x := Tbl.get {} s.groups g
  if o = 0 then x.lastSeq % 2 ^ 32 * 2 ^ 32 + x.lastSlow % 2 ^ 20 * 2 ^ 12 + b2n (collActive x) 8 + x.lastCode
  else x.lastNamed % 2 ^ 32 * 2 ^ 32 + x.lastLag % 2 ^ 32

def fabBlock (s : State) (o : Nat) : Nat :=
  let f := s.fab
  match o with
  | 0x0000 => f.devId
  | 0x0008 => b2n f.modeErr 2 + b2n f.hold 1 + b2n f.mode 0
  | 0x0010 => b2n (lquiet s) 0
  | 0x0018 => f.hopBudget
  | 0x0020 => f.collTmo
  | 0x0028 => b2n f.trunkErr 1 + b2n f.winErr 0
  | 0x0030 => f.rtMiss.toNat
  | 0x0038 => f.hopDrop.toNat
  | 0x0040 => f.rxRefused.toNat
  | 0x0048 => f.collDone.toNat
  | 0x0050 => f.collFailed.toNat
  | 0x0058 => f.collSpoiled.toNat
  | 0x0060 => f.collCsum.toNat
  | _ =>
    match regIx 0x0100 8 12 o, regIx 0x0200 0x40 12 o, regIx 0x1000 0x10 256 o, regIx 0x2000 0x20 64 o, regIx 0x3000 0x10 1024 o with
    | some (t, _), _, _, _, _ => (Tbl.get 0 f.trunk t).toNat
    | _, some (p, q), _, _, _ => portReg s p q
    | _, _, some (e, q), _, _ => (if q = 0 then Tbl.get 0 f.rtRange e else Tbl.get 0 f.rtPath e).toNat
    | _, _, _, some (w, q), _ =>
      (match q with
       | 0x00 => Tbl.get 0 f.winA w
       | 0x08 => Tbl.get 0 f.winS w
       | 0x10 => Tbl.get 0 f.winR w
       | _ => 0).toNat
    | _, _, _, _, some (g, q) => grpReg s g q
    | _, _, _, _, _ => 0

/-- Stack-engine block of stack st (Table 8.10); the time of commands that run now counts. -/
def seReg (s : State) (st o : Nat) : Nat :=
  let y := seOf s st
  match o with
  | 0x00 => st
  | 0x08 => y.cmdsDone.toNat
  | 0x10 => y.refused.toNat
  | 0x18 => (y.busyNs + (if runningN y = 0 then 0 else (s.time.now - y.busyFrom) / 16)).toNat
  | 0x20 => y.ce.toNat
  | 0x28 => y.ue.toNat
  | 0x30 => y.scrubInt
  | 0x38 => y.scrubPos
  | 0x40 => y.digestInt
  | 0x48 => y.regns.length
  | 0x50 => y.digestFail.toNat
  | 0x58 => y.conflicts.toNat
  | _ => 0

def counterOf (t : TrustSt) (i : Nat) : Nat :=
  match i with
  | 0 => t.fwSvn.toNat
  | 1 => t.cfgSvn.toNat
  | 2 => t.kemGen.toNat
  | _ => t.suppSeq.toNat

def keyUsed (t : TrustSt) (k : Nat) : Nat :=
  ((t.keys.filter (fun p => p.1 / 64 == k)).map (fun p => 2 ^ (p.1 % 64))).foldl (· + ·) 0

/-- Log entry 111: DESIGN CHOICE. -/
def trustBlock (s : State) (o : Nat) : Nat :=
  let t := s.trust
  match o with
  | 0x0000 => t.fail * 2 ^ 16 + b2n t.suppBad 10 + b2n t.cfgSlot 9 + b2n t.fwSlot 8 + b2n t.identOk 4 + t.phase
  | 0x0008 => t.bootMs
  | 0x0018 => t.stageAddr
  | 0x0020 => t.stageLen
  | 0x0030 => t.fwResult * 2 ^ 8 + b2n t.fwBusy 0
  | 0x0038 => (runFw t).svn % 2 ^ 32 * 2 ^ 32 + (runCfg t).version % 2 ^ 32
  | 0x0068 => sigsLeft s
  | 0x00B0 => t.loads.length
  | 0x00B8 => t.shardFails.toNat
  | _ =>
    match regIx 0x0040 8 4 o, regIx 0x0070 8 4 o, regIx 0x0090 8 4 o with
    | some (i, _), _, _ => counterOf t i
    | _, some (k, _), _ => keyUsed t k
    | _, _, some (i, _) => leNat (((sha256 (identPublic t)).drop (8 * i)).take 8)
    | _, _, _ => 0

/-- Units in a state of quarantine, in the 8 bits of FLT_UNITS. -/
def unitsIn (s : State) (q : QuarSt) : Nat := min 255 (s.units.filter (fun p => p.2.quar == q)).length

def fltBlock (s : State) (o : Nat) : Nat :=
  let f := s.flt
  match o with
  | 0x0000 => f.arm.toNat
  | 0x0008 => f.spareFail.toNat * 2 ^ 16 + f.spareUsed.toNat
  | 0x0010 => unitsIn s .retired * 2 ^ 16 + unitsIn s .stale * 2 ^ 8 + unitsIn s .quarantined
  | 0x0018 => f.beat0.toNat
  | 0x0020 => f.beat1.toNat
  | 0x0028 => f.resets1 * 2 ^ 16 + f.resets0
  | 0x0040 => f.usCe.toNat
  | 0x0048 => f.usUe.toNat
  | 0x0050 => f.parity.toNat
  | 0x0058 => f.clock.toNat
  | 0x0060 => f.notices.toNat
  | 0x0068 => f.reloads.toNat
  | _ =>
    match regIx 0x0200 8 12 o, regIx 0x0280 8 12 o, regIx 0x0400 8 256 o, regIx 0x0C00 0x20 24 o with
    | some (p, _), _, _, _ => b2n (portOf s p).altEn 63 + (portOf s p).alt.toNat
    | _, some (p, _), _, _ => (portOf s p).laneFail * 2 ^ 4 + b2n (portOf s p).spareIn 0
    | _, _, some (u, _), _ => (unitOf s u).recEpoch.toNat * 2 ^ 32 + quarCode (unitOf s u).quar
    | _, _, _, some (st, q) =>
      let y := seOf s st
      (match q with
       | 0x00 => y.hbmCe.toNat
       | 0x08 => y.hbmUe.toNat
       | 0x10 => y.rowsSpared % 2 ^ 16 * 2 ^ 32 + y.bankSpares.length * 2 ^ 16 + y.pcSpares.length
       | _ => 0)
    | _, _, _, _ => 0

/-- The offset from upstream, signed and saturating (Table 18.8). -/
def offsField (o : Int) : Nat := (BitVec.ofInt 32 (max (-(2 ^ 31)) (min (2 ^ 31 - 1) o))).toNat

/-- Log entry 111: DESIGN CHOICE. -/
def timeBlock (s : State) (o : Nat) : Nat :=
  let t := s.time
  let p := s.pwr
  match o with
  | 0x0000 => t.now.toNat
  | 0x0008 => t.upPorts.toNat * 2 ^ 16 + b2n t.ppsOutEn 4 + t.src * 2 ^ 2 + b2n t.root 0
  | 0x0018 => (upstream s).getD 0 * 2 ^ 20 + stratum s * 2 ^ 8 + discCode t.disc
  | 0x0020 => t.ppb.toNat * 2 ^ 32 + offsField t.offs
  | 0x0028 => b2n t.eRole 4 + b2n t.eBusy 3 + b2n t.eBack 2 + b2n t.eRef 1 + b2n t.ePps 0
  | 0x0100 => pwrCode p.st
  | 0x0108 => p.srIdle
  | 0x0110 => p.v12w
  | 0x0118 => p.energy.toNat
  | 0x0120 => b2n p.tripped 15 + p.tripStack * 2 ^ 5 + p.tripDie
  | 0x0240 => ((p.islands.filter (fun i => decide (i < 64))).map (2 ^ ·)).foldl (· + ·) 0
  | 0x0248 => (p.gated.map (2 ^ ·)).foldl (· + ·) 0
  | 0x0250 => p.starts.toNat
  | 0x0300 => p.tC * 2 ^ 16 + p.level
  | 0x0308 => p.tripDieC * 2 ^ 8 + p.tripStackC
  | _ =>
    match regIx 0x0200 8 8 o, regIx 0x0400 8 10 o with
    | some (d, _), _ => armedLevelOf s d * 2 ^ 4 + cmdLevelOf s d * 2 ^ 2 + appliedLevel s d
    | _, some (d, _) => Tbl.get 0 p.dieMax d % 256 * 2 ^ 8 + Tbl.get 0 p.dieTemp d % 256
    | _, _ => 0

/-- The blocks of Table 15.7, 1 MiB apart: the 64-bit register at an offset from 0x6000_0000_0000. -/
def devReg (s : State) (o : Nat) : Nat :=
  let q := o % 0x100000
  match o / 0x100000 with
  | 0 => hostReg s q
  | 1 => turnBlock s q
  | 2 => servBlock s q
  | 3 => fabBlock s q
  | 4 => if q < 0x1800 then seReg s (q / 0x100) (q % 0x100) else 0
  | 5 => trustBlock s q
  | 6 => fltBlock s q
  | 7 => timeBlock s q
  | _ => 0

/-- Device registers and control windows. -/
def isReg (a : Nat) : Bool := (decide (regWin ≤ a) && decide (a < regWin + 0x800000)) || isScWin a

/-- The register at a device address, a multiple of 8. -/
def regRead (s : State) (a : Nat) : W64 :=
  if isScWin a then scReg s ((a - scWin) / 0x10000) ((a - scWin) % 0x10000) else BitVec.ofNat 64 (devReg s (a - regWin))

/-! ## Writes to registers with no behaviour of their own -/

/-- A write-1-to-clear bit. (Log entry 70: DESIGN CHOICE.) -/
def w1c (old : Bool) (v : W64) (i : Nat) : Bool := old && !(bit v i)

/-- A base register keeps bits [47:12]. (Log entry 70: DESIGN CHOICE.) -/
def base12 (v : W64) : Nat := fld v 47 12 * 4096

/-- A field that ignores 0. -/
def not0 (old n : Nat) : Nat := if n = 0 then old else n

/-- A count of at most 4,096; a value above leaves the field as it is. (Log entry 50: DESIGN CHOICE.) -/
def upTo4096 (old n : Nat) : Nat := if n ≤ 4096 then n else old

def writeRingReg (s : State) (r o : Nat) (v : W64) : State :=
  let x := ringOf s r
  match o with
  | 0x00 => if x.en then s else setRing s r { x with base := base12 v }
  | 0x08 => if x.en then s else setRing s r { x with resBase := base12 v }
  | 0x38 => setRing s r { x with errHead := w1c x.errHead v 3, errDis := w1c x.errDis v 2, errBase := w1c x.errBase v 1, errDb := w1c x.errDb v 0 }
  | _ => s

def writeHostReg (s : State) (o : Nat) (v : W64) : State :=
  match o with
  | 0x0020 => updHost s (fun h => { h with poisonRx := w1c h.poisonRx v 2, moduleLost := w1c h.moduleLost v 1, linkLoss := w1c h.linkLoss v 0 })
  | 0x0028 => updHost s (fun h => { h with aper := BitVec.ofNat 12 (fld v 11 0) })
  | 0x0100 => if s.host.evqEn then s else updHost s (fun h => { h with evqBase := base12 v })
  | 0x0128 => updHost s (fun h => { h with evqMod := fld v 31 16, evqIntEn := bit v 6, evqVec := fld v 5 0 })
  | _ =>
    match regIx 0x1000 0x40 16 o with
    | some (r, p) => writeRingReg s r p v
    | none => s

/-- The turn registers of a partition; ignored while its turn is Emitting, Gathering or Held (R460). (Log entry 50: DESIGN CHOICE.) -/
def writeTurnReg (s : State) (p o : Nat) (v : W64) : State :=
  if turnArmed (turnOf s p) then s
  else match o with
    | 0x10 => updTurn s p (fun t => { t with tgtEpoch := BitVec.ofNat 16 (fld v 47 32), tgtSlot := fld v 13 8, tgtSet := fld v 7 0 })
    | 0x18 => updTurn s p (fun t => { t with emitExp := fld v 31 0 })
    | 0x28 => updTurn s p (fun t => { t with planAddr := fld v 47 0 })
    | 0x30 => updTurn s p (fun t => { t with planN := upTo4096 t.planN (fld v 12 0) })
    | 0x38 => updTurn s p (fun t => { t with rxExp := upTo4096 t.rxExp (fld v 12 0) })
    | _ => s

def writeFabReg (s : State) (o : Nat) (v : W64) : State :=
  match o with
  | 0x0018 => updFab s (fun f => { f with hopBudget := not0 f.hopBudget (fld v 7 0) })
  | 0x0020 => updFab s (fun f => { f with collTmo := not0 f.collTmo (fld v 31 0) })
  | 0x0028 => updFab s (fun f => { f with trunkErr := w1c f.trunkErr v 1, winErr := w1c f.winErr v 0 })
  | _ =>
    match regIx 0x0100 8 12 o with
    | some (t, _) => updFab s (fun f => { f with trunk := Tbl.set 0 f.trunk t (BitVec.ofNat 12 (fld v 11 0)) })
    | none => s

def writeSeReg (s : State) (st o : Nat) (v : W64) : State :=
  match o with
  | 0x30 => updSe s st (fun y => { y with scrubInt := not0 y.scrubInt (fld v 15 0) })
  | 0x40 => updSe s st (fun y => { y with digestInt := fld v 15 0 })
  | _ => s

def writeTrustReg (s : State) (o : Nat) (v : W64) : State :=
  match o with
  | 0x0018 => updTrust s (fun t => { t with stageAddr := base12 v })
  | 0x0020 => updTrust s (fun t => { t with stageLen := fld v 23 0 })
  | _ => s

def writeFltReg (s : State) (o : Nat) (v : W64) : State :=
  match regIx 0x0200 8 12 o with
  | some (p, _) => updPort s p (fun x => { x with altEn := bit v 63, alt := BitVec.ofNat 12 (fld v 11 0) })
  | none => s

/-- A field of write-1-to-clear bits. -/
def w1cField (n old v : Nat) : Nat := (BitVec.ofNat n old &&& ~~~(BitVec.ofNat n v)).toNat

def writeTimeReg (s : State) (o : Nat) (v : W64) : State :=
  match o with
  | 0x0028 => { s with time := { s.time with
      eRole := w1c s.time.eRole v 4, eBusy := w1c s.time.eBusy v 3, eBack := w1c s.time.eBack v 2, eRef := w1c s.time.eRef v 1
      ePps := w1c s.time.ePps v 0 } }
  | 0x0108 => updPwr s (fun p => { p with srIdle := not0 p.srIdle (fld v 15 0) })
  | 0x0120 => updPwr s (fun p => { p with
      tripped := w1c p.tripped v 15, tripStack := w1cField 5 p.tripStack (fld v 9 5), tripDie := w1cField 5 p.tripDie (fld v 4 0) })
  | _ => s

/-- Table 7.3 and Table 7.4: SC_CTL and SC_SCRUB_INT. -/
def writeScReg (s : State) (r o : Nat) (v : W64) : State :=
  match o with
  | 0x1000 => updSc s r (fun x => { x with rsvErr := w1c x.rsvErr v 4, allocEn := bit v 0 })
  | 0x1020 => updSc s r (fun x => { x with scrubInt := not0 x.scrubInt (fld v 15 0) })
  | _ => s

/-- The whole register at a device address is written; reserved bits are ignored, and so are registers that only read and those that have a
row of their own. -/
def plainWrite (s : State) (a : Nat) (v : W64) : State :=
  if isScWin a then writeScReg s ((a - scWin) / 0x10000) ((a - scWin) % 0x10000) v
  else if a < regWin then s
  else
    let o := a - regWin
    let q := o % 0x100000
    match o / 0x100000 with
    | 0 => writeHostReg s q v
    | 1 => (match regIx 0x0200 0x80 64 q with
      | some (p, r) => writeTurnReg s p r v
      | none => s)
    | 2 => if q = 0x30000 then { s with dlmEn := bit v 0 } else s
    | 3 => writeFabReg s q v
    | 4 => if q < 0x1800 then writeSeReg s (q / 0x100) (q % 0x100) v else s
    | 5 => writeTrustReg s q v
    | 6 => writeFltReg s q v
    | 7 => writeTimeReg s q v
    | _ => s

def execRegisterWrite (a : Nat) (v : W64) (s : State) : Out := .next (plainWrite s a v)

/-! ## Writes that have rows -/

/-- What the row of a register does, by device address; none where the register has no row. (Log entry 70: DESIGN CHOICE.) -/
def rowWrite (s : State) (a : Nat) (v : W64) : Option Out :=
  if isScWin a then
    let r := (a - scWin) / 0x10000
    let o := (a - scWin) % 0x10000
    if o = 0x1008 then some (if bit v 0 && !(scOf s r).busy then execScFlush r s else .next s)
    else if o = 0x1018 || (decide (0x1100 ≤ o) && decide (o < 0x1300)) then some (execScWayRsv r o v s)
    else none
  else
    match a - regWin with
    | 0x000108 => some (execEvqCtl v s)
    | 0x000110 => some (execEvqHead v s)
    | 0x000200 => some (execRefThr v s)
    | 0x300000 => some (execDevId v s)
    | 0x300008 => some (execRouteCtl v s)
    | 0x500010 => some (if bit v 0 then execBootCtlRestart s else .next s)
    | 0x500028 => some (if bit v 2 then execFwCtlCommit s else if bit v 0 then execFwCtlWrite (bit v 1) s else .next s)
    | 0x500060 => some (if bit v 0 then execKemCtlNext s else .next s)
    | 0x600000 => some (execFltArm v s)
    | 0x700008 => some (execTimeCtl v s)
    | 0x700010 => some (execTimeSet v s)
    | 0x700300 => some (execThArm v s)
    | 0x700308 => some (execThTrip v s)
    | o =>
      match regIx 0x001000 0x40 16 o, regIx 0x100200 0x80 64 o, regIx 0x300200 0x40 12 o, regIx 0x301000 0x10 256 o, regIx 0x302000 0x20 64 o with
      | some (r, q), _, _, _, _ =>
        if q = 0x10 then some (execSqrCtl r v s) else if q = 0x18 then some (execSqrDb r v s)
        else if q = 0x28 then some (execResHead r v s) else none
      | _, some (p, q), _, _, _ => if q = 0 then some (execTurnArm p v s) else none
      | _, _, some (p, q), _, _ => if q = 0 then some (execPortCtl p v s) else none
      | _, _, _, some (e, q), _ => some (execRtRange e (q != 0) v s)
      | _, _, _, _, some (w, q) => if q < 0x18 then some (execRxWin w (q / 8) v s) else none
      | _, _, _, _, _ => none

/-- A 64-bit write to the register at a device address. -/
def regWrite (s : State) (a : Nat) (v : W64) : State :=
  match rowWrite s a v with
  | some o => after o s
  | none => plainWrite s a v

/-! ## The host's accesses (R561, R606) -/

/-- Bits of a register that a narrower write leaves alone as zeros, being write-1-to-clear. (Log entry 70: DESIGN CHOICE.) -/
def clearMask (a : Nat) : Nat :=
  if isScWin a then (if (a - scWin) % 0x10000 = 0x1000 then 0x10 else 0)
  else match a - regWin with
    | 0x000020 => 0x7
    | 0x000108 => 0x6
    | 0x300008 => 0x4
    | 0x300028 => 0x3
    | 0x700028 => 0x1F
    | 0x700120 => 0x83FF
    | o => match regIx 0x001038 0x40 16 o with
      | some (_, 0) => 0xF
      | _ => 0

/-- The start-up phase lets the host reach a register (Table 16.9, R606). (Log entry 69: DEDUCED.) -/
def served (s : State) (a : Nat) : Bool :=
  match s.trust.phase with
  | 5 => true
  | 2 => a == regWin + 0x500000
  | 3 => a == regWin + 0x500000
  | 4 => a == regWin + 0x500000
  | 6 => [0x500000, 0x500010, 0x500018, 0x500020, 0x500028, 0x500030].contains (a - regWin)
  | 7 => a == regWin + 0x500000
  | _ => false

/-- Register pieces of an access: the register's address, the first byte in it, the bytes. -/
def regPieces (a n : Nat) : List (Nat × Nat) := cutRange 8 (n / 8 + 2) a n

def readRegs (s : State) (a n : Nat) : List Byte :=
  (regPieces a n).flatMap (fun p =>
    ((leBytes 8 (if served s (p.1 / 8 * 8) then (regRead s (p.1 / 8 * 8)).toNat else 0)).drop (p.1 % 8)).take p.2)

/-- One piece of a write: a whole register, or a part of one with the rest as it reads. (Log entry 70: DESIGN CHOICE.) -/
def writeRegPiece (s : State) (a : Nat) (bs : List Byte) : State :=
  let r := a / 8 * 8
  if !(served s r) then s
  else
    let old := leBytes 8 (regRead s r &&& ~~~(BitVec.ofNat 64 (clearMask r))).toNat
    regWrite s r (BitVec.ofNat 64 (leNat (spliceBytes old (a % 8) bs)))

def writeRegs (s : State) (a : Nat) (bs : List Byte) : State :=
  (cutGran 8 (bs.length / 8 + 2) a bs).foldl (fun s p => writeRegPiece s p.1 p.2) s

/-- The device address that a BAR reaches (R561); none outside the BAR. -/
def barAddr (s : State) (bar off n : Nat) : Option Nat :=
  if bar = 0 then (if off + n ≤ 2 ^ 28 then some (regWin + off) else none)
  else if bar = 2 then (if off + n ≤ 2 ^ 36 then some (s.host.aper.toNat * 2 ^ 36 + off) else none)
  else none

/-- Every byte of [a, a + n) lies in the lower half of one unit's window, off every resident's tile save area (R45, R46). -/
def usReach (s : State) (a n : Nat) : Bool :=
  isUs a && isUs (a + n - 1) && (cutRange 0x1000000 (n / 0x1000000 + 2) (a - usWin) n).all (fun p =>
    decide (p.1 % 0x1000000 + p.2 ≤ 0x800000) && offSave s (p.1 / 0x1000000) (p.1 % 0x1000000) (p.1 % 0x1000000 + p.2))

/-- The host reaches HBM, unit stores and registers; every other address is unbacked for it (Table 7.1, R269). (Log entry 69: DEDUCED.) -/
def backed (s : State) (a n : Nat) : Bool :=
  (isHbm a && isHbm (a + n - 1)) || usReach s a n || (isReg a && isReg (a + n - 1))

/-- An access to memory that has to wait: a stack, a region or a package asleep. (Log entry 69: DEDUCED.) -/
def barWaits (s : State) (a n : Nat) : Bool :=
  !(isReg a) && (!(powered s) || addrWaits s a || addrWaits s (a + n - 1) || (cutRange 128 (n / 128 + 2) a n).any (fun p => addrWaits s p.1))

def readDone (s : State) (bs : List Byte) (poison : Bool) : State := updHost s (fun h => { h with barRead := { data := bs, poison := poison } })

/-- Log entry 69: DEDUCED. -/
def unbacked (s : State) (a n : Nat) (write : Bool) : State :=
  let s1 := raiseEv s 0x0201 clsWarning (if write then 1 else 0) a
  if write then s1 else readDone s1 (List.replicate n 0xFF) false

/-- Log entry 69: DEDUCED. -/
def barAccess (s : State) (a : Nat) (write : Bool) (n : Nat) (data : List Byte) : State :=
  if !(backed s a n) then unbacked s a n write
  else if isReg a then (if write then writeRegs s a (data.take n) else readDone s (readRegs s a n) false)
  else if barWaits s a n then s
  else if write then (devWrite s a (data.take n) 0 none).1
  else
    let r := devRead s a n 0 none
    readDone r.1 r.2.1 r.2.2

/-- Memory is reached in Ready only; before it, and in Recovery and Failed, the registers of `served`. -/
def execHostBarAccess (bar off : Nat) (write : Bool) (size : Nat) (data : List Byte) (s : State) : Out :=
  .next (match barAddr s bar off size with
    | none => s
    | some a =>
      if !(linkUp s) || size = 0 || (s.trust.phase != 5 && !(isReg a)) then s else barAccess s a write size data)

end Sys2Proof.Machine
end

