-- ==== Sys2Proof/Machine/Scalar.lean ====
section
/-!
DEFINITION. Sys2Proof/Machine/Scalar.lean: the scalar classes 0x0 to 0x3 (R236 to R242, Tables 6.4 to 6.7). A meaning carries out the
instruction that INSTRUCTION_FETCH left in the sequencer when it is one of its row's, and no register it names is pending (R234).
-/

namespace Sys2Proof.Machine

/-- The sequencer's instruction of hart h, when it is of class `cls` with an OP that `ok` accepts and no register of it is pending. -/
def withIr (s : State) (h cls : Nat) (ok : Nat → Bool) (f : Hart → Core → Ctx → W64 → State) : State :=
  withRun s h fun t k x =>
    match k.ir with
    | none => s
    | some w => if iClass w == cls && ok (iOp w) && k.wait == .none && !(seqHeld k w) then f t k x w else s

/-- An instruction whose whole effect is on the core. -/
def scalar (s : State) (h cls : Nat) (ok : Nat → Bool) (f : Core → W64 → Core) : State :=
  withIr s h cls ok fun t k _ w => setHartCore s t (retire (f k w))

def inRange (lo hi : Nat) (op : Nat) : Bool := decide (lo ≤ op) && decide (op ≤ hi)

def b64 (b : Bool) : W64 := if b then 1 else 0

/-- The two-operand functions of Table 6.4 by OP. -/
def alu2 (op : Nat) (a b : W64) : W64 :=
  match op with
  | 0x00 => a + b
  | 0x01 => a - b
  | 0x02 => a &&& b
  | 0x03 => a ||| b
  | 0x04 => a ^^^ b
  | _ => a &&& ~~~b

/-- Shifts by the low 6 bits (R236). -/
def aluShift (op : Nat) (a : W64) (n : Nat) : W64 :=
  let k := n % 64
  match op with
  | 0x06 => a <<< k
  | 0x07 => a >>> k
  | _ => a.sshiftRight k

def aluMul (op : Nat) (a b : W64) : W64 :=
  match op with
  | 0x09 => a * b
  | 0x0A => w64 (a.toInt * b.toInt / 2 ^ 64)
  | _ => BitVec.ofNat 64 (a.toNat * b.toNat / 2 ^ 64)

/-- R237: quotient toward zero, remainder with the sign of the dividend, and the results of division by zero. -/
def aluDiv (op : Nat) (a b : W64) : W64 :=
  match op with
  | 0x0C => if b = 0 then -1 else w64 (a.toInt.tdiv b.toInt)
  | 0x0D => if b = 0 then -1 else BitVec.ofNat 64 (a.toNat / b.toNat)
  | 0x0E => if b = 0 then a else w64 (a.toInt.tmod b.toInt)
  | _ => if b = 0 then a else BitVec.ofNat 64 (a.toNat % b.toNat)

def aluMin (op : Nat) (a b : W64) : W64 :=
  match op with
  | 0x10 => if b.slt a then b else a
  | 0x11 => if a.slt b then b else a
  | 0x12 => if b.ult a then b else a
  | _ => if a.ult b then b else a

def aluSlt (op : Nat) (a b : W64) : W64 := b64 (if op = 0x14 then a.slt b else a.ult b)

/-- Counts of 64 bits: leading zeros, trailing zeros (64 for zero), set bits. -/
def clz64 (a : W64) : Nat := if a = 0 then 64 else 63 - Nat.log2 a.toNat
def ctzAux : Nat → Nat → Nat → Nat
  | 0, _, k => k
  | fuel + 1, x, k => if x % 2 = 1 then k else ctzAux fuel (x / 2) (k + 1)
def ctz64 (a : W64) : Nat := ctzAux 64 a.toNat 0
def aluClz (op : Nat) (a : W64) : W64 :=
  BitVec.ofNat 64 (match op with
    | 0x18 => clz64 a
    | 0x19 => ctz64 a
    | _ => popcount 64 a.toNat)

/-- The comparisons of OP 0x20 to 0x25. -/
def aluCmp (op : Nat) (a b : W64) : Bool :=
  match op with
  | 0x20 => a == b
  | 0x21 => a != b
  | 0x22 => a.slt b
  | 0x23 => a.ult b
  | 0x24 => !(b.slt a)
  | _ => !(b.ult a)

def predOp (op : Nat) (a b : Bool) : Bool :=
  match op with
  | 0x28 => a && b
  | 0x29 => a || b
  | 0x2A => a != b
  | _ => a && !b

/-- A predicate destination or source in a register field (R235): its low three bits. -/
def pFld (x : Nat) : Nat := x % 8

/-- p7 to p0 as a number; bit 0 is 1. -/
def predByte (k : Core) : W64 := BitVec.ofNat 64 (k.p.toNat / 2 * 2 + 1)

/-- p1 to p7 from bits [7:1] of a value. -/
def predPut (k : Core) (v : W64) : Core := { k with p := BitVec.ofNat 8 (v.toNat / 2 * 2) }

def gA (k : Core) (w : W64) : W64 := gGet k (iGA w)
def gB (k : Core) (w : W64) : W64 := gGet k (iGB w)
/-- IMM sign-extended (R238). -/
def immS (w : W64) : W64 := sext 32 (iImm32 w)
/-- IMM zero-extended (R238). -/
def immZ (w : W64) : W64 := BitVec.ofNat 64 (iImm32 w)

/-! ## Class 0x0 (Table 6.4) -/

def execAdd (h : Nat) (s : State) : Out :=
  .next (scalar s h 0 (inRange 0 5) fun k w => gSet k (iGD w) (alu2 (iOp w) (gA k w) (gB k w)))

def execShift (h : Nat) (s : State) : Out :=
  .next (scalar s h 0 (inRange 6 8) fun k w => gSet k (iGD w) (aluShift (iOp w) (gA k w) (gB k w).toNat))

def execMul (h : Nat) (s : State) : Out :=
  .next (scalar s h 0 (inRange 9 0xB) fun k w => gSet k (iGD w) (aluMul (iOp w) (gA k w) (gB k w)))

def execDiv (h : Nat) (s : State) : Out :=
  .next (scalar s h 0 (inRange 0xC 0xF) fun k w => gSet k (iGD w) (aluDiv (iOp w) (gA k w) (gB k w)))

def execMin (h : Nat) (s : State) : Out :=
  .next (scalar s h 0 (inRange 0x10 0x13) fun k w => gSet k (iGD w) (aluMin (iOp w) (gA k w) (gB k w)))

def execSlt (h : Nat) (s : State) : Out :=
  .next (scalar s h 0 (inRange 0x14 0x15) fun k w => gSet k (iGD w) (aluSlt (iOp w) (gA k w) (gB k w)))

def execSel (h : Nat) (s : State) : Out :=
  .next (scalar s h 0 (inRange 0x16 0x16) fun k w => gSet k (iGD w) (if pGet k (iPS w) then gA k w else gB k w))

def execClz (h : Nat) (s : State) : Out :=
  .next (scalar s h 0 (inRange 0x18 0x1A) fun k w => gSet k (iGD w) (aluClz (iOp w) (gA k w)))

def execPCmp (h : Nat) (s : State) : Out :=
  .next (scalar s h 0 (inRange 0x20 0x25) fun k w => pSet k (pFld (iGD w)) (aluCmp (iOp w) (gA k w) (gB k w)))

def execPAnd (h : Nat) (s : State) : Out :=
  .next (scalar s h 0 (inRange 0x28 0x2B) fun k w =>
    pSet k (pFld (iGD w)) (predOp (iOp w) (pGet k (pFld (iGA w))) (pGet k (pFld (iGB w)))))

def execPGet (h : Nat) (s : State) : Out :=
  .next (scalar s h 0 (inRange 0x2C 0x2C) fun k w => gSet k (iGD w) (predByte k))

def execPPut (h : Nat) (s : State) : Out :=
  .next (scalar s h 0 (inRange 0x2D 0x2D) fun k w => predPut k (gA k w))

/-! ## Class 0x1 (Table 6.5) -/

def execAddi (h : Nat) (s : State) : Out :=
  .next (scalar s h 1 (fun op => op == 0 || inRange 2 4 op) fun k w =>
    gSet k (iGD w) (alu2 (iOp w) (gA k w) (if iOp w = 0 then immS w else immZ w)))

def execShli (h : Nat) (s : State) : Out :=
  .next (scalar s h 1 (inRange 6 8) fun k w => gSet k (iGD w) (aluShift (iOp w) (gA k w) (iImm32 w)))

def execMuli (h : Nat) (s : State) : Out :=
  .next (scalar s h 1 (inRange 9 9) fun k w => gSet k (iGD w) (gA k w * immS w))

def execSlti (h : Nat) (s : State) : Out :=
  .next (scalar s h 1 (inRange 0x14 0x15) fun k w => gSet k (iGD w) (aluSlt (iOp w) (gA k w) (immS w)))

def execPCmpi (h : Nat) (s : State) : Out :=
  .next (scalar s h 1 (inRange 0x20 0x25) fun k w => pSet k (pFld (iGD w)) (aluCmp (iOp w) (gA k w) (immS w)))

def execLi (h : Nat) (s : State) : Out :=
  .next (scalar s h 1 (inRange 0x30 0x30) fun k w => gSet k (iGD w) (immS w))

def execLiHi (h : Nat) (s : State) : Out :=
  .next (scalar s h 1 (inRange 0x31 0x31) fun k w =>
    gSet k (iGD w) (BitVec.ofNat 64 (iImm32 w * 2 ^ 32 + (gA k w).toNat % 2 ^ 32)))

/-! ## Class 0x2 (Table 6.6) -/

/-- R239: the branch's own PC + DISP × 8. -/
def brTarget (k : Core) (w : W64) : Addr := k.pc + BitVec.ofInt 48 (sgn 32 (iImm32 w) * 8)

/-- The sequencer goes on at a target. -/
def jump (k : Core) (a : Addr) : Core := { k with pc := a, ir := none }

/-- PC + 8 as a register value. -/
def linkVal (k : Core) : W64 := (k.pc + 8).setWidth 64

def execBr (h : Nat) (s : State) : Out :=
  .next (withIr s h 2 (inRange 0 0) fun t k _ w => setHartCore s t (jump k (brTarget k w)))

def execBrCall (h : Nat) (s : State) : Out :=
  .next (withIr s h 2 (inRange 1 1) fun t k _ w => setHartCore s t (jump (gSet k (iGD w) (linkVal k)) (brTarget k w)))

/-- Log entry 12: DEDUCED. -/
def execBrInd (h : Nat) (s : State) : Out :=
  .next (withIr s h 2 (inRange 2 2) fun t k _ w =>
    if (gA k w).toNat % 8 = 0 then setHartCore s t (jump k ((gA k w).setWidth 48)) else faultAt s t fIllegal k.pc)

/-- Log entry 12: DEDUCED. -/
def execBrCallInd (h : Nat) (s : State) : Out :=
  .next (withIr s h 2 (inRange 3 3) fun t k _ w =>
    if (gA k w).toNat % 8 = 0 then setHartCore s t (jump (gSet k (iGD w) (linkVal k)) ((gA k w).setWidth 48))
    else faultAt s t fIllegal k.pc)

def execBrDec (h : Nat) (s : State) : Out :=
  .next (withIr s h 2 (inRange 4 4) fun t k _ w =>
    let k1 := gSet k (iGA w) (gA k w - 1)
    setHartCore s t (if gGet k1 (iGA w) = 0 then retire k1 else jump k1 (brTarget k w)))

/-! ## Class 0x3 (Table 6.7, R188, R242) -/

/-- Access size by the low two bits of OP, and the address ga + IMM. -/
def lsSize (w : W64) : Nat := 2 ^ (iOp w % 4)
def lsAddr (k : Core) (w : W64) : W64 := gA k w + immS w

/-- Aligned to its own size and within the share. -/
def lsOk (s : State) (t : Hart) (k : Core) (x : Ctx) (w : W64) : Bool :=
  (lsAddr k w).toNat % lsSize w == 0 && inLocal (localSize s t x) (lsAddr k w) (lsSize w)

def execLd (h : Nat) (s : State) : Out :=
  .next (withIr s h 3 (inRange 0 6) fun t k x w =>
    let n := lsSize w
    if lsOk s t k x w then
      let a := localAddr s t x (lsAddr k w).toNat
      if rawPoison s a n then faultAt s t fPoison k.pc
      else
        let v := leNat (memBytes s a n)
        setHartCore s t (retire (gSet k (iGD w) (if iOp w ≤ 3 then sext (8 * n) v else BitVec.ofNat 64 v)))
    else faultAt s t fExtent k.pc)

def execSt (h : Nat) (s : State) : Out :=
  .next (withIr s h 3 (inRange 8 0xB) fun t k x w =>
    let n := lsSize w
    if lsOk s t k x w then
      let r := rawWrite s (localAddr s t x (lsAddr k w).toNat) (leBytes n (gB k w).toNat)
      if r.2 then faultAt r.1 t fPoison k.pc else setHartCore r.1 t (retire k)
    else faultAt s t fExtent k.pc)

end Sys2Proof.Machine
end

