-- ==== Sys2Proof/Machine/Sync.lean ====
section
/-!
DEFINITION. Sys2Proof/Machine/Sync.lean: classes 0x9 and 0xC: waits and marks (R193 to R196), sleeping (R399 to R403), signals (R404 to
R409), barriers (R411 to R416), counters (R419), and the system and context instructions (R264 to R267, R225, R170).
-/

namespace Sys2Proof.Machine

/-! ## Marks and waits -/

def execSyWait (h : Nat) (s : State) : Out :=
  .next (withIr s h 9 (inRange 0 0) fun t k _ w =>
    let aw := liveOf k (iImm16 w % 2 ^ 14)
    setHartCore s t { retire k with wait := if aw.isEmpty then .none else .queues aw })

/-- The sequencer instruction w places an entry in queue q, or stalls while it is full (R190, R232). (Log entry 119: DESIGN CHOICE.) -/
def placeEntry (s : State) (t : Hart) (k : Core) (w : W64) (q : Nat) (mark : Bool) (aw : List Nat) : State :=
  if queueFull k q then s
  else setHartCore s t (retire (dispatch k q w [] 0 mark aw))

/-- A mark that awaits nothing is a no-operation (R195); one that names its own queue adds nothing to the queue's order there. -/
def execSyMark (h : Nat) (s : State) : Out :=
  .next (withIr s h 9 (inRange 1 1) fun t k _ w =>
    let q := iQ w
    let m := iImm16 w % 2 ^ 14
    if iImm16 w = 0 then setHartCore s t (retire k)
    else placeEntry s t k w q true (liveOf k (if m.testBit q then m - 2 ^ q else m)))

/-- The first mark of a queue whose awaited entries are all complete (R193, R196). -/
def freeMark (k : Core) (q : Nat) : Option QEnt :=
  (queueEnts k q).find? (fun e => e.mark && e.awaits.all (fun n => k.live.all (fun p => p.1 != n)))

def execMarkRelease (h q : Nat) (s : State) : Out :=
  .next (withRun s h fun t k _ =>
    match freeMark k q with
    | none => s
    | some e => setHartCore s t (doneEnt (dropEnt k q e.seq) e.seq))

def execWaitResume (h : Nat) (s : State) : Out :=
  .next (withRun s h fun t k _ =>
    match k.wait with
    | .queues aw =>
      if aw.any (fun n => k.live.any (fun p => p.1 == n)) then s else setHartCore s t { k with wait := .none }
    | _ => s)

/-! ## Sleep -/

/-- Deadline of a timeout of µs, in fabric time (R403). -/
def deadline (s : State) (us : Nat) : W64 := s.time.now + BitVec.ofNat 64 (us * 16000)

/-- A sleep whose serial comparison is within 2^30 of ambiguity raises the warning of R664. -/
def sleepWarn (s : State) (u c : Nat) (x : Ctx) (v : W64) : State :=
  match resOf s u c with
  | none => s
  | some r =>
    let d := subMod 32 (cValue v) (condSource s u x r v)
    if decide (cSrc v ≤ 1) && cCmp v == 0 && decide (2 ^ 30 ≤ d) && decide (d < 2 ^ 31) then
      raiseEv s 0x0A01 clsWarning 3 (c * 2 ^ 8 + u)
    else s

/-- Log entry 14: DEDUCED. -/
def execSySleep (h : Nat) (s : State) : Out :=
  .next (withIr s h 9 (inRange 2 2) fun t k x w =>
    let v := gA k w
    match t with
    | .inst _ _ => s
    | .res u c =>
      if !(condOk v) then faultAt s t fIllegal k.pc
      else if !(watchOk x v) then faultAt s t fExtent k.pc
      else
        let s1 := sleepWarn (setHartCore s t { retire k with wait := .sleep (iGD w) v (deadline s (cTimeout v)) }) u c x v
        let s2 := evalWait s1 u c false false
        if ((resOf s2 u c).map (·.core.wait)) == some .none || !(live s2 c) then s2 else afterWait s2 t x)

/-! ## Signals -/

def execSySig (h : Nat) (s : State) : Out :=
  .next (withIr s h 9 (inRange 3 3) fun t k _ w =>
    let s1 := setHartCore s t (retire k)
    { s1 with signals := s1.signals ++ [{ stop := unitStop s (hartUnit s t), fromU := hartUnit s t, fromC := hartCtx s t, op := fld w 1 0,
                                          value := (gB k w).setWidth 32, target := sigTarget ((gA k w).setWidth 32) }] })

/-- The word after a signal (R407). -/
def sigApply (op : Nat) (old v : W32) : W32 := if op = 0 then v else if op = 1 then old ||| v else old + v


/-- The target context is resident on the named unit and of the sender's partition (R406). -/
def sigReaches (s : State) (g : Signal) : Bool :=
  (resOf s (tgLun g.target) (tgCtx g.target)).isSome && (ctxPart s g.fromC).isSome
  && ctxPart s (tgCtx g.target) == ctxPart s g.fromC

/-- Applies or discards one signal. -/
def deliverSig (s : State) (g : Signal) : State :=
  if sigReaches s g then
    updRes s (tgLun g.target) (tgCtx g.target) (fun r =>
      { r with sig := Tbl.set 0 r.sig (tgWord g.target) (sigApply g.op (Tbl.get 0 r.sig (tgWord g.target)) g.value) })
  else raiseEv s 0x0105 clsWarning (argC g.fromC + argL g.fromU) g.target.toNat

/-- The k-th signal on its way is delivered, unless an earlier one goes from its stop to the same stop (R60, R409). -/
def execSignalDeliver (k : Nat) (s : State) : Out :=
  .next (match s.signals[k]? with
    | none => s
    | some g =>
      if (s.signals.take k).any (sameWay s g) then s
      else deliverSig { s with signals := s.signals.eraseIdx k } g)

def execSySigrd (h : Nat) (s : State) : Out :=
  .next (withIr s h 9 (inRange 4 4) fun t k _ w =>
    match t with
    | .inst _ _ => s
    | .res u c =>
      match resOf s u c with
      | none => s
      | some r =>
        let i := iImm16 w % 16
        setRes s u c { r with sig := Tbl.set 0 r.sig i 0, core := retire (gSet k (iGD w) ((Tbl.get 0 r.sig i).setWidth 64)) })

/-! ## Barriers -/

/-- The participants of context x's barrier at a level, seen from unit u (R411). -/
def participants (x : Ctx) (level u : Nat) : List Nat :=
  x.units.filter (fun v => if level = 0 then clusterOf v == clusterOf u else if level = 1 then regionOf v == regionOf u else true)

def hasArrived (s : State) (c level u : Nat) : Bool := (resOf s u c).any (fun r => r.arrived.contains level)

/-- Arrives, and waits when bit [2] is set; stalls while an arrival at the level is outstanding (R412, R413). -/
def execSyBar (h : Nat) (s : State) : Out :=
  .next (withIr s h 9 (inRange 5 5) fun t k x w =>
    match t with
    | .inst _ _ => s
    | .res u c =>
      match resOf s u c with
      | none => s
      | some r =>
        let level := fld w 1 0
        if r.arrived.contains level then s
        else
          let k1 := retire k
          let k2 := if bit w 2 then { k1 with wait := .bar (iGD w) level } else k1
          let s1 := setRes s u c { r with arrived := NSet.ins r.arrived level, barDone := Tbl.del r.barDone level, core := k2 }
          if bit w 2 then afterWait s1 t x else s1)

/-- An arrival's outcome reaches a participant: 0 complete, 1 failed. (Log entry 15: DESIGN CHOICE.) -/
def barOutcome (s : State) (c level o u : Nat) : State :=
  updRes s u c (fun r =>
    if r.arrived.contains level then
      { r with arrived := r.arrived.filter (fun l => l != level), barDone := Tbl.put r.barDone level o }
    else r)

/-- A failed cluster is party to a region or package barrier (R32). -/
def barBroken (s : State) (level : Nat) (ps : List Nat) : Bool :=
  decide (1 ≤ level) && ps.any (fun v => s.flt.clkFault.contains (islandOf s v))

def execBarrierComplete (c level u : Nat) (s : State) : Out :=
  .next (match ctxOf s c with
    | none => s
    | some x =>
      let ps := participants x level u
      if !ps.isEmpty && ps.all (hasArrived s c level) && !(barBroken s level ps) then ps.foldl (fun s v => barOutcome s c level 0 v) s else s)

/-- A waiting `sy.bar` of the level takes its failure (R32, R416), which makes a Saved context Ready (R398). -/
def failWait (s : State) (c level u : Nat) : State :=
  settle (updRes s u c (fun r =>
    match r.core.wait with
    | .bar gd l =>
      if l = level ∧ Tbl.find? r.barDone level = some 1 then
        { r with barDone := Tbl.del r.barDone level, core := { gSet r.core gd 1 with wait := .none } }
      else r
    | _ => r)) u c

/-- A region or package barrier to which a failed cluster is party fails for every participant that has arrived (R32, R416). -/
def execBarrierFail (c level u : Nat) (s : State) : Out :=
  .next (match ctxOf s c with
    | none => s
    | some x =>
      let ps := participants x level u
      if barBroken s level ps then
        ps.foldl (fun s v => failWait (barOutcome s c level 1 v) c level v) s
      else s)

def execSyCtr (h : Nat) (s : State) : Out :=
  .next (withIr s h 9 (inRange 6 6) fun t k x w =>
    setHartCore s t (retire (gSet k (iGD w) ((Tbl.get 0 x.ctr (iImm16 w % 256)).setWidth 64))))

/-! ## Class 0xC -/

/-- Place of a number in an ascending list. -/
def rankIn (l : List Nat) (u : Nat) : Nat := (l.filter (fun v => decide (v < u))).length

/-- Whether the logical unit is enabled (UNIT_MAP.EN, Table 1.3). -/
def unitEn (s : State) (u : Nat) : Bool := (unitOf s u).en

/-- The shape table (Table 5.10, R339). -/
def shapeEntry (s : State) (t : Hart) (x : Ctx) (idx : Nat) : Nat :=
  match idx with
  | 0x00 => 4
  | 0x01 => 4
  | 0x02 => 2
  | 0x03 => 8
  | 0x04 => ((List.range 256).filter (unitEn s)).length
  | 0x05 => 24
  | 0x06 => 128
  | 0x07 => 12
  | 0x08 => 3
  | 0x09 => 0x0824
  | 0x10 => hartCtx s t
  | 0x11 => x.units.length
  | 0x12 => rankIn x.units (hartUnit s t)
  | 0x13 => hartUnit s t
  | 0x14 => s.fab.devId
  | 0x15 => shareSize x
  | 0x16 => ocSize x
  | _ =>
    match t with
    | .res _ _ => 0
    | .inst st i =>
      match idx with
      | 0x20 => st
      | 0x21 => (instOf s st i).idx
      | 0x22 => (instOf s st i).ninst
      | 0x23 => (instOf s st i).share
      | _ => 0

def execCxShape (h : Nat) (s : State) : Out :=
  .next (withIr s h 0xC (inRange 0 0) fun t k x w =>
    setHartCore s t (retire (gSet k (iGD w) (BitVec.ofNat 64 (shapeEntry s t x (iImm16 w % 256))))))

/-- The sequencer places the entry (eng = false); the engine carries it out at the head of VQ (eng = true) (R170, R232). (Log entry 17: DESIGN CHOICE.) -/
def execCxXln (h : Nat) (eng : Bool) (s : State) : Out :=
  .next (if eng then
      withVq s h 0xC (fun w => iOp w == 1) fun t k _ e =>
        let k1 := vqDone { k with xln := bit e.w 0 } e
        let s1 := setHartCore s t k1
        match t with
        | .res u _ => updUnit s1 u (fun x => { x with net := bit e.w 0 })
        | .inst _ _ => s1
    else withIr s h 0xC (inRange 1 1) fun t k _ w => placeEntry s t k w 3 false [])

def execCxFlags (h : Nat) (s : State) : Out :=
  .next (scalar s h 0xC (inRange 2 2) fun k w => gSet k (iGD w) (k.sticky.setWidth 64))

def execCxFlagsClr (h : Nat) (s : State) : Out :=
  .next (scalar s h 0xC (inRange 3 3) fun k w => { k with sticky := k.sticky &&& ~~~(BitVec.ofNat 32 (fld w 8 0)) })

def execCxAflag (h : Nat) (s : State) : Out :=
  .next (scalar s h 0xC (inRange 4 4) fun k w => gSet k (iGD w) ((Tbl.get 0 k.aflag (fld w 1 0)).setWidth 64))

def execCxTime (h : Nat) (s : State) : Out :=
  .next (scalar s h 0xC (inRange 5 5) fun k w => gSet k (iGD w) s.time.now)

def execCxEvent (h : Nat) (s : State) : Out :=
  .next (withIr s h 0xC (inRange 6 6) fun t k _ w =>
    raiseEv (setHartCore s t (retire k)) 0x0104 clsNotice (iImm16 w * 2 ^ 16 + hartCtx s t * 16) (gA k w).toNat)

def execCxYield (h : Nat) (s : State) : Out :=
  .next (withIr s h 0xC (inRange 7 7) fun t k _ _ =>
    let s1 := setHartCore s t (retire k)
    match t with
    | .res u c => if otherReady s u c then leaveRunning s1 u c else s1
    | .inst _ _ => s1)

/-- An instance of a stack program ends (R334): the flags it raised join its command's (R328), which reach the context at completion. (Log entry 99: DEDUCED.) -/
def endInst (y : SeSt) (i : Nat) (n : Inst) : SeSt :=
  { y with
    inst := Tbl.put y.inst i { n with active := false }
    cmds := y.cmds.map (fun m => if !m.stream && m.op == 0 && m.ctx == some n.ctx && m.unit == n.unit && m.ent.seq == n.seq then
      { m with flags := m.flags ||| n.core.sticky.setWidth 9 } else m) }

/-- `cx.halt` takes effect once every queue entry of the context on the unit has completed; each halt raises one event (R264,
R267). In a stack program it ends the instance (R334). -/
def execCxHalt (h : Nat) (s : State) : Out :=
  .next (withIr s h 0xC (inRange 8 8) fun t k x _ =>
    if !k.live.isEmpty then s
    else match t with
      | .res u c =>
        let s1 := setHartCore s t { retire k with wait := .halt }
        afterWait (raiseEv s1 0x0103 clsNotice (argC c + argL u) k.pc.toNat) t x
      | .inst st i =>
        updSe s st (fun e => endInst e i { instOf s st i with core := retire k }))

end Sys2Proof.Machine
end

