-- ==== Sys2Proof/Machine/VecArith.lean ====
section
/-!
DEFINITION. Sys2Proof/Machine/VecArith.lean: the element-wise instructions of class 0x5 that touch no memory (Table 6.11), their sweep
form (R148, R149, R152), conversions (R252 to R254), masks and cursors (R167, R168, R178, R251).
-/

namespace Sys2Proof.Machine

/-! ## Arithmetic, logic, shifts, select -/

def execVxArith (h : Nat) (s : State) : Out := .next (vecStep s h 5 (opIn 0x00 0x02) fun k e => elementwise k e.w)
def execVxFma (h : Nat) (s : State) : Out := .next (vecStep s h 5 (opIn 0x03 0x03) fun k e => elementwise k e.w)
def execVxMin (h : Nat) (s : State) : Out := .next (vecStep s h 5 (opIn 0x04 0x05) fun k e => elementwise k e.w)
def execVxAbs (h : Nat) (s : State) : Out := .next (vecStep s h 5 (opIn 0x06 0x07) fun k e => elementwise k e.w)
def execVxDiv (h : Nat) (s : State) : Out := .next (vecStep s h 5 (opIn 0x08 0x08) fun k e => elementwise k e.w)
def execVxSqrt (h : Nat) (s : State) : Out := .next (vecStep s h 5 (opIn 0x09 0x09) fun k e => elementwise k e.w)
def execVxTranscendental (h : Nat) (s : State) : Out :=
  .next (vecStep s h 5 (opIn 0x0A 0x10) fun k e => elementwise k e.w)
def execVxAddI (h : Nat) (s : State) : Out := .next (vecStep s h 5 (opIn 0x18 0x19) fun k e => elementwise k e.w)
def execVxMulI (h : Nat) (s : State) : Out := .next (vecStep s h 5 (opIn 0x1A 0x1A) fun k e => elementwise k e.w)
def execVxMinI (h : Nat) (s : State) : Out := .next (vecStep s h 5 (opIn 0x1B 0x1C) fun k e => elementwise k e.w)
def execVxLogic (h : Nat) (s : State) : Out := .next (vecStep s h 5 (opIn 0x20 0x23) fun k e => elementwise k e.w)
def execVxShift (h : Nat) (s : State) : Out := .next (vecStep s h 5 (opIn 0x24 0x26) fun k e => elementwise k e.w)
def execVxSel (h : Nat) (s : State) : Out := .next (vecStep s h 5 (opIn 0x28 0x28) fun k e => elementwise k e.w)

/-! ## Sweep form -/

/-- Operand VB of a sweep for lane l of row pair r (R148, R149). -/
def sweepB (k : Core) (w : W64) (r l : Nat) : W32 :=
  let i := 2 * r + l / 64
  let j := l % 64
  if iBC w = 0 then tileElem (tileOf k (iGB w)) i j
  else if iBC w = 1 then laneOf (vGet k (iGB w)) i
  else laneOf (vGet k (iGB w)) j

/-- The OPs whose form reads VB, and those that read VC as a tile register. -/
def readsB (w : W64) : Bool := !(inList (iOp w)) where
  inList (op : Nat) : Bool := op == 6 || op == 7 || op == 9 || (decide (0xA ≤ op) && decide (op ≤ 0x10))
def readsC (w : W64) : Bool := iOp w == 3

/-- The tile registers a sweep reads. -/
def sweepSrcs (w : W64) : List Nat :=
  [iGA w] ++ (if readsB w && iBC w == 0 then [iGB w] else []) ++ (if readsC w then [iVC w] else [])

/-- Row pair r of a sweep: 128 results with flags. -/
def sweepPair (k : Core) (w : W64) (r : Nat) : List (W32 × Flags) :=
  let ks := kGet k (iVC w % 8)
  runLanes k (iKM w) (fun l =>
    let i := 2 * r + l / 64
    let j := l % 64
    laneFn w (tileElem (tileOf k (iGA w)) i j) (sweepB k w r l) (tileElem (tileOf k (iVC w)) i j) (ks.getLsbD l))

/-- Values of a tile register at row pair r. -/
def pairVals (x : Tile) (r : Nat) : List W32 := (List.range 128).map (fun l => tileElem x (2 * r + l / 64) (l % 64))

/-- Row pairs r0 to r0 + n − 1 of a sweep; each reads and writes only its own rows (R148, R179). The last pair of all makes the register
clean, since with k0 every element has then been written. -/
def sweepPairs (k : Core) (w : W64) (r0 n : Nat) : Core :=
  let prs := (List.range n).map (fun i => sweepPair k w (r0 + i))
  let old := tileOf k (iGD w)
  let vals := prs.zipIdx.flatMap (fun p => maskLanes k (iKM w) (iZ w) (pairVals old (r0 + p.2)) (p.1.map (·.1)))
  let all := tileVals old
  let new : Tile :=
    { v := all.take (128 * r0) ++ vals ++ all.drop (128 * (r0 + n)), written := true
      poison := old.poison && (iKM w != 0 || decide (r0 + n < 32)) }
  prs.foldl flagLanes { k with t := Tbl.put k.t (iGD w) new }

/-- The engine records the next row pair in the entry (R179). -/
def sweepAt (k : Core) (e : QEnt) (r : Nat) : Core := { k with vq := k.vq.map (fun y => if y.seq = e.seq then { y with row := r } else y) }

/-- A sweep waits while a register of it is busy; a poisoned source, or a partial write to a poisoned register, is a poison
fault and nothing is written (R152). The command issues n row pairs, or all that are left: a pre-emption may stop the sweep after any of
them, and the sweep goes on from the row pair its entry records (R179). -/
def execSweepForm (h n : Nat) (s : State) : Out :=
  .next (withVq s h 5 iTF fun t k _ e =>
    let w := e.w
    if (iGD w :: sweepSrcs w).any (tileBusy k) then s
    else if (sweepSrcs w).any (fun r => (tileOf k r).poison) || ((tileOf k (iGD w)).poison && iKM w != 0) then
      faultEnt s t fPoison e
    else
      let m := min n (32 - e.row)
      let k1 := sweepPairs k w e.row m
      setHartCore s t (if 32 ≤ e.row + m then vqDone k1 e else sweepAt k1 e (e.row + m)))

/-! ## Conversion (R252 to R254) -/

/-- Where SR takes its words: the captured pair (R254). (Log entry 19: DESIGN CHOICE.) -/
def cvtSr (e : QEnt) : SrSrc :=
  let o := (cvtOther e.w).1
  let r := if (isMx o || o == 0xD) && (cvtOther e.w).2 then iVC e.w + 1 else iVC e.w
  { seed := cap e r, ctr := fld (cap e (r + 1)) 63 32, base := fld (cap e (r + 1)) 31 0 }

/-- FP32 into a 32-bit lane format. -/
def cvtOut32 (k : Core) (e : QEnt) : Core :=
  let w := e.w
  let sr := cvtSr e
  let a := vGet k (iGA w)
  let rs := runLanes k (iKM w) (fun l =>
    let r := plainConv (iVFmt w) (iRM w) (iSAT w) (srAt sr l) (fpDecode fp32 (laneOf a l).toNat)
    (BitVec.ofNat 32 r.1, r.2))
  flagLanes (vPut k w (iGD w) (rs.map (·.1))) rs

/-- FP32 into a packed 16-bit or 8-bit format: lane l goes to element 128 × PART + l. -/
def cvtOutPacked (k : Core) (e : QEnt) : Core :=
  let w := e.w
  let n := fmtBits (iVFmt w)
  let base := 128 * fld w 1 0
  let sr := cvtSr e
  let a := vGet k (iGA w)
  let rs := runLanes k (iKM w) (fun l =>
    let r := plainConv (iVFmt w) (iRM w) (iSAT w) (srAt sr (base + l)) (fpDecode fp32 (laneOf a l).toNat)
    (BitVec.ofNat 32 r.1, r.2))
  let d := rs.zipIdx.foldl (fun x p =>
    if active k (iKM w) p.2 then packPut n x (base + p.2) p.1.1.toNat
    else if iZ w then packPut n x (base + p.2) 0 else x) (regNat (vGet k (iGD w)))
  flagLanes (vSet k (iGD w) (natReg 128 d)) rs

/-- FP32 into MX or E5M3U: four blocks of 32 lanes, their scale bytes into lane PART of vc. -/
def cvtOutMx (k : Core) (e : QEnt) : Core :=
  let w := e.w
  let code := iVFmt w
  let n := fmtBits code
  let part := fld w 1 0
  let base := 128 * part
  let a := (vGet k (iGA w)).map (fun x => fpDecode fp32 x.toNat)
  let blks := (List.range 4).map (fun b => mxBlock code (iRM w) (cvtSr e) (base + 32 * b) ((a.drop (32 * b)).take 32))
  let els := blks.flatMap (·.1)
  let d := els.zipIdx.foldl (fun x p => packPut n x (base + p.2) p.1.1) (regNat (vGet k (iGD w)))
  let k1 := vSet k (iGD w) (natReg 128 d)
  let sc := BitVec.ofNat 32 (packAll 8 (blks.map (·.2)))
  let k2 := vSet k1 (iVC w) ((vGet k1 (iVC w)).set part sc)
  lanesFlags k2 (els.zipIdx.map (fun p => (p.2, p.1.2)))

/-- E of a sheaf conversion: bits [8:0] of the captured register, signed. -/
def cvtE (e : QEnt) : Int := sgn 9 (fld (cap e (iGB e.w)) 8 0)

/-- FP32 into sheaf: 32 words from FP32 lanes 32 × PART on. -/
def cvtOutSheaf (k : Core) (e : QEnt) : Core :=
  let w := e.w
  let a := vGet k (iGA w)
  let base := 32 * fld w 1 0
  let rs := (List.range 32).map (fun i => sheafIn (cvtE e) (fpDecode fp32 (laneOf a (base + i)).toNat))
  let d := rs.flatMap (fun r => natReg 4 r.1.toNat)
  lanesFlags (vSet k (iGD w) d) (rs.zipIdx.map (fun p => (base + p.2, p.1.2.1)))

/-- A 32-bit, 16-bit or 8-bit format into FP32. -/
def cvtInPlain (k : Core) (e : QEnt) : Core :=
  let w := e.w
  let code := fld w 9 6
  let n := fmtBits code
  let base := 128 * fld w 1 0
  let a := regNat (vGet k (iGA w))
  let rs := runLanes k (iKM w) (fun l =>
    let r := fpConv fp32 (iRM w) (iSAT w) (srAt (cvtSr e) l) (plainValue code (packGet n a (base + l)))
    (BitVec.ofNat 32 r.1, r.2))
  flagLanes (vPut k w (iGD w) (rs.map (·.1))) rs

/-- MX or E5M3U into FP32, the scale bytes from lane PART of vc. -/
def cvtInMx (k : Core) (e : QEnt) : Core :=
  let w := e.w
  let code := fld w 9 6
  let part := fld w 1 0
  let a := regNat (vGet k (iGA w))
  let sc := (laneOf (vGet k (iVC w)) part).toNat
  let rs := runLanes k (iKM w) (fun l =>
    let r := fpConv fp32 (iRM w) (iSAT w) (srAt (cvtSr e) l)
      (mxValue code (packGet 8 sc (l / 32)) (packGet (fmtBits code) a (128 * part + l)))
    (BitVec.ofNat 32 r.1, r.2))
  flagLanes (vPut k w (iGD w) (rs.map (·.1))) rs

/-- Sheaf out into FP32 lanes 32 × PART to 32 × PART + 31; the others stay. -/
def cvtInSheaf (k : Core) (e : QEnt) : Core :=
  let w := e.w
  let a := regNat (vGet k (iGA w))
  let base := 32 * fld w 1 0
  let rs := (List.range 32).map (fun i => sheafOut fp32 (iRM w) (iSAT w) (cvtE e) (BitVec.ofNat 128 (packGet 128 a i)))
  let d := rs.zipIdx.foldl (fun (x : List W32) p => x.set (base + p.2) (BitVec.ofNat 32 p.1.1)) (vGet k (iGD w))
  lanesFlags (vSet k (iGD w) d) (rs.zipIdx.map (fun p => (base + p.2, p.1.2)))

/-- A conversion by its pair (Table 6.12). (Log entry 19: DESIGN CHOICE.) -/
def convert (k : Core) (e : QEnt) : Core :=
  let (o, out) := cvtOther e.w
  if o = 0xE then (if out then cvtOutSheaf k e else cvtInSheaf k e)
  else if isMx o || o == 0xD then (if out then cvtOutMx k e else cvtInMx k e)
  else if out then (if o = 0xC then cvtOut32 k e else cvtOutPacked k e)
  else cvtInPlain k e

def execVxCvt (h : Nat) (s : State) : Out :=
  .next (withVq s h 5 (opIn 0x11 0x11) fun t k _ e =>
    if (cvtOther e.w).1 == 0xE && !(eOk (cvtE e)) then faultEnt s t fIllegal e
    else setHartCore s t (vqDone (convert k e) e))

/-! ## Comparison and masks -/

/-- One comparison (R251): result and flags. -/
def cmpLane (w : W64) (a b : W32) : Bool × Flags :=
  let op := iOp w
  if iVFmt w = 12 then
    let x := intOf 32 (iSX w) a.toNat
    let y := intOf 32 (iSX w) b.toNat
    ((match op with
      | 0x30 => decide (x = y)
      | 0x31 => decide (x ≠ y)
      | 0x32 => decide (x < y)
      | 0x33 => decide (x ≤ y)
      | 0x34 => decide (y < x)
      | _ => decide (y ≤ x)), 0)
  else
    let x := fpDecode fp32 a.toNat
    let y := fpDecode fp32 b.toNat
    if isNan x || isNan y then (op == 0x31, if op ≤ 0x31 then 0 else flNV)
    else
      let lt := numLt x y && !(numEq x y)
      let gt := numLt y x && !(numEq x y)
      ((match op with
        | 0x30 => numEq x y
        | 0x31 => !(numEq x y)
        | 0x32 => lt
        | 0x33 => !gt
        | 0x34 => gt
        | _ => !lt), 0)

def maskOf (l : List Bool) : BitVec 128 :=
  BitVec.ofNat 128 (l.foldr (fun b acc => (if b then 1 else 0) + 2 * acc) 0)

/-- Log entry 24: DESIGN CHOICE. -/
def compareInto (k : Core) (w : W64) : Core :=
  let a := vGet k (iGA w)
  let b := vGet k (iGB w)
  let old := kGet k (iGD w)
  let rs := (List.range 128).map (fun l =>
    if active k (iKM w) l then cmpLane w (laneOf a l) (laneOf b l)
    else (if iZ w then false else old.getLsbD l, 0))
  lanesFlags (kSet k (iGD w) (maskOf (rs.map (·.1)))) (rs.zipIdx.map (fun p => (p.2, p.1.2)))

def execVxCmp (h : Nat) (s : State) : Out := .next (vecStep s h 5 (opIn 0x30 0x35) fun k e => compareInto k e.w)

def execVxKand (h : Nat) (s : State) : Out :=
  .next (vecStep s h 5 (opIn 0x38 0x3A) fun k e =>
    let a := kGet k (iGA e.w)
    let b := kGet k (iGB e.w)
    kSet k (iGD e.w) (if iOp e.w = 0x38 then a &&& b else if iOp e.w = 0x39 then a ||| b else a ^^^ b))

def execVxKnot (h : Nat) (s : State) : Out :=
  .next (vecStep s h 5 (opIn 0x3B 0x3B) fun k e => kSet k (iGD e.w) (~~~(kGet k (iGA e.w))))

def execVxKmov (h : Nat) (s : State) : Out :=
  .next (vecStep s h 5 (opIn 0x3C 0x3C) fun k e => kSet k (iGD e.w) (cap e (iGB e.w) ++ cap e (iGA e.w)))

def execVxKset (h : Nat) (s : State) : Out :=
  .next (vecStep s h 5 (opIn 0x3D 0x3D) fun k e =>
    kSet k (iGD e.w) (BitVec.ofNat 128 (2 ^ (min (cap e (iGA e.w)).toNat 128) - 1)))

/-- A scalar result of the vector engine reaches its register (R155). -/
def vecScalar (k : Core) (e : QEnt) (v : W64) : Core := gDeliver k (iGD e.w) e.seq v

def execVxPopc (h : Nat) (s : State) : Out :=
  .next (vecStep s h 5 (opIn 0x3E 0x3E) fun k e =>
    vecScalar k e (BitVec.ofNat 64 (popcount 128 (kGet k (iGA e.w)).toNat)))

def execVxKget (h : Nat) (s : State) : Out :=
  .next (vecStep s h 5 (opIn 0x3F 0x3F) fun k e =>
    let m := kGet k (iGA e.w)
    vecScalar k e (if bit e.w 0 then m.extractLsb' 64 64 else m.setWidth 64))

/-! ## Lanes, scalars, lane flags, cursors -/

def execVxBcast (h : Nat) (s : State) : Out :=
  .next (vecStep s h 5 (opIn 0x40 0x40) fun k e =>
    let n := etBits (iET e.w)
    let x := (cap e (iGA e.w)).toNat % 2 ^ n
    let lane := BitVec.ofNat 32 (packAll n (List.replicate (32 / n) x))
    vPut k e.w (iGD e.w) (List.replicate 128 lane))

def execVxLane (h : Nat) (s : State) : Out :=
  .next (vecStep s h 5 (opIn 0x41 0x41) fun k e =>
    vecScalar k e ((laneOf (vGet k (iGA e.w)) (fld e.w 6 0)).setWidth 64))

def execVxIota (h : Nat) (s : State) : Out :=
  .next (vecStep s h 5 (opIn 0x42 0x42) fun k e =>
    vPut k e.w (iGD e.w) ((List.range 128).map (fun l => BitVec.ofNat 32 l)))

def execVxLfMask (h : Nat) (s : State) : Out :=
  .next (vecStep s h 5 (opIn 0x43 0x43) fun k e =>
    kSet k (iGD e.w) (maskOf ((List.range 128).map (fun l => lfGet k l &&& BitVec.ofNat 9 (fld e.w 8 0) != 0))))

def execVxLfClr (h : Nat) (s : State) : Out :=
  .next (vecStep s h 5 (opIn 0x44 0x44) fun k e =>
    { k with lf := k.lf.filter (fun p => !(active k (iKM e.w) p.1)) })

def execVxCurSet (h : Nat) (s : State) : Out :=
  .next (vecStep s h 5 (opIn 0x45 0x45) fun k e => curSet k (iGD e.w) ((cap e (iGA e.w)).setWidth 32))

def execVxCurGet (h : Nat) (s : State) : Out :=
  .next (vecStep s h 5 (opIn 0x46 0x46) fun k e => vecScalar k e ((curGet k (iGA e.w)).setWidth 64))

/-! ## Tile registers (R147, R152) -/

def execVtLd (h : Nat) (s : State) : Out :=
  .next (withVq s h 5 (opIn 0x58 0x58) fun t k _ e =>
    let ts := iGA e.w
    if tileBusy k ts then s
    else if (tileOf k ts).poison then faultEnt s t fPoison e
    else setHartCore s t (vqDone (vPut k e.w (iGD e.w) (pairVals (tileOf k ts) (fld e.w 4 0))) e))

/-- Writes a row pair of a tile register. -/
def putPair (x : Tile) (r : Nat) (new : List W32) : Tile :=
  let vals := tileVals x
  { x with v := vals.take (128 * r) ++ new ++ vals.drop (128 * r + 128), written := true }

def execVtSt (h : Nat) (s : State) : Out :=
  .next (withVq s h 5 (opIn 0x59 0x59) fun t k _ e =>
    let td := iGD e.w
    let r := fld e.w 4 0
    if tileBusy k td then s
    else if (tileOf k td).poison then faultEnt s t fPoison e
    else
      let new := maskLanes k (iKM e.w) (iZ e.w) (pairVals (tileOf k td) r) (vGet k (iGA e.w))
      setHartCore s t (vqDone { k with t := Tbl.put k.t td (putPair (tileOf k td) r new) } e))

def execVtZero (h : Nat) (s : State) : Out :=
  .next (withVq s h 5 (opIn 0x5A 0x5A) fun t k _ e =>
    if tileBusy k (iGD e.w) then s
    else setHartCore s t (vqDone { k with t := Tbl.put k.t (iGD e.w) { v := zeroTile, written := true } } e))

end Sys2Proof.Machine
end

