-- ==== Sys2Proof/Machine/VecLane.lean ====
section
/-!
DEFINITION. Sys2Proof/Machine/VecLane.lean: the vector engine's loads and stores (R160 to R164, R250), compress and expand (R165 to
R167), the cross-lane network (R169 to R176, R712) and tile reductions (R151).
-/

namespace Sys2Proof.Machine

/-! ## Operand cache and unit store -/

/-- Lane l's word of a contiguous access. -/
def contig (a : W64) (l : Nat) : W64 := a + BitVec.ofNat 64 (4 * l)

/-- Alignment to 4 bytes and the share hold for every active lane (R162). -/
def ocOk (s : State) (t : Hart) (x : Ctx) (offs : List (Nat × W64)) : Bool :=
  offs.all (fun p => p.2.toNat % 4 == 0 && inLocal (ocSizeOf s t x) p.2 4)

/-- Reads each lane's word; none where a word is poisoned. -/
def readLanes (s : State) (addr : Nat → Nat) (offs : List (Nat × W64)) : Option (List (Nat × W32)) :=
  if offs.any (fun p => poisoned s (addr p.2.toNat)) then none
  else some (offs.map (fun p => (p.1, BitVec.ofNat 32 (leNat (memBytes s (addr p.2.toNat) 4)))))

/-- A register whose listed lanes hold the values read. -/
def lanesOf (l : List (Nat × W32)) : List W32 := (List.range 128).map (fun i => (Tbl.find? l i).getD 0)

/-- What a store leaves at each word, by rising address; where two lanes name one word the later of the list stands (R161). -/
def laneTable (ws : List (Nat × W32)) : List (Nat × W32) := ws.foldl (fun t p => Tbl.put t p.1 p.2) []

/-- Joins neighbouring words into runs, so that a store covers whole granules where its lanes together do (R710). -/
def joinRuns : List (Nat × W32) → List (Nat × List Byte)
  | [] => []
  | (a, v) :: t =>
    match joinRuns t with
    | [] => [(a, leBytes 4 v.toNat)]
    | (b, bs) :: r => if a + 4 = b then (a, leBytes 4 v.toNat ++ bs) :: r else (a, leBytes 4 v.toNat) :: (b, bs) :: r

/-- Stores lane words; the Bool says bytes were lost to poison. -/
def storeLanes (s : State) (ws : List (Nat × W32)) : State × Bool :=
  (joinRuns (laneTable ws)).foldl (fun (r : State × Bool) p => let y := rawWrite r.1 p.1 p.2; (y.1, r.2 || y.2)) (s, false)

/-- A load whose lanes' offsets are given: extent fault, poison fault, or the register written under mask and Z. -/
def vecLoad (s : State) (t : Hart) (k : Core) (e : QEnt) (ok : Bool) (addr : Nat → Nat) (offs : List (Nat × W64))
    (fin : Core → Core) : State :=
  if !ok then faultEnt s t fExtent e
  else match readLanes s addr offs with
    | none => faultEnt s t fPoison e
    | some ls => setHartCore s t (vqDone (fin (vPut k e.w (iGD e.w) (lanesOf ls))) e)

/-- A store whose lanes' offsets and values are given. -/
def vecStore (s : State) (t : Hart) (k : Core) (e : QEnt) (ok : Bool) (ws : List (Nat × W32)) : State :=
  if !ok then faultEnt s t fExtent e
  else
    let r := storeLanes s ws
    if r.2 then faultEnt r.1 t fPoison e else setHartCore r.1 t (vqDone k e)

/-- ga + IMM10 × 512 (R250). (Log entry 22: DEDUCED.) -/
def vecAddr (e : QEnt) : W64 := cap e (iGA e.w) + BitVec.ofNat 64 (512 * iImm10 e.w)

def execVxLdOc (h : Nat) (s : State) : Out :=
  .next (withVq s h 5 (opIn 0x50 0x50) fun t k x e =>
    let offs := (activeLanes k (iKM e.w)).map (fun l => (l, contig (vecAddr e) l))
    vecLoad s t k e ((vecAddr e).toNat % 4 == 0 && ocOk s t x offs) (ocAddrOf s t x) offs id)

def execVxStOc (h : Nat) (s : State) : Out :=
  .next (withVq s h 5 (opIn 0x51 0x51) fun t k x e =>
    let v := vGet k (iGB e.w)
    let offs := (activeLanes k (iKM e.w)).map (fun l => (l, contig (vecAddr e) l))
    vecStore s t k e ((vecAddr e).toNat % 4 == 0 && ocOk s t x offs)
      (offs.map (fun p => (ocAddrOf s t x p.2.toNat, laneOf v p.1))))

/-- Lane offsets base + 4 × vi[l] (R160, R161). (Log entry 22: DEDUCED.) -/
def gatherOffs (k : Core) (w : W64) (base : W64) (vi : List W32) : List (Nat × W64) :=
  (activeLanes k (iKM w)).map (fun l => (l, base + BitVec.ofNat 64 (4 * (laneOf vi l).toNat)))

def execVxGather (h : Nat) (s : State) : Out :=
  .next (withVq s h 5 (opIn 0x52 0x52) fun t k x e =>
    let base := cap e (iGB e.w)
    let offs := gatherOffs k e.w base (vGet k (iGA e.w))
    vecLoad s t k e (base.toNat % 4 == 0 && ocOk s t x offs) (ocAddrOf s t x) offs id)

/-- Lanes in ascending order, so the highest-numbered lane's value stands (R161). -/
def execVxScatter (h : Nat) (s : State) : Out :=
  .next (withVq s h 5 (opIn 0x53 0x53) fun t k x e =>
    let base := cap e (iVC e.w)
    let v := vGet k (iGA e.w)
    let offs := gatherOffs k e.w base (vGet k (iGB e.w))
    vecStore s t k e (base.toNat % 4 == 0 && ocOk s t x offs)
      (offs.map (fun p => (ocAddrOf s t x p.2.toNat, laneOf v p.1))))

/-- The stride of a unit-store form: register g0 means contiguous halves (R164). -/
def usStride (e : QEnt) (r : Nat) : W64 := if r = 0 then 256 else cap e r

/-- Lane l's offset: 256-byte halves at a and a + stride. (Log entry 22: DEDUCED.) -/
def usOffs (k : Core) (e : QEnt) (st : W64) : List (Nat × W64) :=
  (activeLanes k (iKM e.w)).map (fun l =>
    (l, (if l < 64 then vecAddr e else vecAddr e + st) + BitVec.ofNat 64 (4 * (l % 64))))

def usOk (x : Ctx) (e : QEnt) (st : W64) (offs : List (Nat × W64)) : Bool :=
  (vecAddr e).toNat % 32 == 0 && st.toNat % 32 == 0 && offs.all (fun p => inLocal (shareSize x) p.2 4)

def execVxLdUs (h : Nat) (s : State) : Out :=
  .next (withVq s h 5 (opIn 0x54 0x54) fun t k x e =>
    let st := usStride e (iGB e.w)
    let offs := usOffs k e st
    vecLoad s t k e (usOk x e st offs) (localAddr s t x) offs id)

def execVxStUs (h : Nat) (s : State) : Out :=
  .next (withVq s h 5 (opIn 0x55 0x55) fun t k x e =>
    let st := usStride e (iVC e.w)
    let offs := usOffs k e st
    let v := vGet k (iGB e.w)
    vecStore s t k e (usOk x e st offs) (offs.map (fun p => (localAddr s t x p.2.toNat, laneOf v p.1))))

/-! ## Compress and expand -/

/-- R165: active lanes to the front, +0 behind them. -/
def compress (k : Core) (km : Nat) (v : List W32) : List W32 :=
  let l := (activeLanes k km).map (fun i => laneOf v i)
  l ++ List.replicate (128 - l.length) 0

/-- R165: consecutive values into the active lanes. -/
def expandLanes (k : Core) (km : Nat) (v : List W32) : List W32 :=
  lanesOf ((activeLanes k km).zipIdx.map (fun p => (p.1, laneOf v p.2)))

def execVxCompress (h : Nat) (s : State) : Out :=
  .next (vecStep s h 6 (opIn 0x10 0x10) fun k e => vSet k (iGD e.w) (compress k (iKM e.w) (vGet k (iGA e.w))))

def execVxExpand (h : Nat) (s : State) : Out :=
  .next (vecStep s h 6 (opIn 0x11 0x11) fun k e => vPut k e.w (iGD e.w) (expandLanes k (iKM e.w) (vGet k (iGA e.w))))

/-- The cursor moves past n words (R166, R167). -/
def curAdd (k : Core) (c n : Nat) : Core := curSet k c (curGet k c + BitVec.ofNat 32 (4 * n))

def execVxCompressSt (h : Nat) (s : State) : Out :=
  .next (withVq s h 6 (opIn 0x12 0x12) fun t k x e =>
    let v := vGet k (iGA e.w)
    let c := iGD e.w
    let ls := activeLanes k (iKM e.w)
    let offs := ls.zipIdx.map (fun p => (p.1, ((curGet k c).setWidth 64 : W64) + BitVec.ofNat 64 (4 * p.2)))
    vecStore s t (curAdd k c ls.length) e (ocOk s t x offs)
      (offs.map (fun p => (ocAddrOf s t x p.2.toNat, laneOf v p.1))))

def execVxExpandLd (h : Nat) (s : State) : Out :=
  .next (withVq s h 6 (opIn 0x13 0x13) fun t k x e =>
    let c := iGA e.w
    let ls := activeLanes k (iKM e.w)
    let offs := ls.zipIdx.map (fun p => (p.1, ((curGet k c).setWidth 64 : W64) + BitVec.ofNat 64 (4 * p.2)))
    vecLoad s t k e (ocOk s t x offs) (ocAddrOf s t x) offs (fun k1 => curAdd k1 c ls.length))

/-! ## Scans -/

/-- One combining step (R172, R173, R151): op by SOP, FP32 or INT32. -/
def combine (w : W64) (a b : W32) : W32 × Flags :=
  let sop := fld w 9 8
  if sop = 3 then (a, 0)
  else if iVFmt w = 12 then
    let x := intOf 32 (iSX w) a.toNat
    let y := intOf 32 (iSX w) b.toNat
    if sop = 0 then (let r := intFit 32 (iSX w) (iSAT w) (x + y); (BitVec.ofNat 32 r.1, r.2))
    else if sop = 1 then (if x < y then b else a, 0)
    else (if y < x then b else a, 0)
  else if sop = 0 then (let r := fpAdd fp32 (iRM w) a.toNat b.toNat; (BitVec.ofNat 32 r.1, r.2))
  else if sop = 1 then (BitVec.ofNat 32 (fpMaxOp fp32 a.toNat b.toNat), 0)
  else (BitVec.ofNat 32 (fpMin fp32 a.toNat b.toNat), 0)

/-- A lane of a scan under way: value, head mark, flags. -/
structure ScanLane where
  y  : W32 := 0
  f  : Bool := false
  fl : Flags := 0
  deriving DecidableEq, Repr

/-- One level of the tree, distance st (R172). -/
def scanLevel (w : W64) (st : Nat) (p : List ScanLane) : List ScanLane :=
  p.zipIdx.map (fun q =>
    if st ≤ q.2 && !q.1.f then
      let b := p.getD (q.2 - st) {}
      let r := combine w b.y q.1.y
      { y := r.1, f := b.f, fl := q.1.fl ||| r.2 }
    else q.1)

/-- The forward inclusive scan of R172: values with flags. -/
def scanForward (w : W64) (x : List W32) (m : Nat → Bool) (carry : Option W32) : List ScanLane :=
  let p0 := x.zipIdx.map (fun q => ({ y := q.1, f := m q.2 || (q.2 == 0 && carry.isNone) } : ScanLane))
  let p := [1, 2, 4, 8, 16, 32, 64].foldl (fun p st => scanLevel w st p) p0
  match carry with
  | none => p
  | some c => p.map (fun q => if q.f then q else (let r := combine w c q.y; { q with y := r.1, fl := q.fl ||| r.2 }))

/-- The exclusive form (R175): each lane takes the inclusive result of the lane before it in its segment. (Log entry 21: DESIGN CHOICE.) -/
def scanExclusive (m : Nat → Bool) (carry : Option W32) (p : List ScanLane) : List ScanLane :=
  p.zipIdx.map (fun q =>
    if m q.2 then {}
    else if q.2 = 0 then { y := carry.getD 0 }
    else p.getD (q.2 - 1) {})

/-- Log entries 21: DESIGN CHOICE, 118: DESIGN CHOICE. -/
def scanAll (k : Core) (w : W64) : List ScanLane :=
  let rev := bit w 6
  let src := vGet k (iGA w)
  let x := if rev then src.reverse else src
  let marks := kGet k (iGB w % 8)
  let m (l : Nat) : Bool := bit w 7 && marks.getLsbD (if rev then 127 - l else l)
  let cv := vGet k (iVC w)
  let carry := if bit w 5 then some (laneOf cv (if rev then 0 else 127)) else none
  let p := scanForward w x m carry
  let p := if bit w 4 then scanExclusive m carry p else p
  if rev then p.reverse else p

/-- The lanes written and the flags raised are those of active lanes (R712). -/
def doScan (k : Core) (w : W64) : Core :=
  let p := scanAll k w
  lanesFlags (vPut k w (iGD w) (p.map (·.y)))
    (p.zipIdx.map (fun q => (q.2, if active k (iKM w) q.2 then q.1.fl else 0)))

/-- A cross-lane instruction in the wrong mode is an illegal instruction (R171). -/
def crossLane (s : State) (h : Nat) (ok : W64 → Bool) (mode : Bool) (f : Core → W64 → Core) : State :=
  withVq s h 6 ok fun t k _ e =>
    if k.xln != mode then faultEnt s t fIllegal e else setHartCore s t (vqDone (f k e.w) e)

def execVxScan (h : Nat) (s : State) : Out := .next (crossLane s h (opIn 0 0) false doScan)

/-! ## Permutes (Table 4.3) -/

def permute (s : State) (h op : Nat) (f : Core → W64 → Nat → W32) : State :=
  crossLane s h (opIn op op) true fun k w => vPut k w (iGD w) ((List.range 128).map (f k w))

def execVxPerm (h : Nat) (s : State) : Out :=
  .next (permute s h 0x08 fun k w l => laneOf (vGet k (iGA w)) ((laneOf (vGet k (iGB w)) l).toNat % 128))

def execVxPerm2 (h : Nat) (s : State) : Out :=
  .next (permute s h 0x09 fun k w l =>
    let i := (laneOf (vGet k (iVC w)) l).toNat % 256
    if i < 128 then laneOf (vGet k (iGA w)) i else laneOf (vGet k (iGB w)) (i - 128))

def execVxShufXor (h : Nat) (s : State) : Out :=
  .next (permute s h 0x0A fun k w l => laneOf (vGet k (iGA w)) (l ^^^ fld w 6 0))

def execVxShufRot (h : Nat) (s : State) : Out :=
  .next (permute s h 0x0B fun k w l => laneOf (vGet k (iGA w)) ((l + fld w 6 0) % 128))

/-- Lane l of a packed result whose element e is given by a function. -/
def packLane (n l : Nat) (el : Nat → Nat) : W32 :=
  BitVec.ofNat 32 (packAll n ((List.range (32 / n)).map (fun i => el (l * (32 / n) + i))))

def execVxPackH (h : Nat) (s : State) : Out :=
  .next (permute s h 0x0C fun k w l => packLane 16 l fun e =>
    (if e < 128 then laneOf (vGet k (iGA w)) e else laneOf (vGet k (iGB w)) (e - 128)).toNat)

def execVxPackB (h : Nat) (s : State) : Out :=
  .next (permute s h 0x0D fun k w l => packLane 8 l fun e =>
    let r := if e < 256 then vGet k (iGA w) else vGet k (iGB w)
    packGet 16 (laneOf r (e % 256 / 2)).toNat (e % 2))

/-- An element of width n extended to a lane by SX. -/
def extLane (w : W64) (n x : Nat) : W32 := if iSX w then BitVec.ofInt 32 (intOf n true x) else BitVec.ofNat 32 x

def execVxUnpackH (h : Nat) (s : State) : Out :=
  .next (permute s h 0x0E fun k w l =>
    let e := l + 128 * fld w 0 0
    extLane w 16 (packGet 16 (laneOf (vGet k (iGA w)) (e / 2)).toNat (e % 2)))

def execVxUnpackBQ (h : Nat) (s : State) : Out :=
  .next (permute s h 0x0F fun k w l =>
    let e := l + 128 * fld w 1 0
    extLane w 8 (packGet 8 (laneOf (vGet k (iGA w)) (e / 4)).toNat (e % 4)))

/-! ## Tile reductions (R151) -/

/-- One level: pairs at distance 1 of the shrinking list, lower index on the left, which is the fixed order of R151. -/
def redLevel (w : W64) : List W32 → List (W32 × Flags)
  | a :: b :: t => combine w a b :: redLevel w t
  | [a] => [(a, 0)]
  | [] => []

def reduceAux (w : W64) : Nat → List W32 → Flags → W32 × Flags
  | 0, x, fl => (x.headD 0, fl)
  | n + 1, x, fl =>
    let r := redLevel w x
    reduceAux w n (r.map (·.1)) (r.foldl (fun a p => a ||| p.2) fl)

def reduce64 (w : W64) (x : List W32) : W32 × Flags := reduceAux w 6 x 0

def tileReduce (k : Core) (w : W64) : Core :=
  let t := tileOf k (iGA w)
  let col := bit w 7
  let rs := (List.range 64).map (fun i =>
    reduce64 w ((List.range 64).map (fun j => if col then tileElem t j i else tileElem t i j)))
  lanesFlags (vSet k (iGD w) (rs.map (·.1) ++ List.replicate 64 0)) (rs.zipIdx.map (fun p => (p.2, p.1.2)))

/-- Log entry 24: DESIGN CHOICE. -/
def execVtRed (h : Nat) (s : State) : Out :=
  .next (withVq s h 6 (opIn 0x18 0x18) fun t k _ e =>
    let ts := iGA e.w
    if tileBusy k ts then s
    else if (tileOf k ts).poison then faultEnt s t fPoison e
    else setHartCore s t (vqDone (tileReduce k e.w) e))

end Sys2Proof.Machine
end

