-- ==== Sys2Proof/Machine/Dispatch.lean ====
section
/-! DEFINITION. Sys2Proof/Machine/Dispatch.lean: one arm per command; every arm is one direct call of its meaning. -/

namespace Sys2Proof.Machine

def exec (i : Instr) (s : State) : Host.Outcome State Fault Refusal :=
  match i with
  | .instructionFetch h => Sys2Proof.Machine.execInstructionFetch h s
  | .icacheFill h => Sys2Proof.Machine.execIcacheFill h s
  | .engineDispatch h => Sys2Proof.Machine.execEngineDispatch h s
  | .add h => Sys2Proof.Machine.execAdd h s
  | .shift h => Sys2Proof.Machine.execShift h s
  | .mul h => Sys2Proof.Machine.execMul h s
  | .div h => Sys2Proof.Machine.execDiv h s
  | .min h => Sys2Proof.Machine.execMin h s
  | .slt h => Sys2Proof.Machine.execSlt h s
  | .sel h => Sys2Proof.Machine.execSel h s
  | .clz h => Sys2Proof.Machine.execClz h s
  | .pCmp h => Sys2Proof.Machine.execPCmp h s
  | .pAnd h => Sys2Proof.Machine.execPAnd h s
  | .pGet h => Sys2Proof.Machine.execPGet h s
  | .pPut h => Sys2Proof.Machine.execPPut h s
  | .addi h => Sys2Proof.Machine.execAddi h s
  | .shli h => Sys2Proof.Machine.execShli h s
  | .muli h => Sys2Proof.Machine.execMuli h s
  | .slti h => Sys2Proof.Machine.execSlti h s
  | .pCmpi h => Sys2Proof.Machine.execPCmpi h s
  | .li h => Sys2Proof.Machine.execLi h s
  | .liHi h => Sys2Proof.Machine.execLiHi h s
  | .br h => Sys2Proof.Machine.execBr h s
  | .brCall h => Sys2Proof.Machine.execBrCall h s
  | .brInd h => Sys2Proof.Machine.execBrInd h s
  | .brCallInd h => Sys2Proof.Machine.execBrCallInd h s
  | .brDec h => Sys2Proof.Machine.execBrDec h s
  | .ld h => Sys2Proof.Machine.execLd h s
  | .st h => Sys2Proof.Machine.execSt h s
  | .mmClr h n => Sys2Proof.Machine.execMmClr h n s
  | .mmAcc h n => Sys2Proof.Machine.execMmAcc h n s
  | .mmDrainTile h n => Sys2Proof.Machine.execMmDrainTile h n s
  | .mmDrainUs h n => Sys2Proof.Machine.execMmDrainUs h n s
  | .feederFetch h n => Sys2Proof.Machine.execFeederFetch h n s
  | .kStep h n => Sys2Proof.Machine.execKStep h n s
  | .drainStart h n => Sys2Proof.Machine.execDrainStart h n s
  | .drainComplete h n => Sys2Proof.Machine.execDrainComplete h n s
  | .vxArith h => Sys2Proof.Machine.execVxArith h s
  | .vxFma h => Sys2Proof.Machine.execVxFma h s
  | .vxMin h => Sys2Proof.Machine.execVxMin h s
  | .vxAbs h => Sys2Proof.Machine.execVxAbs h s
  | .vxDiv h => Sys2Proof.Machine.execVxDiv h s
  | .vxSqrt h => Sys2Proof.Machine.execVxSqrt h s
  | .vxTranscendental h => Sys2Proof.Machine.execVxTranscendental h s
  | .vxCvt h => Sys2Proof.Machine.execVxCvt h s
  | .vxAddI h => Sys2Proof.Machine.execVxAddI h s
  | .vxMulI h => Sys2Proof.Machine.execVxMulI h s
  | .vxMinI h => Sys2Proof.Machine.execVxMinI h s
  | .vxLogic h => Sys2Proof.Machine.execVxLogic h s
  | .vxShift h => Sys2Proof.Machine.execVxShift h s
  | .vxSel h => Sys2Proof.Machine.execVxSel h s
  | .vxCmp h => Sys2Proof.Machine.execVxCmp h s
  | .vxKand h => Sys2Proof.Machine.execVxKand h s
  | .vxKnot h => Sys2Proof.Machine.execVxKnot h s
  | .vxKmov h => Sys2Proof.Machine.execVxKmov h s
  | .vxKset h => Sys2Proof.Machine.execVxKset h s
  | .vxPopc h => Sys2Proof.Machine.execVxPopc h s
  | .vxKget h => Sys2Proof.Machine.execVxKget h s
  | .vxBcast h => Sys2Proof.Machine.execVxBcast h s
  | .vxLane h => Sys2Proof.Machine.execVxLane h s
  | .vxIota h => Sys2Proof.Machine.execVxIota h s
  | .vxLfMask h => Sys2Proof.Machine.execVxLfMask h s
  | .vxLfClr h => Sys2Proof.Machine.execVxLfClr h s
  | .vxCurSet h => Sys2Proof.Machine.execVxCurSet h s
  | .vxCurGet h => Sys2Proof.Machine.execVxCurGet h s
  | .vxLdOc h => Sys2Proof.Machine.execVxLdOc h s
  | .vxStOc h => Sys2Proof.Machine.execVxStOc h s
  | .vxGather h => Sys2Proof.Machine.execVxGather h s
  | .vxScatter h => Sys2Proof.Machine.execVxScatter h s
  | .vxLdUs h => Sys2Proof.Machine.execVxLdUs h s
  | .vxStUs h => Sys2Proof.Machine.execVxStUs h s
  | .vtLd h => Sys2Proof.Machine.execVtLd h s
  | .vtSt h => Sys2Proof.Machine.execVtSt h s
  | .vtZero h => Sys2Proof.Machine.execVtZero h s
  | .vxScan h => Sys2Proof.Machine.execVxScan h s
  | .vxPerm h => Sys2Proof.Machine.execVxPerm h s
  | .vxPerm2 h => Sys2Proof.Machine.execVxPerm2 h s
  | .vxShufXor h => Sys2Proof.Machine.execVxShufXor h s
  | .vxShufRot h => Sys2Proof.Machine.execVxShufRot h s
  | .vxPackH h => Sys2Proof.Machine.execVxPackH h s
  | .vxPackB h => Sys2Proof.Machine.execVxPackB h s
  | .vxUnpackH h => Sys2Proof.Machine.execVxUnpackH h s
  | .vxUnpackBQ h => Sys2Proof.Machine.execVxUnpackBQ h s
  | .vxCompress h => Sys2Proof.Machine.execVxCompress h s
  | .vxExpand h => Sys2Proof.Machine.execVxExpand h s
  | .vxCompressSt h => Sys2Proof.Machine.execVxCompressSt h s
  | .vxExpandLd h => Sys2Proof.Machine.execVxExpandLd h s
  | .vtRed h => Sys2Proof.Machine.execVtRed h s
  | .sweepForm h pairs => Sys2Proof.Machine.execSweepForm h pairs s
  | .cxXln h eng => Sys2Proof.Machine.execCxXln h eng s
  | .syWait h => Sys2Proof.Machine.execSyWait h s
  | .syMark h => Sys2Proof.Machine.execSyMark h s
  | .markRelease h q => Sys2Proof.Machine.execMarkRelease h q s
  | .waitResume h => Sys2Proof.Machine.execWaitResume h s
  | .sySleep h => Sys2Proof.Machine.execSySleep h s
  | .sySig h => Sys2Proof.Machine.execSySig h s
  | .signalDeliver k => Sys2Proof.Machine.execSignalDeliver k s
  | .sySigrd h => Sys2Proof.Machine.execSySigrd h s
  | .syBar h => Sys2Proof.Machine.execSyBar h s
  | .barrierComplete c level u => Sys2Proof.Machine.execBarrierComplete c level u s
  | .barrierFail c level u => Sys2Proof.Machine.execBarrierFail c level u s
  | .syCtr h => Sys2Proof.Machine.execSyCtr h s
  | .wakeLineFire u c => Sys2Proof.Machine.execWakeLineFire u c s
  | .sleepTimeout u c t => Sys2Proof.Machine.execSleepTimeout u c t s
  | .cxShape h => Sys2Proof.Machine.execCxShape h s
  | .cxFlags h => Sys2Proof.Machine.execCxFlags h s
  | .cxFlagsClr h => Sys2Proof.Machine.execCxFlagsClr h s
  | .cxAflag h => Sys2Proof.Machine.execCxAflag h s
  | .cxTime h => Sys2Proof.Machine.execCxTime h s
  | .cxEvent h => Sys2Proof.Machine.execCxEvent h s
  | .cxYield h => Sys2Proof.Machine.execCxYield h s
  | .cxHalt h => Sys2Proof.Machine.execCxHalt h s
  | .mvGet h q => Sys2Proof.Machine.execMvGet h q s
  | .mvPut h q => Sys2Proof.Machine.execMvPut h q s
  | .mvCopy h q => Sys2Proof.Machine.execMvCopy h q s
  | .mvDescBlock h q => Sys2Proof.Machine.execMvDescBlock h q s
  | .mvDescList h q => Sys2Proof.Machine.execMvDescList h q s
  | .listEntryRead h q => Sys2Proof.Machine.execListEntryRead h q s
  | .mvDescRemote h q => Sys2Proof.Machine.execMvDescRemote h q s
  | .mvDescStream h q => Sys2Proof.Machine.execMvDescStream h q s
  | .mvAtom h q => Sys2Proof.Machine.execMvAtom h q s
  | .mvRed h q => Sys2Proof.Machine.execMvRed h q s
  | .mvFlag h q => Sys2Proof.Machine.execMvFlag h q s
  | .mvLim h q => Sys2Proof.Machine.execMvLim h q s
  | .mvCancel h q => Sys2Proof.Machine.execMvCancel h q s
  | .cancelComplete h q => Sys2Proof.Machine.execCancelComplete h q s
  | .moverEntryBegin h q => Sys2Proof.Machine.execMoverEntryBegin h q s
  | .transferIssue h q => Sys2Proof.Machine.execTransferIssue h q s
  | .transferPerformed h q k => Sys2Proof.Machine.execTransferPerformed h q k s
  | .moverEntryComplete h q => Sys2Proof.Machine.execMoverEntryComplete h q s
  | .remoteAckTimeout h q => Sys2Proof.Machine.execRemoteAckTimeout h q s
  | .streamSlotFilled h q => Sys2Proof.Machine.execStreamSlotFilled h q s
  | .streamReleaseCredit h q => Sys2Proof.Machine.execStreamReleaseCredit h q s
  | .atomicLineOp h q => Sys2Proof.Machine.execAtomicLineOp h q s
  | .rickPush h q => Sys2Proof.Machine.execRickPush h q s
  | .rickSeal h q => Sys2Proof.Machine.execRickSeal h q s
  | .rickPop h q => Sys2Proof.Machine.execRickPop h q s
  | .rickFrameFree h => Sys2Proof.Machine.execRickFrameFree h s
  | .rickStall h q => Sys2Proof.Machine.execRickStall h q s
  | .seRun st k => Sys2Proof.Machine.execSeRun st k s
  | .seGather st k => Sys2Proof.Machine.execSeGather st k s
  | .seScatter st k => Sys2Proof.Machine.execSeScatter st k s
  | .seAttn st k => Sys2Proof.Machine.execSeAttn st k s
  | .seOpt st k => Sys2Proof.Machine.execSeOpt st k s
  | .seRelayout st k => Sys2Proof.Machine.execSeRelayout st k s
  | .seDigest st k => Sys2Proof.Machine.execSeDigest st k s
  | .sePrefix st k => Sys2Proof.Machine.execSePrefix st k s
  | .seCommandAccept h => Sys2Proof.Machine.execSeCommandAccept h s
  | .seCommandStart st k => Sys2Proof.Machine.execSeCommandStart st k s
  | .seCommandComplete st k => Sys2Proof.Machine.execSeCommandComplete st k s
  | .seRunTimeLimit st k => Sys2Proof.Machine.execSeRunTimeLimit st k s
  | .digestReverify st k => Sys2Proof.Machine.execDigestReverify st k s
  | .sePatrolScrub st err => Sys2Proof.Machine.execSePatrolScrub st err s
  | .setWriteHeld h => Sys2Proof.Machine.execSetWriteHeld h s
  | .saDraw h q => Sys2Proof.Machine.execSaDraw h q s
  | .saVerify h q => Sys2Proof.Machine.execSaVerify h q s
  | .samplerRow r => Sys2Proof.Machine.execSamplerRow r s
  | .dlmExamine t => Sys2Proof.Machine.execDlmExamine t s
  | .clBcast h => Sys2Proof.Machine.execClBcast h s
  | .clReduce h => Sys2Proof.Machine.execClReduce h s
  | .collOpen l g src seq sig => Sys2Proof.Machine.execCollOpen l g src seq sig s
  | .collJoin l g src seq same diff ranks early earlyRank late lateRank => Sys2Proof.Machine.execCollJoin l g src seq same diff ranks early earlyRank late lateRank s
  | .collVerdict l g src seq kind count ranks => Sys2Proof.Machine.execCollVerdict l g src seq kind count ranks s
  | .collData l g src seq chunk idx words counts => Sys2Proof.Machine.execCollData l g src seq chunk idx words counts s
  | .collTrailer l g src seq sum wsum hash nwovf wovf nwnan wnan => Sys2Proof.Machine.execCollTrailer l g src seq sum wsum hash nwovf wovf nwnan wnan s
  | .collDone l g src seq => Sys2Proof.Machine.execCollDone l g src seq s
  | .collFinal l g src seq code flags lag slow nnamed named nwovf wovf nwnan wnan0 => Sys2Proof.Machine.execCollFinal l g src seq code flags lag slow nnamed named nwovf wovf nwnan wnan0 s
  | .collLeave l g src seq rank flags => Sys2Proof.Machine.execCollLeave l g src seq rank flags s
  | .collRootTimeout g t => Sys2Proof.Machine.execCollRootTimeout g t s
  | .collMemberTimeout g t => Sys2Proof.Machine.execCollMemberTimeout g t s
  | .writeReceived l src a tag data => Sys2Proof.Machine.execWriteReceived l src a tag data s
  | .flagReceived l src a tag value => Sys2Proof.Machine.execFlagReceived l src a tag value s
  | .reshardReceived l src a tag tlen len data => Sys2Proof.Machine.execReshardReceived l src a tag tlen len data s
  | .ackReceived l src tags counts => Sys2Proof.Machine.execAckReceived l src tags counts s
  | .nackReceived l src tag reason => Sys2Proof.Machine.execNackReceived l src tag reason s
  | .packetForward l typ hops dst src a b data => Sys2Proof.Machine.execPacketForward l typ hops dst src a b data s
  | .ident p dev port => Sys2Proof.Machine.execIdent p dev port s
  | .keepalive p count ce => Sys2Proof.Machine.execKeepalive p count ce s
  | .keepaliveSend p => Sys2Proof.Machine.execKeepaliveSend p s
  | .answer p count => Sys2Proof.Machine.execAnswer p count s
  | .timing p stratum t1 t2 t3 t4 => Sys2Proof.Machine.execTiming p stratum t1 t2 t3 t4 s
  | .timingSend p t => Sys2Proof.Machine.execTimingSend p t s
  | .credit p cls vc amount => Sys2Proof.Machine.execCredit p cls vc amount s
  | .ackseq p seq => Sys2Proof.Machine.execAckseq p seq s
  | .replay p seq => Sys2Proof.Machine.execReplay p seq s
  | .linkSilence p => Sys2Proof.Machine.execLinkSilence p s
  | .trainingTimeout p => Sys2Proof.Machine.execTrainingTimeout p s
  | .portRetrain p => Sys2Proof.Machine.execPortRetrain p s
  | .laneFail p lane => Sys2Proof.Machine.execLaneFail p lane s
  | .planEntrySend st => Sys2Proof.Machine.execPlanEntrySend st s
  | .planAckTimeout job tag => Sys2Proof.Machine.execPlanAckTimeout job tag s
  | .droveSend h q => Sys2Proof.Machine.execDroveSend h q s
  | .droveEntryDeliver ch => Sys2Proof.Machine.execDroveEntryDeliver ch s
  | .droveRelease ch rcv => Sys2Proof.Machine.execDroveRelease ch rcv s
  | .droveStall ch => Sys2Proof.Machine.execDroveStall ch s
  | .droveBreak ch => Sys2Proof.Machine.execDroveBreak ch s
  | .droveCloseDrained ch => Sys2Proof.Machine.execDroveCloseDrained ch s
  | .sqrDb ring v => Sys2Proof.Machine.execSqrDb ring v s
  | .descriptorAccept => Sys2Proof.Machine.execDescriptorAccept s
  | .resultStampWrite ring => Sys2Proof.Machine.execResultStampWrite ring s
  | .eventWrite => Sys2Proof.Machine.execEventWrite s
  | .msixSend vec t => Sys2Proof.Machine.execMsixSend vec t s
  | .resHead ring v => Sys2Proof.Machine.execResHead ring v s
  | .evqHead v => Sys2Proof.Machine.execEvqHead v s
  | .sqrCtl ring v => Sys2Proof.Machine.execSqrCtl ring v s
  | .evqCtl v => Sys2Proof.Machine.execEvqCtl v s
  | .hostBarAccess bar off write size data => Sys2Proof.Machine.execHostBarAccess bar off write size data s
  | .hostLinkDown => Sys2Proof.Machine.execHostLinkDown s
  | .hostLinkRestored t => Sys2Proof.Machine.execHostLinkRestored t s
  | .nop => Sys2Proof.Machine.execNop s
  | .partition => Sys2Proof.Machine.execPartition s
  | .ctxLoad => Sys2Proof.Machine.execCtxLoad s
  | .ctxUnload => Sys2Proof.Machine.execCtxUnload s
  | .ctxPreempt => Sys2Proof.Machine.execCtxPreempt s
  | .ctxResume => Sys2Proof.Machine.execCtxResume s
  | .rick => Sys2Proof.Machine.execRick s
  | .evalOpen => Sys2Proof.Machine.execEvalOpen s
  | .evalClose => Sys2Proof.Machine.execEvalClose s
  | .evalWindowOpen part => Sys2Proof.Machine.execEvalWindowOpen part s
  | .setDefine => Sys2Proof.Machine.execSetDefine s
  | .setRemove => Sys2Proof.Machine.execSetRemove s
  | .slotAdmit => Sys2Proof.Machine.execSlotAdmit s
  | .slotSwitch => Sys2Proof.Machine.execSlotSwitch s
  | .slotRelease => Sys2Proof.Machine.execSlotRelease s
  | .setReceive => Sys2Proof.Machine.execSetReceive s
  | .setSend => Sys2Proof.Machine.execSetSend s
  | .adpDefine => Sys2Proof.Machine.execAdpDefine s
  | .adpRemove => Sys2Proof.Machine.execAdpRemove s
  | .adpAdmit => Sys2Proof.Machine.execAdpAdmit s
  | .adpRelease => Sys2Proof.Machine.execAdpRelease s
  | .stream => Sys2Proof.Machine.execStream s
  | .drove => Sys2Proof.Machine.execDrove s
  | .group => Sys2Proof.Machine.execGroup s
  | .seHost => Sys2Proof.Machine.execSeHost s
  | .shardLoad => Sys2Proof.Machine.execShardLoad s
  | .shardLoadComplete k fin => Sys2Proof.Machine.execShardLoadComplete k fin s
  | .attest cut => Sys2Proof.Machine.execAttest cut s
  | .keyDeliver => Sys2Proof.Machine.execKeyDeliver s
  | .reloadShard => Sys2Proof.Machine.execReloadShard s
  | .spare => Sys2Proof.Machine.execSpare s
  | .throttle => Sys2Proof.Machine.execThrottle s
  | .powerState => Sys2Proof.Machine.execPowerState s
  | .standbyReturnComplete => Sys2Proof.Machine.execStandbyReturnComplete s
  | .turnArm part v => Sys2Proof.Machine.execTurnArm part v s
  | .turnResend part => Sys2Proof.Machine.execTurnResend part s
  | .turnAbort part => Sys2Proof.Machine.execTurnAbort part s
  | .turnDone part => Sys2Proof.Machine.execTurnDone part s
  | .scFlush r => Sys2Proof.Machine.execScFlush r s
  | .scFlushComplete r => Sys2Proof.Machine.execScFlushComplete r s
  | .scWayRsv r off v => Sys2Proof.Machine.execScWayRsv r off v s
  | .scPatrolScrub r ce => Sys2Proof.Machine.execScPatrolScrub r ce s
  | .usPatrolScrub u ce us oc => Sys2Proof.Machine.execUsPatrolScrub u ce us oc s
  | .refThr v => Sys2Proof.Machine.execRefThr v s
  | .devId v => Sys2Proof.Machine.execDevId v s
  | .routeCtl v => Sys2Proof.Machine.execRouteCtl v s
  | .portCtl p v => Sys2Proof.Machine.execPortCtl p v s
  | .rtRange e path v => Sys2Proof.Machine.execRtRange e path v s
  | .rxWin w field v => Sys2Proof.Machine.execRxWin w field v s
  | .fwCtlWrite cfg => Sys2Proof.Machine.execFwCtlWrite cfg s
  | .fwCtlCommit => Sys2Proof.Machine.execFwCtlCommit s
  | .bootCtlRestart => Sys2Proof.Machine.execBootCtlRestart s
  | .kemCtlNext => Sys2Proof.Machine.execKemCtlNext s
  | .timeSet v => Sys2Proof.Machine.execTimeSet v s
  | .timeCtl v => Sys2Proof.Machine.execTimeCtl v s
  | .thArm v => Sys2Proof.Machine.execThArm v s
  | .thTrip v => Sys2Proof.Machine.execThTrip v s
  | .fltArm v => Sys2Proof.Machine.execFltArm v s
  | .registerWrite a v => Sys2Proof.Machine.execRegisterWrite a v s
  | .sliceEnd u t => Sys2Proof.Machine.execSliceEnd u t s
  | .saveComplete u c => Sys2Proof.Machine.execSaveComplete u c s
  | .unitSelect u => Sys2Proof.Machine.execUnitSelect u s
  | .contextFault c => Sys2Proof.Machine.execContextFault c s
  | .scrubComplete c => Sys2Proof.Machine.execScrubComplete c s
  | .unitLogicError u => Sys2Proof.Machine.execUnitLogicError u s
  | .spareSubstitute u pass readable t => Sys2Proof.Machine.execSpareSubstitute u pass readable t s
  | .unitReturn u pass t => Sys2Proof.Machine.execUnitReturn u pass t s
  | .clusterClockFault cl spare => Sys2Proof.Machine.execClusterClockFault cl spare s
  | .scUncorrectable r tag lines => Sys2Proof.Machine.execScUncorrectable r tag lines s
  | .hbmReadError a correctable eng => Sys2Proof.Machine.execHbmReadError a correctable eng s
  | .stackFail st => Sys2Proof.Machine.execStackFail st s
  | .regulatorFault d => Sys2Proof.Machine.execRegulatorFault d s
  | .packageFault src => Sys2Proof.Machine.execPackageFault src s
  | .hbmRowSpare a => Sys2Proof.Machine.execHbmRowSpare a s
  | .hbmBankSpare a => Sys2Proof.Machine.execHbmBankSpare a s
  | .hbmPcSpare a => Sys2Proof.Machine.execHbmPcSpare a s
  | .hbmSpareCopyDone st => Sys2Proof.Machine.execHbmSpareCopyDone st s
  | .stewardWatchdog n => Sys2Proof.Machine.execStewardWatchdog n s
  | .stewardResume n => Sys2Proof.Machine.execStewardResume n s
  | .sensorRead temps => Sys2Proof.Machine.execSensorRead temps s
  | .levelChangeRelock cl => Sys2Proof.Machine.execLevelChangeRelock cl s
  | .islandStart cl => Sys2Proof.Machine.execIslandStart cl s
  | .islandStop cl => Sys2Proof.Machine.execIslandStop cl s
  | .regionGate r => Sys2Proof.Machine.execRegionGate r s
  | .regionWake r => Sys2Proof.Machine.execRegionWake r s
  | .stackSelfRefresh st => Sys2Proof.Machine.execStackSelfRefresh st s
  | .stackSrExit st => Sys2Proof.Machine.execStackSrExit st s
  | .disciplineLoss cause t => Sys2Proof.Machine.execDisciplineLoss cause t s
  | .ppsIn t => Sys2Proof.Machine.execPpsIn t s
  | .ppsOut t => Sys2Proof.Machine.execPpsOut t s
  | .fabricTimeApproach t => Sys2Proof.Machine.execFabricTimeApproach t s
  | .standbyBoot sram => Sys2Proof.Machine.execStandbyBoot sram s
  | .powering failed n => Sys2Proof.Machine.execPowering failed n s
  | .resetN => Sys2Proof.Machine.execResetN s
  | .v12Fault => Sys2Proof.Machine.execV12Fault s
  | .v3p3sbFault below => Sys2Proof.Machine.execV3p3sbFault below s
  | .refclkLoss => Sys2Proof.Machine.execRefclkLoss s
  | .packetCrcError p seq fec inv cut ord typ dst n => Sys2Proof.Machine.execPacketCrcError p seq fec inv cut ord typ dst n s
  | .moduleLost m => Sys2Proof.Machine.execModuleLost m s
  | .hostSnoop a => Sys2Proof.Machine.execHostSnoop a s
  | .cacheEnChange en => Sys2Proof.Machine.execCacheEnChange en s
  | .ref10mInReturn => Sys2Proof.Machine.execRef10mInReturn s
  | .stewardMemoryUe n => Sys2Proof.Machine.execStewardMemoryUe n s
  | .stewardBeat n => Sys2Proof.Machine.execStewardBeat n s
  | .fwStageComplete w => Sys2Proof.Machine.execFwStageComplete w s
  | .reloadShardComplete k => Sys2Proof.Machine.execReloadShardComplete k s
  | .hbmRowRepairDone st => Sys2Proof.Machine.execHbmRowRepairDone st s

end Sys2Proof.Machine
end

