-- ==== Sys2Proof/Machine/Step.lean ====
section
/-!
DEFINITION. Sys2Proof/Machine/Step.lean: one step takes the command at the front of the queue and carries it out over the rest
of the queue; on an empty queue fabric time advances by one unit of 1/16 ns (R652).
-/

namespace Sys2Proof.Machine

/-- The empty queue's step: fabric time runs on. (Log entry 1: DESIGN CHOICE.) -/
def idle (s : State) : State := { s with time := { s.time with now := s.time.now + 1 } }

/-- Log entry 1: DESIGN CHOICE. -/
def step (s : State) : Host.Outcome State Fault Refusal :=
  match s.pending with
  | [] => .next (idle s)
  | c :: rest => exec c { s with pending := rest }

/-- Puts the command that a table word spells at the front of the queue; no row of the table gives bits. -/
def State.withFetchWord (s : State) (nbits w : Nat) : State :=
  match decodeTableWord nbits w with
  | none => s
  | some c => { s with pending := c :: s.pending }

end Sys2Proof.Machine
end

