-- ==== Sys2Proof/Safety.lean ====
section
/-!
DEFINITION. Sys2Proof/Safety.lean: what a safe step and a safe run are (the device answers a next state), the canonical form of
memory, and the words in which the statements say that an instruction is ready to issue and what it leaves alone.
-/

namespace Sys2Proof.Safety

open Sys2Proof.Machine

/-- A step that answers a next state. -/
def Safe (s : State) : Prop := ∃ t, step s = .next t

/-- n steps that all answer next states. -/
def SafeRun : Nat → State → Prop
  | 0, _ => True
  | n + 1, s => ∃ t, step s = .next t ∧ SafeRun n t

end Sys2Proof.Safety

namespace Sys2Proof.Machine

/-- The canonical form of memory: addresses rise strictly, and no listed byte is the 0 that an unlisted byte reads as (log entry 2,
DESIGN CHOICE). -/
def Memory.wf (m : List Host.Cell) : Bool := Tbl.sorted m && m.all (fun c => c.2 != 0)

end Sys2Proof.Machine

namespace Sys2Proof.Claims

open Sys2Proof.Machine

/-- Operand h names hart t, which can take a step; its core is k and its context x. -/
abbrev At (s : State) (h : Nat) (t : Hart) (k : Core) (x : Ctx) : Prop :=
  hartOf s h = some t ∧ hartCore s t = some k ∧ ctxOf s (hartCtx s t) = some x

/-- The same of a hart that issues: a context that runs on its unit (Table 5.6), an instance whose stack is not held (R331). -/
abbrev Runs (s : State) (h : Nat) (t : Hart) (k : Core) (x : Ctx) : Prop := At s h t k x ∧ issues s t = true

/-- Hart t issues and stands before instruction word w of class c, fetched and checked, waits for nothing, and no register that the word
names is pending: the sequencer issues it (R234). -/
abbrev Issues (s : State) (h : Nat) (t : Hart) (k : Core) (x : Ctx) (c : Nat) (w : W64) : Prop :=
  Runs s h t k x ∧ k.ir = some w ∧ k.wait = .none ∧ seqHeld k w = false ∧ iClass w = c

/-- Entry e, no mark, stands at the head of AQn of hart t, which issues. -/
abbrev AqFront (s : State) (h n : Nat) (t : Hart) (k : Core) (x : Ctx) (e : QEnt) : Prop :=
  Runs s h t k x ∧ n < 3 ∧ (queueEnts k n).head? = some e ∧ e.mark = false ∧ iClass e.w = 4

/-- Entry e, no mark, of class c stands at the head of VQ of hart t, which issues. -/
abbrev VqFront (s : State) (h : Nat) (t : Hart) (k : Core) (x : Ctx) (c : Nat) (e : QEnt) : Prop :=
  Runs s h t k x ∧ k.vq.head? = some e ∧ e.mark = false ∧ iClass e.w = c

/-- Core k' is core k with the vector entry e complete: it has left VQ and no register of it is owed. Of the rest only the vector, mask
and tile registers, cursors and flags may differ. -/
abbrev VecDone (k k' : Core) (e : QEnt) : Prop :=
  k'.vq = k.vq.filter (fun f => f.seq != e.seq) ∧ k'.live = k.live.filter (fun p => p.1 != e.seq)
    ∧ k'.pend = k.pend.filter (fun p => p.2 != e.seq)
    ∧ { k' with v := k.v, k := k.k, t := k.t, lf := k.lf, cur := k.cur, sticky := k.sticky, vq := k.vq, live := k.live, pend := k.pend, g := k.g } = k

/-- Register vd of k' holds `val` in the active lanes, and in the others what mask and Z leave (R143); no other vector register differs. -/
abbrev VecWrote (k k' : Core) (w : W64) (vd : Nat) (val : Nat → W32) : Prop :=
  (∀ l, l < 128 → laneOf (vGet k' vd) l = if active k (iKM w) l then val l else if iZ w then 0 else laneOf (vGet k vd) l)
    ∧ ∀ r, r ≠ vd → vGet k' r = vGet k r

/-- The flag state is untouched. -/
abbrev FlagsKept (k k' : Core) : Prop := k'.lf = k.lf ∧ k'.sticky = k.sticky ∧ k'.aflag = k.aflag

/-- Core k' is core k with the load e complete: each active lane holds the little-endian word at its address, and the cursors are `cur`. -/
abbrev LanesLoaded (s : State) (k k' : Core) (e : QEnt) (addr : Nat → Nat) (cur : List (Nat × W32)) : Prop :=
  VecDone k k' e ∧ FlagsKept k k' ∧ k'.cur = cur ∧ VecWrote k k' e.w (iGD e.w) (fun l => BitVec.ofNat 32 (leNat (memBytes s (addr l) 4)))

/-- Operand h names hart t as its engines see it: a context that runs or is being saved, or an instance (R138). -/
abbrev EngAt (s : State) (h : Nat) (t : Hart) (k : Core) (x : Ctx) : Prop :=
  engHart s h = some t ∧ hartCore s t = some k ∧ ctxOf s (hartCtx s t) = some x

/-- State t with the running clock islands of s (R29): an access to a unit store may start its unit's island. -/
abbrev IslandsOf (s t : State) : State :=
  { t with pwr := { t.pwr with islands := s.pwr.islands, starts := s.pwr.starts }, flt := { t.flt with clkFault := s.flt.clkFault } }

/-- Nothing but bytes of memory and their marks differs, and the clock island of the store they lie in. -/
abbrev OnlyMemory (s t : State) : Prop :=
  { IslandsOf s t with mem := s.mem, poison := s.poison, heldData := s.heldData, count := s.count } = s

/-- Core k' and state s' are k and s with the store e complete: each active lane's word stands at its address, the highest-numbered of two lanes
at one place standing, every byte outside the words reads as before, and the cursors are `cur`. -/
abbrev LanesStored (s s' : State) (k k' : Core) (e : QEnt) (addr : Nat → Nat) (val : Nat → W32) (cur : List (Nat × W32)) : Prop :=
  OnlyMemory s s' ∧ VecDone k k' e ∧ FlagsKept k k' ∧ k'.v = k.v ∧ k'.cur = cur
    ∧ (∀ l, l ∈ activeLanes k (iKM e.w) → (∀ j, j ∈ activeLanes k (iKM e.w) → l < j → addr j ≠ addr l) → memBytes s' (addr l) 4 = leBytes 4 (val l).toNat)
    ∧ (∀ b, (∀ l, l ∈ activeLanes k (iKM e.w) → b < addr l ∨ addr l + 4 ≤ b) → memByte s' b = memByte s b)

/-- Core k' is core k, but that what its REMOTE entries have gathered may have gone out (R215). -/
abbrev CoreKept (k k' : Core) : Prop := { k' with mq := k.mq } = k

/-- What a home slice holds of byte b, if anything, goes to memory when its line is replaced, or stands there already (R309). -/
abbrev Coherent (s : State) (b : Nat) : Prop := ∀ p, p ∈ s.lines → p.1 = b / 128 → p.2.dirty = true ∨ p.2.data.getD (b % 128) 0 = memByte s b

/-- The lines that the home slices hold are listed by rising address, each with its 128 bytes (the model's own form). -/
abbrev LinesWf (s : State) : Prop := Tbl.sorted s.lines = true ∧ ∀ p, p ∈ s.lines → p.2.data.length = 128

/-- Nothing but the residents' and the instances' cores differs. -/
abbrev OnlyCores (s t : State) : Prop := { t with res := s.res, se := s.se } = s

/-- Entry e stands at the place of beginning of mover queue q of hart t, whose mover works (R361). -/
abbrev Begins (s : State) (h q : Nat) (t : Hart) (k : Core) (x : Ctx) (e : QEnt) : Prop :=
  At s h t k x ∧ q < 8 ∧ issues s t = true ∧ beginEnt (mqOf k q) = some e

/-- In mover queue q of k' the entries numbered seq are those of k changed by f; every other entry and queue stands. -/
abbrev MvChanged (k k' : Core) (q seq : Nat) (f : MvEnt → MvEnt) : Prop :=
  (mqOf k' q).ents = (mqOf k q).ents.map (fun m => if m.ent.seq = seq then f m else m) ∧ (∀ r, r ≠ q → mqOf k' r = mqOf k r)
    ∧ (mqOf k' q).limit = (mqOf k q).limit ∧ (mqOf k' q).cancel = (mqOf k q).cancel ∧ { k' with mq := k.mq } = k

/-- The answer's only change is that of an entry of mover queue q of hart t. -/
abbrev MvSets (s : State) (o : Out) (t : Hart) (k : Core) (q seq : Nat) (f : MvEnt → MvEnt) : Prop :=
  ∃ k', o = .next (setHartCore s t k') ∧ MvChanged k k' q seq f

/-- In s' mover entry e of hart t is complete (R197, R257, R292): it has left its queue, its register, if it has one, holds v and is no
longer owed, and the flags fl have reached the sticky word. -/
abbrev MvEnds (s' : State) (t : Hart) (k : Core) (q : Nat) (e : QEnt) (fl : BitVec 9) (v : W64) : Prop :=
  ∃ k', hartCore s' t = some k' ∧ (mqOf k' q).ents = (mqOf k q).ents.filter (fun m => m.ent.seq != e.seq)
    ∧ (∀ r, r ≠ q → mqOf k' r = mqOf k r) ∧ k'.live = k.live.filter (fun p => p.1 != e.seq) ∧ k'.sticky = k.sticky ||| fl.setWidth 32
    ∧ (mvDest e ≠ 0 → gGet k' (mvDest e) = v ∧ (mvDest e, e.seq) ∉ k'.pend) ∧ (∀ r, r ≠ mvDest e → gGet k' r = gGet k r)
    ∧ k'.pc = k.pc ∧ k'.v = k.v ∧ k'.k = k.k ∧ k'.t = k.t

/-- Bytes [a, a + bs.length) of the model's stores hold bs in s', and every other byte is as in s. -/
abbrev Stored (s s' : State) (a : Nat) (bs : List Byte) : Prop :=
  memBytes s' a bs.length = bs ∧ ∀ b, (b < a ∨ a + bs.length ≤ b) → memByte s' b = memByte s b

/-- The device has accepted host command h of operation opc and carries it out next (R566). -/
abbrev HostCur (s : State) (opc : Nat) (h : HostCmd) : Prop := s.host.cur = some h ∧ h.job.opc = opc

/-- In s' job j of s is complete (R572 to R574): unless it asked for none, a result with its OPCODE and TAG, CODE, CHECK, DETAIL and the
time stands in its ring. -/
abbrev JobEnds (s s' : State) (j : Job) (code check : Nat) (detail : W64) : Prop :=
  (j.nores = true → (ringOf s' j.ring).done = (ringOf s j.ring).done)
    ∧ (j.nores = false → ∃ b, (ringOf s' j.ring).done = (ringOf s j.ring).done
        ++ [{ w0 := BitVec.ofNat 64 (j.opc * 2 ^ 56 + code * 2 ^ 40 + check * 2 ^ 32 + j.tag % 2 ^ 32), w1 := detail, w2 := s.time.now, body := b }])

/-- In s' host command h of s is complete and none is current. -/
abbrev HostEnds (s s' : State) (h : HostCmd) (code check : Nat) (detail : W64) : Prop :=
  s'.host.cur = none ∧ JobEnds s s' h.job code check detail

/-- Host command h is rejected with CODE 0x01 and CHECK `check`, and has no other effect (R574). -/
abbrev HostRejects (s : State) (o : Out) (h : HostCmd) (check : Nat) : Prop :=
  ∃ s', o = .next s' ∧ HostEnds s s' h 1 check 0
    ∧ { s' with host := s.host, mem := s.mem, poison := s.poison, freeCtr := s.freeCtr } = s

/-- Of the ports only port p differs between s and s', and nothing else of the device but its pending events. -/
abbrev OnlyPort (s s' : State) (p : Nat) : Prop := (∀ q, q ≠ p → portOf s' q = portOf s q) ∧ { s' with ports := s.ports, evs := s.evs } = s

/-- Port p may have left Up between s and s': then what it held back for the order of its trunk waits no longer, and the trunk's order starts anew
(log entry 106). Of the rest only port p and the pending events differ. -/
abbrev PortLeft (s s' : State) (p : Nat) : Prop :=
  (∀ q, q ≠ p → portOf s' q = portOf s q)
    ∧ { s' with ports := s.ports, evs := s.evs, fab := { s'.fab with rxT := s.fab.rxT, rxWait := s.fab.rxWait, rxHold := s.fab.rxHold } } = s
    ∧ (isUp s p = false → s'.fab = s.fab)
    ∧ (isUp s p = true → Tbl.find? s'.fab.rxT (rxTrunk s p) = some 65536 ∧ (∀ t, t ≠ rxTrunk s p → Tbl.find? s'.fab.rxT t = Tbl.find? s.fab.rxT t)
        ∧ s'.fab.rxHold = s.fab.rxHold.filter (fun k => k.key != rxTrunk s p)
        ∧ ∀ k, k ∈ s'.fab.rxWait → k ∈ s.fab.rxWait ∨ (k ∈ s.fab.rxHold ∧ k.key = rxTrunk s p))

/-- One event has been detected in s' since s, with the code, class and arguments given, at the time of s' (R577). -/
abbrev OneEvent (s s' : State) (code cls a0 a1 : Nat) : Prop :=
  s'.evs = s.evs ++ [{ code := code, cls := cls, arg0 := BitVec.ofNat 32 a0, arg1 := BitVec.ofNat 64 a1, time := s'.time.now }]

/-- In s' the member of group g that was active in s has completed with a code (R555, Table 14.12): the group is idle and shows it, the device
counts it, and the CQ entry has left its queue with the status in its register while the context lives. -/
abbrev CollEnds (s s' : State) (g code : Nat) : Prop :=
  (grpOf s' g).active = none ∧ (grpOf s' g).lastCode = code ∧ (grpOf s' g).lastSeq = cSeq (collOf s g).desc
    ∧ s'.fab.collDone = s.fab.collDone + (if code = 0 then 1 else 0) ∧ s'.fab.collFailed = s.fab.collFailed + (if code = 1 then 1 else 0)
    ∧ s'.fab.collSpoiled = s.fab.collSpoiled + (if code = 2 then 1 else 0)
    ∧ ∀ r, live s (grpOf s g).ctx = true → resOf s (collOf s g).unit (grpOf s g).ctx = some r → ∃ r', resOf s' (collOf s g).unit (grpOf s g).ctx = some r'
        ∧ r'.core.cq = r.core.cq.filter (fun e => e.seq != (collOf s g).ent.seq)
        ∧ (iQD (collOf s g).ent.w ≠ 0 → gGet r'.core (iQD (collOf s g).ent.w) = statusWord code (cSeq (collOf s g).desc))

/-- A packet with header l is the next of its link, and with ORD = 1 the next of its trunk, and none before it waits (R517, R527, R530). -/
abbrev Arrives (s : State) (l : LinkHdr) : Prop :=
  linkOk s l = true ∧ s.fab.rxWait = [] ∧ (∀ r, r ∈ s.fab.rxHold → r.key ≠ rxTrunk s l.port)
    ∧ (l.ord = true → rxExpect s (rxTrunk s l.port) = 65536 ∨ rxExpect s (rxTrunk s l.port) = l.tseq % 65536)

/-- Between s and s' the link of header l has taken in a payload of n bytes of a packet type, and with `freed` its buffers are free again: the
next link sequence is expected, sixteen packets without ACKSEQ send one, and freed buffers send their credit (R517, R523). No other port, and of
this one nothing else, differs. -/
abbrev TookIn (s s' : State) (l : LinkHdr) (typ n : Nat) (freed : Bool) : Prop :=
  let x := portOf s l.port
  let k := pktsOf n
  (∀ q, q ≠ l.port → portOf s' q = portOf s q)
    ∧ portOf s' l.port = { x with
        rxSeq := (x.rxSeq + k) % 65536, rxBad := false, rxBytes := x.rxBytes + BitVec.ofNat 64 (32 * k + 16 * ((n + 15) / 16))
        unacked := if 16 ≤ x.unacked + k then 0 else x.unacked + k
        words := x.words ++ (if 16 ≤ x.unacked + k then [{ kind := 5, args := [(x.rxSeq + k + 65535) % 65536] }] else [])
          ++ (if freed then [{ kind := 4, args := [typClass typ, if l.vc1 then 1 else 0, k] }] else []) }

/-- The fabric block's record, but for the place in the trunks' orders. -/
abbrev SameFab (f f' : FabSt) : Prop := { f' with rxT := f.rxT } = f

/-- A collective message from device src with header l reaches active member c of group x = g and is of its collective, and the stores it needs
can be reached. -/
abbrev CollGets (s : State) (l : LinkHdr) (g src seq : Nat) (x : GroupSt) (c : CollSt) : Prop :=
  Arrives s l ∧ collWaits s g = false ∧ grpOf s g = x ∧ x.defined = true ∧ (neighbours x).contains src = true ∧ x.active = some c ∧ c.phase ≠ .idle
    ∧ x.tombs.contains seq = false ∧ c.seq = seq

/-- Only the port's own record of what came in differs, and the place in its trunk's order. -/
abbrev OnlyReceipt (s s' : State) (l : LinkHdr) : Prop :=
  (∃ n, TookIn s s' l 6 n true) ∧ SameFab s.fab s'.fab ∧ { s' with ports := s.ports, fab := s.fab } = s

/-- Besides the receipt only group g differs, and of it only its active member and the OPENs and left collectives it keeps. -/
abbrev OnlyGroup (s s' : State) (l : LinkHdr) (g : Nat) : Prop :=
  (∃ n, TookIn s s' l 6 n true) ∧ SameFab s.fab s'.fab ∧ (∀ z, z ≠ g → grpOf s' z = grpOf s z)
    ∧ { grpOf s' g with active := (grpOf s g).active, opens := (grpOf s g).opens, tombs := (grpOf s g).tombs } = grpOf s g
    ∧ { s' with ports := s.ports, fab := s.fab, groups := s.groups } = s

/-- Of the host interface only ring r differs, and of the rest only what is written to host memory and detected as an event. -/
abbrev OnlyRing (s s' : State) (r : Nat) : Prop :=
  (∀ q, q ≠ r → ringOf s' q = ringOf s q) ∧ { s'.host with rings := s.host.rings } = s.host
    ∧ { s' with host := s.host, evs := s.evs, mem := s.mem, poison := s.poison, freeCtr := s.freeCtr } = s

end Sys2Proof.Claims
end

