-- ==== Sys2Proof/Certificates/Slice0/Obligations.lean ====
section
/-!
DEFINITION. Sys2Proof/Certificates/Slice0/Obligations.lean: the statements for the provers, family by family. A statement over several
operations is the conjunction of named parts (Claims), each with its own docstring.
-/

open Sys2Proof Sys2Proof.Machine

/-! ## The queue (the block's step) -/

/-- A step carries out the command at the front of the queue over the rest of the queue. -/
def Obligations.StepRunsFront : Prop :=
  ∀ (c : Instr) (rest : List Instr) (s : State), s.pending = c :: rest → step s = exec c { s with pending := rest }

/-- On an empty queue nothing but fabric time moves, by one unit of 1/16 ns (the model's choice, log entry 1). -/
def Sys2Proof.Claims.StepIdleAdvancesTime : Prop :=
  ∀ s : State, s.pending = [] → ∃ t, step s = .next t ∧ t.time.now = s.time.now + 1 ∧ { t with time := s.time } = s
    ∧ { t.time with now := s.time.now } = s.time

/-- Every command of the table is carried out: none stops the device with a fault of the model or is turned away. -/
def Sys2Proof.Claims.EveryCommandAnswersNext : Prop := ∀ (c : Instr) (s : State), ∃ t, exec c s = .next t

/-- Whatever the queue holds, the device is still running after any number of steps. -/
def Sys2Proof.Claims.EveryRunIsSafe : Prop := ∀ (n : Nat) (s : State), Safety.SafeRun n s

/-! ## The sequencer: fetch, dispatch and the scalar classes 0x0 to 0x3 -/

/-- R185, R228, R334: a fetch by a sequencer that can take up an instruction. With no extent that grants X it is an extent fault at PC;
a line the instruction cache does not hold is asked for; a word that is found is judged in the order of R228. -/
def Sys2Proof.Claims.InstructionFetchOutcomes : Prop :=
  ∀ (s : State) (h : Nat) (t : Hart) (k : Core) (x : Ctx), Claims.Runs s h t k x → k.wait = .none → k.ir = none → k.miss = none →
    (fetchAt s t k x = .denied → exec (.instructionFetch h) s = .next (faultAt s t fExtent k.pc))
    ∧ (∀ l, fetchAt s t k x = .miss l → exec (.instructionFetch h) s = .next (setHartCore s t { k with miss := some l }))
    ∧ (∀ w, fetchAt s t k x = .word w →
        (0xD ≤ iClass w → exec (.instructionFetch h) s = .next (faultAt s t fIllegal k.pc))
        ∧ (iClass w < 0xD → pGet k (iPred w) = iNeg w →
            exec (.instructionFetch h) s = .next (setHartCore s t (retire k)))
        ∧ (iClass w < 0xD → pGet k (iPred w) ≠ iNeg w → (wordOk w = false ∨ (isInst t = true ∧ progOk w = false)) →
            exec (.instructionFetch h) s = .next (faultAt s t fIllegal k.pc))
        ∧ (iClass w < 0xD → pGet k (iPred w) ≠ iNeg w → wordOk w = true → (isInst t = true → progOk w = true) →
            exec (.instructionFetch h) s = .next (setHartCore s t { k with ir := some w })))

/-- R185: a fetch on a unit finds a word only through an extent of the context that grants X, and where no extent grants X at PC the fetch is
denied. -/
def Sys2Proof.Claims.FetchNeedsXPermission : Prop :=
  ∀ (s : State) (u c : Nat) (k : Core) (x : Ctx),
    (∀ w, fetchAt s (.res u c) k x = .word w →
      ∃ e, e ∈ x.extents ∧ e.x = true ∧ e.cbase ≤ k.pc.toNat ∧ k.pc.toNat < e.cbase + e.size * 4096)
    ∧ ((∀ e ∈ x.extents, e.cbase ≤ k.pc.toNat → k.pc.toNat < e.cbase + e.size * 4096 → e.x = false) → fetchAt s (.res u c) k x = .denied)

/-- R45, R46 and Table 1.1a, as log entry 97 reads them: a fetch through an extent that maps PC to a unit-store window is an extent fault at PC. -/
def Sys2Proof.Claims.WindowFetchFaults : Prop :=
  ∀ (s : State) (h u c : Nat) (k : Core) (x : Ctx) (e : Extent), Claims.Runs s h (.res u c) k x → k.wait = .none → k.ir = none → k.miss = none →
    findExt x k.pc.toNat = some e → isUs (extDev e k.pc.toNat) = true →
    exec (.instructionFetch h) s = .next (faultAt s (.res u c) fExtent k.pc)

/-- R186, R310: a fill whose memory can be reached puts the line read through the extents into the unit's cache under the context's
identifier, or takes a poison fault. Beside the unit's cache and the core it leaves what the read itself leaves. -/
def Sys2Proof.Claims.IcacheFillCompletes : Prop :=
  ∀ (s : State) (h u c l : Nat) (k : Core) (x : Ctx), Claims.Runs s h (.res u c) k x → k.miss = some l →
    (devPieces x (l * 256) 256).any (fun p => addrWaits s p.1) = false →
    let r := ctxRead s x (l * 256) 256 0
    (r.2.2 = false → ∃ t, exec (.icacheFill h) s = .next t
        ∧ Tbl.find? (unitOf t u).icache (c * 2 ^ 40 + l) = some r.2.1
        ∧ (unitOf t u).running = (unitOf s u).running ∧ (∀ v, v ≠ u → unitOf t v = unitOf s v) ∧ t.ctxs = s.ctxs
        ∧ (hartCore t (.res u c)).map (fun k' => k'.miss) = some none
        ∧ { t with units := s.units, res := s.res, freeCtr := s.freeCtr } = { r.1 with units := s.units, res := s.res, freeCtr := s.freeCtr })
    ∧ (r.2.2 = true → ∃ t, exec (.icacheFill h) s = .next t
        ∧ t.units = s.units ∧ (x.faulted = false → (ctxOf t c).map (fun y => (y.faulted, y.fkind, y.fpc)) = some (true, fPoison, k.pc.toNat)))

/-- R190, R154, R155, R192: an engine instruction whose registers are final enters the queue of its class and the sequencer goes on; its
entry holds the word, the PC and the captured registers, and its destination is pending. A full queue holds it. -/
def Sys2Proof.Claims.EngineDispatchCompletes : Prop :=
  ∀ (s : State) (h : Nat) (t : Hart) (k : Core) (x : Ctx) (w : W64), Claims.Runs s h t k x → k.ir = some w → isEngine w = true →
    engHeld k w = false →
    (queueFull k (queueOf w) = true → exec (.engineDispatch h) s = .next s)
    ∧ (queueFull k (queueOf w) = false →
        ∃ k', exec (.engineDispatch h) s = .next (setHartCore s t k') ∧ k'.pc = k.pc + 8 ∧ k'.ir = none ∧ k'.g = k.g ∧ k'.p = k.p
          ∧ k'.seq = k.seq + 1 ∧ k'.live = k.live ++ [(k.seq, queueOf w)]
          ∧ k'.pend = (if destReg w = 0 then k.pend else k.pend ++ [(destReg w, k.seq)])
          ∧ queueEnts k' (queueOf w) = queueEnts k (queueOf w)
              ++ [{ w := w, pc := k.pc, g := k.g.filter (fun p => (capRegs w).contains p.1), seq := k.seq }])

/-- Table 6.4, R236, R237: the two-operand operations of class 0x0 write gd and go on to the next instruction. -/
def Sys2Proof.Claims.ScalarAluResults : Prop :=
  ∀ (s : State) (h : Nat) (t : Hart) (k : Core) (x : Ctx) (w : W64), Claims.Issues s h t k x 0 w →
    let a := gGet k (iGA w)
    let b := gGet k (iGB w)
    let writes (v : W64) : Out := .next (setHartCore s t (retire (gSet k (iGD w) v)))
    (iOp w = 0x00 → exec (.add h) s = writes (a + b)) ∧ (iOp w = 0x01 → exec (.add h) s = writes (a - b))
    ∧ (iOp w = 0x02 → exec (.add h) s = writes (a &&& b)) ∧ (iOp w = 0x03 → exec (.add h) s = writes (a ||| b))
    ∧ (iOp w = 0x04 → exec (.add h) s = writes (a ^^^ b)) ∧ (iOp w = 0x05 → exec (.add h) s = writes (a &&& ~~~b))
    ∧ (iOp w = 0x06 → exec (.shift h) s = writes (a <<< (b.toNat % 64))) ∧ (iOp w = 0x07 → exec (.shift h) s = writes (a >>> (b.toNat % 64)))
    ∧ (iOp w = 0x08 → exec (.shift h) s = writes (a.sshiftRight (b.toNat % 64)))
    ∧ (iOp w = 0x09 → exec (.mul h) s = writes (a * b))
    ∧ (iOp w = 0x0A → exec (.mul h) s = writes (BitVec.ofInt 64 (a.toInt * b.toInt / 2 ^ 64)))
    ∧ (iOp w = 0x0B → exec (.mul h) s = writes (BitVec.ofNat 64 (a.toNat * b.toNat / 2 ^ 64)))
    ∧ (iOp w = 0x0C → exec (.div h) s = writes (if b = 0 then -1 else BitVec.ofInt 64 (a.toInt.tdiv b.toInt)))
    ∧ (iOp w = 0x0D → exec (.div h) s = writes (if b = 0 then -1 else BitVec.ofNat 64 (a.toNat / b.toNat)))
    ∧ (iOp w = 0x0E → exec (.div h) s = writes (if b = 0 then a else BitVec.ofInt 64 (a.toInt.tmod b.toInt)))
    ∧ (iOp w = 0x0F → exec (.div h) s = writes (if b = 0 then a else BitVec.ofNat 64 (a.toNat % b.toNat)))
    ∧ (iOp w = 0x10 → exec (.min h) s = writes (if b.slt a then b else a)) ∧ (iOp w = 0x11 → exec (.min h) s = writes (if a.slt b then b else a))
    ∧ (iOp w = 0x12 → exec (.min h) s = writes (if b.ult a then b else a)) ∧ (iOp w = 0x13 → exec (.min h) s = writes (if a.ult b then b else a))
    ∧ (iOp w = 0x14 → exec (.slt h) s = writes (if a.slt b then 1 else 0)) ∧ (iOp w = 0x15 → exec (.slt h) s = writes (if a.ult b then 1 else 0))
    ∧ (iOp w = 0x16 → exec (.sel h) s = writes (if pGet k (iPS w) then a else b))

/-- Table 6.4: `clz`, `ctz` and `popc` write the count of leading zeros, of trailing zeros (64 for zero) and of set bits. -/
def Sys2Proof.Claims.ScalarCountResults : Prop :=
  ∀ (s : State) (h : Nat) (t : Hart) (k : Core) (x : Ctx) (w : W64), Claims.Issues s h t k x 0 w → inRange 0x18 0x1A (iOp w) = true →
    ∃ n : Nat, exec (.clz h) s = .next (setHartCore s t (retire (gSet k (iGD w) (BitVec.ofNat 64 n))))
      ∧ (let a := gGet k (iGA w)
         (iOp w = 0x18 → n ≤ 64 ∧ (∀ i, 64 - n ≤ i → a.getLsbD i = false) ∧ (n < 64 → a.getLsbD (63 - n) = true))
         ∧ (iOp w = 0x19 → n ≤ 64 ∧ (∀ i, i < n → a.getLsbD i = false) ∧ (n < 64 → a.getLsbD n = true))
         ∧ (iOp w = 0x1A → n = ((List.range 64).filter (fun i => a.getLsbD i)).length))

/-- Table 6.4: comparisons and predicate logic write pd, `p.get` reads the predicates with bit 0 as 1, `p.put` writes p1 to p7. -/
def Sys2Proof.Claims.PredicateResults : Prop :=
  ∀ (s : State) (h : Nat) (t : Hart) (k : Core) (x : Ctx) (w : W64), Claims.Issues s h t k x 0 w →
    let a := gGet k (iGA w)
    let b := gGet k (iGB w)
    let pa := pGet k (iGA w % 8)
    let pb := pGet k (iGB w % 8)
    let writes (v : Bool) : Out := .next (setHartCore s t (retire (pSet k (iGD w % 8) v)))
    (iOp w = 0x20 → exec (.pCmp h) s = writes (a == b)) ∧ (iOp w = 0x21 → exec (.pCmp h) s = writes (a != b))
    ∧ (iOp w = 0x22 → exec (.pCmp h) s = writes (a.slt b)) ∧ (iOp w = 0x23 → exec (.pCmp h) s = writes (a.ult b))
    ∧ (iOp w = 0x24 → exec (.pCmp h) s = writes (a.sle b)) ∧ (iOp w = 0x25 → exec (.pCmp h) s = writes (a.ule b))
    ∧ (iOp w = 0x28 → exec (.pAnd h) s = writes (pa && pb)) ∧ (iOp w = 0x29 → exec (.pAnd h) s = writes (pa || pb))
    ∧ (iOp w = 0x2A → exec (.pAnd h) s = writes (pa ^^ pb)) ∧ (iOp w = 0x2B → exec (.pAnd h) s = writes (pa && !pb))
    ∧ (iOp w = 0x2C → ∃ v : W64, exec (.pGet h) s = .next (setHartCore s t (retire (gSet k (iGD w) v)))
        ∧ ∀ j, v.getLsbD j = (decide (j < 8) && pGet k j))
    ∧ (iOp w = 0x2D → ∃ q : BitVec 8, exec (.pPut h) s = .next (setHartCore s t (retire { k with p := q }))
        ∧ ∀ j, 1 ≤ j → j < 8 → pGet { k with p := q } j = a.getLsbD j)

/-- R238, Table 6.5: IMM is sign-extended for `addi`, `muli`, the comparisons and `li`, zero-extended for `andi`, `ori` and `xori`; shifts
use IMM[5:0], and a shift with another bit of IMM set is illegal; `li.hi` joins IMM to the low half of ga. -/
def Obligations.ScalarImmediateResults : Prop :=
  ∀ (s : State) (h : Nat) (t : Hart) (k : Core) (x : Ctx) (w : W64), Claims.Issues s h t k x 1 w →
    let a := gGet k (iGA w)
    let si := sext 32 (iImm32 w)
    let zi := BitVec.ofNat 64 (iImm32 w)
    let n := iImm32 w % 64
    let writes (v : W64) : Out := .next (setHartCore s t (retire (gSet k (iGD w) v)))
    let sets (v : Bool) : Out := .next (setHartCore s t (retire (pSet k (iGD w % 8) v)))
    (iOp w = 0x00 → exec (.addi h) s = writes (a + si)) ∧ (iOp w = 0x02 → exec (.addi h) s = writes (a &&& zi))
    ∧ (iOp w = 0x03 → exec (.addi h) s = writes (a ||| zi)) ∧ (iOp w = 0x04 → exec (.addi h) s = writes (a ^^^ zi))
    ∧ (iOp w = 0x06 → exec (.shli h) s = writes (a <<< n)) ∧ (iOp w = 0x07 → exec (.shli h) s = writes (a >>> n))
    ∧ (iOp w = 0x08 → exec (.shli h) s = writes (a.sshiftRight n)) ∧ (iOp w = 0x09 → exec (.muli h) s = writes (a * si))
    ∧ (iOp w = 0x14 → exec (.slti h) s = writes (if a.slt si then 1 else 0)) ∧ (iOp w = 0x15 → exec (.slti h) s = writes (if a.ult si then 1 else 0))
    ∧ (iOp w = 0x30 → exec (.li h) s = writes si)
    ∧ (iOp w = 0x31 → exec (.liHi h) s = writes ((BitVec.ofNat 32 (iImm32 w)) ++ (a.setWidth 32)))
    ∧ (iOp w = 0x20 → exec (.pCmpi h) s = sets (a == si)) ∧ (iOp w = 0x21 → exec (.pCmpi h) s = sets (a != si))
    ∧ (iOp w = 0x22 → exec (.pCmpi h) s = sets (a.slt si)) ∧ (iOp w = 0x23 → exec (.pCmpi h) s = sets (a.ult si))
    ∧ (iOp w = 0x24 → exec (.pCmpi h) s = sets (a.sle si)) ∧ (iOp w = 0x25 → exec (.pCmpi h) s = sets (a.ule si))
    ∧ ∀ v : W64, iClass v = 1 → inRange 6 8 (iOp v) = true → 64 ≤ iImm32 v → wordOk v = false

/-- R239, Table 6.6: where each branch goes and what it links. `br.dec` counts ga down and goes to its target while ga is not 0. -/
def Sys2Proof.Claims.BranchTargets : Prop :=
  ∀ (s : State) (h : Nat) (t : Hart) (k : Core) (x : Ctx) (w : W64), Claims.Issues s h t k x 2 w →
    let a := gGet k (iGA w)
    let target : Addr := k.pc + BitVec.ofInt 48 (sgn 32 (iImm32 w) * 8)
    let link : W64 := (k.pc + 8).setWidth 64
    let k1 := gSet k (iGA w) (a - 1)
    (iOp w = 0 → exec (.br h) s = .next (setHartCore s t (jump k target)))
    ∧ (iOp w = 1 → exec (.brCall h) s = .next (setHartCore s t (jump (gSet k (iGD w) link) target)))
    ∧ (iOp w = 2 → a.toNat % 8 = 0 → exec (.brInd h) s = .next (setHartCore s t (jump k (a.setWidth 48))))
    ∧ (iOp w = 3 → a.toNat % 8 = 0 → exec (.brCallInd h) s = .next (setHartCore s t (jump (gSet k (iGD w) link) (a.setWidth 48))))
    ∧ (iOp w = 4 → gGet k1 (iGA w) ≠ 0 → exec (.brDec h) s = .next (setHartCore s t (jump k1 target)))
    ∧ (iOp w = 4 → gGet k1 (iGA w) = 0 → exec (.brDec h) s = .next (setHartCore s t (retire k1)))

/-- R241: an indirect branch to a target that is not a multiple of 8 is an illegal-instruction fault at the branch. -/
def Sys2Proof.Claims.IndirectBranchMisalignedFaults : Prop :=
  ∀ (s : State) (h : Nat) (t : Hart) (k : Core) (x : Ctx) (w : W64), Claims.Issues s h t k x 2 w → (gGet k (iGA w)).toNat % 8 ≠ 0 →
    (iOp w = 2 → exec (.brInd h) s = .next (faultAt s t fIllegal k.pc))
    ∧ (iOp w = 3 → exec (.brCallInd h) s = .next (faultAt s t fIllegal k.pc))

/-- R188, R242, Table 6.7: a scalar access of 2^n bytes at ga + IMM, aligned and within the local store; `ld` extends what it reads, `st`
writes the low bytes of gb; memory outside the stored bytes reads as before. -/
def Sys2Proof.Claims.ScalarLoadStoreResults : Prop :=
  ∀ (s : State) (h : Nat) (t : Hart) (k : Core) (x : Ctx) (w : W64), Claims.Issues s h t k x 3 w →
    let off := gGet k (iGA w) + sext 32 (iImm32 w)
    let n := 2 ^ (iOp w % 4)
    let a := localAddr s t x off.toNat
    off.toNat % n = 0 → off.toNat + n ≤ localSize s t x → rawPoison s a n = false →
    (iOp w ≤ 3 → exec (.ld h) s = .next (setHartCore s t (retire (gSet k (iGD w) (sext (8 * n) (leNat (memBytes s a n)))))))
    ∧ (4 ≤ iOp w → iOp w ≤ 6 →
        exec (.ld h) s = .next (setHartCore s t (retire (gSet k (iGD w) (BitVec.ofNat 64 (leNat (memBytes s a n)))))))
    ∧ (8 ≤ iOp w → iOp w ≤ 0xB → ∃ s', exec (.st h) s = .next (setHartCore s' t (retire k))
        ∧ memBytes s' a n = leBytes n (gGet k (iGB w)).toNat
        ∧ (∀ b, b < a ∨ a + n ≤ b → memByte s' b = memByte s b)
        ∧ Claims.OnlyMemory s s')

/-- R188, R242, R273, R274: an access that is not aligned to its own size or leaves the share is an extent fault when it issues, and one
that meets poison is a poison fault; nothing is read or written. -/
def Sys2Proof.Claims.ScalarAccessFaults : Prop :=
  ∀ (s : State) (h : Nat) (t : Hart) (k : Core) (x : Ctx) (w : W64), Claims.Issues s h t k x 3 w →
    let off := gGet k (iGA w) + sext 32 (iImm32 w)
    let n := 2 ^ (iOp w % 4)
    ((off.toNat % n ≠ 0 ∨ localSize s t x < off.toNat + n) →
      (iOp w ≤ 6 → exec (.ld h) s = .next (faultAt s t fExtent k.pc))
      ∧ (8 ≤ iOp w → iOp w ≤ 0xB → exec (.st h) s = .next (faultAt s t fExtent k.pc)))
    ∧ (off.toNat % n = 0 → off.toNat + n ≤ localSize s t x → rawPoison s (localAddr s t x off.toNat) n = true →
      (iOp w ≤ 6 → exec (.ld h) s = .next (faultAt s t fPoison k.pc))
      ∧ (8 ≤ iOp w → iOp w ≤ 0xB → isInst t = false → exec (.st h) s = .next (faultAt s t fPoison k.pc)))

/-- R183, R236: g0 reads as zero and p0 as 1, whatever is written to them, and a write to another register changes that one alone. -/
def Sys2Proof.Claims.HardwiredRegisters : Prop :=
  ∀ (k : Core) (v : W64) (b : Bool),
    gGet (gSet k 0 v) 0 = 0 ∧ gSet k 0 v = k ∧ pGet (pSet k 0 b) 0 = true ∧ pSet k 0 b = k
    ∧ (∀ r, r ≠ 0 → gGet (gSet k r v) r = v) ∧ (∀ r q, r ≠ q → gGet (gSet k r v) q = gGet k q)
    ∧ (retire k).pc = k.pc + 8 ∧ (retire k).ir = none ∧ (retire k).g = k.g ∧ (retire k).p = k.p
    ∧ (∀ p, p ≠ 0 → p < 8 → pGet (pSet k p b) p = b) ∧ (∀ p q, p < 8 → q < 8 → p ≠ q → pGet (pSet k p b) q = pGet k q)

/-- The scalar classes but loads, stores and indirect branches change nothing but the issuing hart's core: no memory, no context, no
other resident, whatever the state and whether or not they issue. -/
def Obligations.ScalarFrame : Prop :=
  ∀ (s t : State) (h : Nat) (c : Instr),
    c ∈ [.add h, .shift h, .mul h, .div h, .min h, .slt h, .sel h, .clz h, .pCmp h, .pAnd h, .pGet h, .pPut h, .addi h, .shli h, .muli h,
      .slti h, .pCmpi h, .li h, .liHi h, .br h, .brCall h, .brDec h] →
    exec c s = .next t →
      Claims.OnlyCores s t
      ∧ (∀ key, (∀ u c', hartOf s h = some (.res u c') → key ≠ resKey u c') → Tbl.find? t.res key = Tbl.find? s.res key)
      ∧ (∀ key, (Tbl.find? t.res key).map (fun r => { r with core := {} }) = (Tbl.find? s.res key).map (fun r => { r with core := {} }))
      ∧ (∀ st, { seOf t st with inst := (seOf s st).inst } = seOf s st)
      ∧ (∀ st i, hartOf s h ≠ some (.inst st i) → Tbl.find? (seOf t st).inst i = Tbl.find? (seOf s st).inst i)


/-! ## The matrix arrays (class 0x4) -/

/-- R114, R115, R117, R122, Table 3.5: `mm.clr` opens a free bank cleared to +0, with the tile's M and N, and the array takes the instruction
from the queue; `mm.acc` accumulates into the open bank of the same shape. -/
def Sys2Proof.Claims.MatrixAccumulateAccepted : Prop :=
  ∀ (s : State) (h n : Nat) (t : Hart) (k : Core) (x : Ctx) (e : QEnt), Claims.AqFront s h n t k x e →
    mmValuesOk e = true → mmInShare e (localSize s t x) = true →
    let a := arrOf k n
    (iOp e.w = 0 → openBank a = none → blockTaken s t k = false → ∀ b, freeBank a = some b →
      ∃ k', exec (.mmClr h n) s = .next (setHartCore s t k')
        ∧ openBank (arrOf k' n) = some b
        ∧ bankOf (arrOf k' n) b = { st := .opened, m := dimM (cap e (iMK e.w)), n := dimN (cap e (iMK e.w)), int := isInt8 (iFA e.w), cells := zeroCells }
        ∧ bankOf (arrOf k' n) (!b) = bankOf a (!b)
        ∧ (arrOf k' n).work = a.work ++ [{ ent := e, k := 0, bank := b }] ∧ (arrOf k' n).feed = a.feed ∧ (arrOf k' n).blk = a.blk
        ∧ queueEnts k' n = (queueEnts k n).filter (fun f => f.seq != e.seq)
        ∧ { k' with arr := k.arr, aq0 := k.aq0, aq1 := k.aq1, aq2 := k.aq2 } = k)
    ∧ (iOp e.w = 1 → ∀ b, openBank a = some b → (bankOf a b).m = dimM (cap e (iMK e.w)) → (bankOf a b).n = dimN (cap e (iMK e.w)) →
        (bankOf a b).int = isInt8 (iFA e.w) →
      ∃ k', exec (.mmAcc h n) s = .next (setHartCore s t k')
        ∧ bankOf (arrOf k' n) b = bankOf a b ∧ bankOf (arrOf k' n) (!b) = bankOf a (!b)
        ∧ (arrOf k' n).work = a.work ++ [{ ent := e, k := 0, bank := b }]
        ∧ queueEnts k' n = (queueEnts k n).filter (fun f => f.seq != e.seq)
        ∧ { k' with arr := k.arr, aq0 := k.aq0, aq1 := k.aq1, aq2 := k.aq2 } = k)

/-- R122, R127 to R129: `mm.drain` takes the open bank into draining, to a tile register that is not busy or to aligned rows of the
share. -/
def Sys2Proof.Claims.MatrixDrainAccepted : Prop :=
  ∀ (s : State) (h n : Nat) (t : Hart) (k : Core) (x : Ctx) (e : QEnt) (b : Bool), Claims.AqFront s h n t k x e →
    openBank (arrOf k n) = some b →
    let y := bankOf (arrOf k n) b
    let drains (k' : Core) : Prop := bankOf (arrOf k' n) b = { y with st := .draining, ent := e, started := false } ∧ bankOf (arrOf k' n) (!b) = bankOf (arrOf k n) (!b)
        ∧ openBank (arrOf k' n) = (if b = false ∧ (arrOf k n).b1.st = .opened then some true else none)
        ∧ queueEnts k' n = (queueEnts k n).filter (fun f => f.seq != e.seq)
        ∧ { k' with arr := k.arr, aq0 := k.aq0, aq1 := k.aq1, aq2 := k.aq2 } = k
    (iOp e.w = 2 → tileBusy k (iDst e.w) = false → ∃ k', exec (.mmDrainTile h n) s = .next (setHartCore s t k') ∧ drains k')
    ∧ (iOp e.w = 3 → drainOff e % 32 = 0 → roundUp (y.n * 4) 32 ≤ drainStride e →
        drainOff e + (y.m - 1) * drainStride e + y.n * 4 ≤ localSize s t x → ∃ k', exec (.mmDrainUs h n) s = .next (setHartCore s t k') ∧ drains k')

/-- R122 to R126, R129, R117: what an array refuses, reported at the PC captured at dispatch; `mm.clr` waits for a free bank. -/
def Sys2Proof.Claims.MatrixAcceptanceFaults : Prop :=
  ∀ (s : State) (h n : Nat) (t : Hart) (k : Core) (x : Ctx) (e : QEnt), Claims.AqFront s h n t k x e →
    (iOp e.w = 0 → (openBank (arrOf k n)).isSome = true → exec (.mmClr h n) s = .next (faultEnt s t fIllegal e))
    ∧ (iOp e.w = 0 → openBank (arrOf k n) = none → (blockTaken s t k = true ∨ freeBank (arrOf k n) = none) → exec (.mmClr h n) s = .next s)
    ∧ (iOp e.w = 0 → openBank (arrOf k n) = none → blockTaken s t k = false → (freeBank (arrOf k n)).isSome = true → mmValuesOk e = false →
        exec (.mmClr h n) s = .next (faultEnt s t fIllegal e))
    ∧ (iOp e.w = 0 → openBank (arrOf k n) = none → blockTaken s t k = false → (freeBank (arrOf k n)).isSome = true → mmValuesOk e = true →
        mmInShare e (localSize s t x) = false → exec (.mmClr h n) s = .next (faultEnt s t fExtent e))
    ∧ (openBank (arrOf k n) = none →
        (iOp e.w = 1 → exec (.mmAcc h n) s = .next (faultEnt s t fIllegal e))
        ∧ (iOp e.w = 2 → exec (.mmDrainTile h n) s = .next (faultEnt s t fIllegal e))
        ∧ (iOp e.w = 3 → exec (.mmDrainUs h n) s = .next (faultEnt s t fIllegal e)))

/-- R109 to R121, R75 to R81, R104, R105: a feeder holds the next k-step's elements of A and B in order; the array adds a k-step, or a
whole MX block with its last k-step, to every cell of the bank, and the instruction completes with its last k-step. -/
def Sys2Proof.Claims.MatrixFeedAndStep : Prop :=
  ∀ (s : State) (h n : Nat) (t : Hart) (k : Core) (x : Ctx), Claims.EngAt s h t k x →
    let a := arrOf k n
    (∀ e kk acc, feedNext a (feedEnts k n) = some (e, kk, acc) → (isSaving s t = false ∨ a.blk ≠ []) → mmValuesOk e = true →
      mmInShare e (localSize s t x) = true → feedRoom a.feed (fetchK s (localAddr s t x) e kk) = true →
      (∀ p, p ∈ kRanges (panelA e) kk ++ kRanges (panelB e) kk → rawPoison s (localAddr s t x p.1) p.2 = false) →
      ∃ d, exec (.feederFetch h n) s = .next (setHartCore s t (setArr k n { a with feed := a.feed ++ [d] }))
        ∧ d.seq = e.seq ∧ d.a = kElems s (localAddr s t x) (panelA e) kk ∧ d.b = kElems s (localAddr s t x) (panelB e) kk
        ∧ (isMx (iFA e.w) = false → d.sa = []) ∧ d.a.length = 64 ∧ d.b.length = 64)
    ∧ (∀ c d work rest, a.work = c :: work → a.feed = d :: rest → d.seq = c.ent.seq → (isSaving s t = false ∨ a.blk ≠ []) →
      let e := c.ent
      let mx := isMx (iFA e.w)
      let y := bankOf a c.bank
      ∃ k', exec (.kStep h n) s = .next (setHartCore s t k')
        ∧ (arrOf k' n).feed = rest
        ∧ (mx = false → ∀ (i : Nat) (c0 : Cell), y.cells[i]? = some c0 →
            (bankOf (arrOf k' n) c.bank).cells[i]? = some
              (if isInt8 (iFA e.w) then cellAddInt c0 (pairInt (iFA e.w) (iFB e.w) (d.a.getD (i / 64) 0) (d.b.getD (i % 64) 0))
               else cellAdd c0 (pairNum (iFA e.w) (iFB e.w) (d.a.getD (i / 64) 0) (d.b.getD (i % 64) 0))))
        ∧ (mx = true → c.k % 32 ≠ 31 → (bankOf (arrOf k' n) c.bank).cells = y.cells ∧ (arrOf k' n).blk = d :: a.blk)
        ∧ (mx = true → c.k % 32 = 31 → (bankOf (arrOf k' n) c.bank).cells = blockCells e (d :: a.blk) y.cells ∧ (arrOf k' n).blk = [])
        ∧ (c.k + 1 = entK e → (arrOf k' n).work = work ∧ k'.live = k.live.filter (fun p => p.1 != e.seq))
        ∧ (c.k + 1 ≠ entK e → (arrOf k' n).work = { c with k := c.k + 1 } :: work ∧ k'.live = k.live)
        ∧ bankOf (arrOf k' n) (!c.bank) = bankOf a (!c.bank) ∧ { k' with arr := k.arr, live := k.live } = k)

/-- R82, R127 to R130, Table 3.5: a drain starts when no k-step of its bank is left; when its last row is written the tile register or the
rows of the share hold the cells (+0 beyond M and N), the array's flag word is replaced, the bank is free and the entry complete. -/
def Sys2Proof.Claims.MatrixDrainCompletes : Prop :=
  ∀ (s : State) (h n : Nat) (t : Hart) (k : Core) (x : Ctx) (b : Bool), Claims.EngAt s h t k x →
    let a := arrOf k n
    let y := bankOf a b
    let ovf := y.cells.any (fun c => c.sat)
    let inv := y.cells.any (fun c => c.nan)
    let finished (k' : Core) : Prop :=
      bankOf (arrOf k' n) b = {} ∧ bankOf (arrOf k' n) (!b) = bankOf a (!b)
        ∧ Tbl.get 0 k'.aflag n = (if ovf then 1 else 0) ||| (if inv then 2 else 0)
        ∧ k'.live = k.live.filter (fun p => p.1 != y.ent.seq) ∧ k'.g = k.g ∧ k'.pc = k.pc
    (drainBank a true = none → drainBank a false = some b →
      exec (.drainStart h n) s = .next (setHartCore s t (setArr k n (setBank a b { y with started := true }))))
    ∧ (drainBank a true = some b → iOp y.ent.w = 2 →
        ∃ k', exec (.drainComplete h n) s = .next (setHartCore s t k') ∧ finished k'
          ∧ (∃ tl, Tbl.find? k'.t (iDst y.ent.w) = some tl ∧ tl.written = true ∧ tl.poison = false ∧ tl.v.length = 4096
              ∧ ∀ i j, i < 64 → j < 64 → tl.v.getD (64 * i + j) 0 = (if i < y.m ∧ j < y.n then (y.cells.getD (64 * i + j) {}).acc else 0))
          ∧ (∀ q, q ≠ iDst y.ent.w → Tbl.find? k'.t q = Tbl.find? k.t q))
    ∧ (drainBank a true = some b → iOp y.ent.w ≠ 2 → y.n * 4 ≤ drainStride y.ent →
        (∀ p, p ∈ drainRows y (localAddr s t x) → rawPoison s p.1 p.2.length = false) →
        ∃ s' k', exec (.drainComplete h n) s = .next (setHartCore s' t k') ∧ finished k' ∧ Claims.OnlyMemory s s'
          ∧ (∀ i j, i < y.m → j < y.n →
              memBytes s' (localAddr s t x (drainOff y.ent + i * drainStride y.ent) + 4 * j) 4 = leBytes 4 (y.cells.getD (64 * i + j) {}).acc.toNat)
          ∧ (∀ q, (∀ i, i < y.m → q < localAddr s t x (drainOff y.ent + i * drainStride y.ent)
                ∨ localAddr s t x (drainOff y.ent + i * drainStride y.ent) + 4 * y.n ≤ q) → memByte s' q = memByte s q))


/-! ## The vector engine (classes 0x5 and 0x6) -/

/-- Table 6.11, R142, R143, R177: an element-wise instruction in its ordinary form gives every element of every active lane of vd the
operation's result, leaves the other lanes to the mask and Z, and ORs each active lane's flags into its lane flag word.
Where the spec leaves a point open it holds of the model's choices (log entries 20, 114). -/
def Obligations.VectorElementwiseResults : Prop :=
  ∀ (s : State) (h : Nat) (t : Hart) (k : Core) (x : Ctx) (e : QEnt), Claims.VqFront s h t k x 5 e → iTF e.w = false →
    let w := e.w
    let m := elFmt w
    let n := etBits (iET w)
    let sg := iVFmt w != 11
    let lane (l : Nat) (f : Nat → Nat → Nat → Nat × Flags) := laneMap n f (laneOf (vGet k (iGA w)) l) (laneOf (vGet k (iGB w)) l) (laneOf (vGet k (iVC w)) l)
    let does (k' : Core) (f : Nat → Nat → Nat → Nat × Flags) : Prop := Claims.VecDone k k' e
      ∧ Claims.VecWrote k k' w (iGD w) (fun l => (lane l f).1)
      ∧ (∀ l, l < 128 → lfGet k' l = if active k (iKM w) l then lfGet k l ||| ((lane l f).2 &&& lfMask) else lfGet k l)
      ∧ k'.k = k.k ∧ k'.t = k.t ∧ k'.cur = k.cur ∧ k'.g = k.g
    (iOp w = 0x00 → ∃ k', exec (.vxArith h) s = .next (setHartCore s t k') ∧ does k' (fun a b _ => fpAdd m (iRM w) a b))
    ∧ (iOp w = 0x01 → ∃ k', exec (.vxArith h) s = .next (setHartCore s t k') ∧ does k' (fun a b _ => fpSub m (iRM w) a b))
    ∧ (iOp w = 0x02 → ∃ k', exec (.vxArith h) s = .next (setHartCore s t k') ∧ does k' (fun a b _ => fpMul m (iRM w) a b))
    ∧ (iOp w = 0x03 → ∃ k', exec (.vxFma h) s = .next (setHartCore s t k') ∧ does k' (fun a b c => fpFma m (iRM w) a b c))
    ∧ (iOp w = 0x04 → ∃ k', exec (.vxMin h) s = .next (setHartCore s t k') ∧ does k' (fun a b _ => (fpMin m a b, 0)))
    ∧ (iOp w = 0x05 → ∃ k', exec (.vxMin h) s = .next (setHartCore s t k') ∧ does k' (fun a b _ => (fpMaxOp m a b, 0)))
    ∧ (iOp w = 0x06 → ∃ k', exec (.vxAbs h) s = .next (setHartCore s t k') ∧ does k' (fun a _ _ => (a % 2 ^ (n - 1), 0)))
    ∧ (iOp w = 0x07 → ∃ k', exec (.vxAbs h) s = .next (setHartCore s t k') ∧ does k' (fun a _ _ => (if a < 2 ^ (n - 1) then a + 2 ^ (n - 1) else a - 2 ^ (n - 1), 0)))
    ∧ (iOp w = 0x08 → ∃ k', exec (.vxDiv h) s = .next (setHartCore s t k') ∧ does k' (fun a b _ => fpDiv m (iRM w) a b))
    ∧ (iOp w = 0x09 → ∃ k', exec (.vxSqrt h) s = .next (setHartCore s t k') ∧ does k' (fun a _ _ => fpSqrt m (iRM w) a))
    ∧ (0x0A ≤ iOp w → iOp w ≤ 0x10 → ∃ k', exec (.vxTranscendental h) s = .next (setHartCore s t k') ∧ does k' (fun a _ _ => transcend (iOp w) a))
    ∧ (iOp w = 0x18 → ∃ k', exec (.vxAddI h) s = .next (setHartCore s t k') ∧ does k' (fun a b _ => intFit n sg (iSAT w) (intOf n sg a + intOf n sg b)))
    ∧ (iOp w = 0x19 → ∃ k', exec (.vxAddI h) s = .next (setHartCore s t k') ∧ does k' (fun a b _ => intFit n sg (iSAT w) (intOf n sg a - intOf n sg b)))
    ∧ (iOp w = 0x1A → ∃ k', exec (.vxMulI h) s = .next (setHartCore s t k') ∧ does k' (fun a b _ => intFit n sg (iSAT w) (intOf n sg a * intOf n sg b)))
    ∧ (iOp w = 0x1B → ∃ k', exec (.vxMinI h) s = .next (setHartCore s t k') ∧ does k' (fun a b _ => (if intOf n (iSX w) b < intOf n (iSX w) a then b else a, 0)))
    ∧ (iOp w = 0x1C → ∃ k', exec (.vxMinI h) s = .next (setHartCore s t k') ∧ does k' (fun a b _ => (if intOf n (iSX w) a < intOf n (iSX w) b then b else a, 0)))
    ∧ (iOp w = 0x20 → ∃ k', exec (.vxLogic h) s = .next (setHartCore s t k') ∧ does k' (fun a b _ => (a &&& b, 0)))
    ∧ (iOp w = 0x21 → ∃ k', exec (.vxLogic h) s = .next (setHartCore s t k') ∧ does k' (fun a b _ => (a ||| b, 0)))
    ∧ (iOp w = 0x22 → ∃ k', exec (.vxLogic h) s = .next (setHartCore s t k') ∧ does k' (fun a b _ => (a ^^^ b, 0)))
    ∧ (iOp w = 0x23 → ∃ k', exec (.vxLogic h) s = .next (setHartCore s t k') ∧ does k' (fun a b _ => (a &&& (2 ^ n - 1 - b), 0)))
    ∧ (iOp w = 0x24 → ∃ k', exec (.vxShift h) s = .next (setHartCore s t k') ∧ does k' (fun a b _ => (a * 2 ^ (b % n) % 2 ^ n, 0)))
    ∧ (iOp w = 0x25 → ∃ k', exec (.vxShift h) s = .next (setHartCore s t k') ∧ does k' (fun a b _ => (a / 2 ^ (b % n), 0)))
    ∧ (iOp w = 0x26 → ∃ k', exec (.vxShift h) s = .next (setHartCore s t k') ∧ does k' (fun a b _ => (((intOf n true a) / (2 ^ (b % n) : Nat) % (2 ^ n : Nat)).toNat, 0)))
    ∧ (iOp w = 0x28 → ∃ k', exec (.vxSel h) s = .next (setHartCore s t k') ∧ Claims.VecDone k k' e ∧ Claims.FlagsKept k k'
        ∧ Claims.VecWrote k k' w (iGD w) (fun l => if (kGet k (iVC w % 8)).getLsbD l then laneOf (vGet k (iGA w)) l else laneOf (vGet k (iGB w)) l))

/-- R148, R149, R152, R179: a sweep carries the same operation over the 64 × 64 values of tile registers, row pair by row pair from the one
its entry records; no busy register, no poisoned source and no partial write to a poisoned register stand in its way. The row pairs that
a command does not reach stay as they are, and the entry then records the next; with the last one the entry is complete. -/
def Sys2Proof.Claims.SweepResults : Prop :=
  ∀ (s : State) (h n : Nat) (t : Hart) (k : Core) (x : Ctx) (e : QEnt), Claims.VqFront s h t k x 5 e → iTF e.w = true →
    (iGD e.w :: sweepSrcs e.w).any (tileBusy k) = false → e.row < 32 →
    (∀ r, r ∈ [iGD e.w, iGA e.w, iGB e.w, iVC e.w] → (tileOf k r).v.length = 0 ∨ (tileOf k r).v.length = 4096) →
    let w := e.w
    let last := min 32 (e.row + n)
    let bad := (sweepSrcs w).any (fun r => (tileOf k r).poison) || ((tileOf k (iGD w)).poison && iKM w != 0)
    (bad = true → exec (.sweepForm h n) s = .next (faultEnt s t fPoison e))
    ∧ (bad = false → ∃ k', exec (.sweepForm h n) s = .next (setHartCore s t k')
        ∧ (last = 32 → Claims.VecDone k k' e)
        ∧ (last < 32 → k'.live = k.live ∧ k'.pend = k.pend ∧ k'.vq = k.vq.map (fun f => if f.seq = e.seq then { f with row := last } else f))
        ∧ (tileOf k' (iGD w)).written = true
        ∧ (∀ r l, r < 32 → l < 128 →
            let i := 2 * r + l / 64
            let j := l % 64
            tileElem (tileOf k' (iGD w)) i j =
              if r < e.row ∨ last ≤ r then tileElem (tileOf k (iGD w)) i j
              else if active k (iKM w) l then
                (laneFn w (tileElem (tileOf k (iGA w)) i j) (sweepB k w r l) (tileElem (tileOf k (iVC w)) i j) ((kGet k (iVC w % 8)).getLsbD l)).1
              else if iZ w then 0 else tileElem (tileOf k (iGD w)) i j)
        ∧ (∀ q, q ≠ iGD w → tileOf k' q = tileOf k q) ∧ k'.v = k.v ∧ k'.k = k.k ∧ k'.cur = k.cur ∧ k'.g = k.g)

/-- R252 to R254, Table 6.12, R87: `vx.cvt` completes and writes its register by the pair of formats: lane to lane, packed elements of PART,
MX and E5M3U blocks with their scales, sheaf words; a sheaf exponent outside −160 to +160 is an illegal-instruction fault.
Where the spec leaves a point open it holds of the model's choices (log entries 18, 19, 94, 120). -/
def Obligations.VectorConversionResults : Prop :=
  ∀ (s : State) (h : Nat) (t : Hart) (k : Core) (x : Ctx) (e : QEnt), Claims.VqFront s h t k x 5 e → iTF e.w = false → iOp e.w = 0x11 →
    let w := e.w
    let o := (cvtOther w).1
    let n := fmtBits o
    let part := fld w 1 0
    let vd := vGet k (iGD w)
    let fp (l : Nat) := fpDecode fp32 (laneOf (vGet k (iGA w)) l).toNat
    let vals (b : Nat) := (List.range 32).map (fun i => fp (32 * b + i))
    let blk (b : Nat) := mxBlock o (iRM w) (cvtSr e) (128 * part + 32 * b) (vals b)
    ((o = 0xE ∧ eOk (cvtE e) = false) → exec (.vxCvt h) s = .next (faultEnt s t fIllegal e))
    ∧ ((o ≠ 0xE ∨ eOk (cvtE e) = true) →
        ∃ k', exec (.vxCvt h) s = .next (setHartCore s t k') ∧ Claims.VecDone k k' e ∧ k'.k = k.k ∧ k'.t = k.t ∧ k'.g = k.g
          ∧ (∀ r, r ≠ iGD w → r ≠ iVC w → vGet k' r = vGet k r)
          ∧ (cvtOther w = (0xC, true) → Claims.VecWrote k k' w (iGD w) (fun l =>
              BitVec.ofNat 32 (plainConv 0xC (iRM w) (iSAT w) (srAt (cvtSr e) l) (fp l)).1))
          ∧ (isMx o = false → o < 0xD → (cvtOther w).2 = false → Claims.VecWrote k k' w (iGD w) (fun l =>
              BitVec.ofNat 32 (fpConv fp32 (iRM w) (iSAT w) (srAt (cvtSr e) l) (plainValue (fld w 9 6) (pElem (fmtBits (fld w 9 6)) (vGet k (iGA w)) (128 * part + l)))).1))
          ∧ (cvtOk w = true → isMx o = false → o < 0xC → (cvtOther w).2 = true →
              (∀ l, l < 128 → pElem n (vGet k' (iGD w)) (128 * part + l) =
                if active k (iKM w) l then (plainConv o (iRM w) (iSAT w) (srAt (cvtSr e) (128 * part + l)) (fp l)).1 % 2 ^ n
                else if iZ w then 0 else pElem n vd (128 * part + l))
              ∧ ∀ i, (i < 128 * part ∨ 128 * part + 128 ≤ i) → (i + 1) * n ≤ 4096 → pElem n (vGet k' (iGD w)) i = pElem n vd i)
          ∧ (cvtOk w = true → (isMx o = true ∨ o = 0xD) → (cvtOther w).2 = true → (vGet k (iGA w)).length = 128 →
              (∀ b i, b < 4 → i < 32 →
                let j := 128 * part + 32 * b + i
                (iVC w ≠ iGD w ∨ (j + 1) * n ≤ 32 * part ∨ 32 * part + 32 ≤ j * n) →
                pElem n (vGet k' (iGD w)) j = ((blk b).1.getD i (0, 0)).1 % 2 ^ n)
              ∧ (part < (vGet k (iVC w)).length → ∀ b, b < 4 → packGet 8 (laneOf (vGet k' (iVC w)) part).toNat b = (blk b).2 % 2 ^ 8))
          ∧ (cvtOk w = true → (isMx o = true ∨ o = 0xD) → (cvtOther w).2 = false → Claims.VecWrote k k' w (iGD w) (fun l =>
              BitVec.ofNat 32 (fpConv fp32 (iRM w) (iSAT w) (srAt (cvtSr e) l)
                (mxValue o (packGet 8 (laneOf (vGet k (iVC w)) part).toNat (l / 32)) (pElem n (vGet k (iGA w)) (128 * part + l)))).1))
          ∧ (o = 0xE → (cvtOther w).2 = true → ∀ i j, i < 32 → j < 4 →
              laneOf (vGet k' (iGD w)) (4 * i + j) = (sheafIn (cvtE e) (fp (32 * part + i))).1.extractLsb' (32 * j) 32)
          ∧ (o = 0xE → (cvtOther w).2 = false → vd.length = 128 → ∀ l, l < 128 → laneOf (vGet k' (iGD w)) l =
              if 32 * part ≤ l ∧ l < 32 * part + 32 then
                BitVec.ofNat 32 (sheafOut fp32 (iRM w) (iSAT w) (cvtE e) (BitVec.ofNat 128 (pElem 128 (vGet k (iGA w)) (l - 32 * part)))).1
              else laneOf vd l))

/-- R251, R144, Table 6.11: comparisons and mask operations write a mask register (a result for k0 is discarded), and `vx.popc` and
`vx.kget` deliver their scalar register. -/
def Sys2Proof.Claims.VectorMaskResults : Prop :=
  ∀ (s : State) (h : Nat) (t : Hart) (k : Core) (x : Ctx) (e : QEnt), Claims.VqFront s h t k x 5 e → iTF e.w = false →
    let w := e.w
    let ka := kGet k (iGA w)
    let kb := kGet k (iGB w)
    let masks (k' : Core) (v : BitVec 128) : Prop := Claims.VecDone k k' e ∧ Claims.FlagsKept k k'
      ∧ (iGD w ≠ 0 → kGet k' (iGD w) = v) ∧ kGet k' 0 = BitVec.allOnes 128 ∧ (∀ r, r ≠ iGD w → kGet k' r = kGet k r) ∧ k'.v = k.v ∧ k'.t = k.t
    let delivers (k' : Core) (v : W64) : Prop := Claims.VecDone k k' e ∧ Claims.FlagsKept k k'
      ∧ (iGD w ≠ 0 → gGet k' (iGD w) = v) ∧ (∀ r, r ≠ iGD w → gGet k' r = gGet k r) ∧ k'.v = k.v ∧ k'.k = k.k ∧ k'.t = k.t
    (0x30 ≤ iOp w → iOp w ≤ 0x35 → ∃ k', exec (.vxCmp h) s = .next (setHartCore s t k') ∧ Claims.VecDone k k' e
      ∧ (iGD w ≠ 0 → ∀ l, l < 128 → (kGet k' (iGD w)).getLsbD l =
          if active k (iKM w) l then (cmpLane w (laneOf (vGet k (iGA w)) l) (laneOf (vGet k (iGB w)) l)).1
          else if iZ w then false else (kGet k (iGD w)).getLsbD l)
      ∧ (∀ r, r ≠ iGD w → kGet k' r = kGet k r) ∧ k'.v = k.v ∧ k'.t = k.t)
    ∧ (iOp w = 0x38 → ∃ k', exec (.vxKand h) s = .next (setHartCore s t k') ∧ masks k' (ka &&& kb)) ∧ (iOp w = 0x39 → ∃ k', exec (.vxKand h) s = .next (setHartCore s t k') ∧ masks k' (ka ||| kb))
    ∧ (iOp w = 0x3A → ∃ k', exec (.vxKand h) s = .next (setHartCore s t k') ∧ masks k' (ka ^^^ kb)) ∧ (iOp w = 0x3B → ∃ k', exec (.vxKnot h) s = .next (setHartCore s t k') ∧ masks k' (~~~ka))
    ∧ (iOp w = 0x3C → ∃ k', exec (.vxKmov h) s = .next (setHartCore s t k') ∧ masks k' (cap e (iGB w) ++ cap e (iGA w)))
    ∧ (iOp w = 0x3D → ∃ v, ∃ k', exec (.vxKset h) s = .next (setHartCore s t k') ∧ masks k' v ∧ ∀ l, l < 128 → v.getLsbD l = decide (l < (cap e (iGA w)).toNat))
    ∧ (iOp w = 0x43 → ∃ v, ∃ k', exec (.vxLfMask h) s = .next (setHartCore s t k') ∧ masks k' v ∧ ∀ l, l < 128 → v.getLsbD l = (lfGet k l &&& BitVec.ofNat 9 (fld w 8 0) != 0))
    ∧ (iOp w = 0x3E → ∃ k', exec (.vxPopc h) s = .next (setHartCore s t k') ∧ delivers k' (BitVec.ofNat 64 ((List.range 128).filter (fun l => ka.getLsbD l)).length))
    ∧ (iOp w = 0x3F → ∃ k', exec (.vxKget h) s = .next (setHartCore s t k') ∧ delivers k' (if bit w 0 then ka.extractLsb' 64 64 else ka.setWidth 64))
    ∧ (iOp w = 0x41 → ∃ k', exec (.vxLane h) s = .next (setHartCore s t k') ∧ delivers k' ((laneOf (vGet k (iGA w)) (fld w 6 0)).setWidth 64))
    ∧ (iOp w = 0x46 → ∃ k', exec (.vxCurGet h) s = .next (setHartCore s t k') ∧ delivers k' ((curGet k (iGA w)).setWidth 64))

/-- R178, R167, R168, Table 6.11: broadcast, lane numbers, clearing lane flags, setting a cursor. -/
def Sys2Proof.Claims.VectorLaneResults : Prop :=
  ∀ (s : State) (h : Nat) (t : Hart) (k : Core) (x : Ctx) (e : QEnt), Claims.VqFront s h t k x 5 e → iTF e.w = false →
    let w := e.w
    (iOp w = 0x40 → ∃ k', exec (.vxBcast h) s = .next (setHartCore s t k') ∧ Claims.VecDone k k' e ∧ Claims.FlagsKept k k'
      ∧ ∃ v : W32, Claims.VecWrote k k' w (iGD w) (fun _ => v) ∧ ∀ i, i < 32 → v.getLsbD i = (cap e (iGA w)).getLsbD (i % etBits (iET w)))
    ∧ (iOp w = 0x42 → ∃ k', exec (.vxIota h) s = .next (setHartCore s t k') ∧ Claims.VecDone k k' e ∧ Claims.FlagsKept k k'
      ∧ Claims.VecWrote k k' w (iGD w) (fun l => BitVec.ofNat 32 l))
    ∧ (iOp w = 0x44 → ∃ k', exec (.vxLfClr h) s = .next (setHartCore s t k') ∧ Claims.VecDone k k' e ∧ k'.sticky = k.sticky ∧ k'.v = k.v
      ∧ ∀ l, lfGet k' l = if active k (iKM w) l then 0 else lfGet k l)
    ∧ (iOp w = 0x45 → ∃ k', exec (.vxCurSet h) s = .next (setHartCore s t k') ∧ Claims.VecDone k k' e ∧ Claims.FlagsKept k k'
      ∧ curGet k' (iGD w) = (cap e (iGA w)).setWidth 32 ∧ (∀ c, c ≠ iGD w → curGet k' c = curGet k c) ∧ k'.v = k.v ∧ k'.k = k.k)

/-- R160 to R166, R250: `vx.ld.oc`, `vx.gather`, `vx.ld.us` and `vx.expand.ld` complete when every active lane's word is aligned, within the
operand cache or the unit-store share and free of poison, and give each active lane the little-endian word at its offset; `vx.expand.ld`
hands consecutive words from the cursor to the active lanes and moves the cursor past them. -/
def Sys2Proof.Claims.VectorLoadResults : Prop :=
  ∀ (s : State) (h : Nat) (t : Hart) (k : Core) (x : Ctx) (c : Nat) (e : QEnt), Claims.VqFront s h t k x c e → iTF e.w = false →
    let w := e.w
    let ls := activeLanes k (iKM w)
    let oc (base : W64) (off : Nat → W64) : Prop := base.toNat % 4 = 0
      ∧ ∀ l, l ∈ ls → (off l).toNat % 4 = 0 ∧ (off l).toNat + 4 ≤ ocSizeOf s t x ∧ rawPoison s (ocAddrOf s t x (off l).toNat) 4 = false
    let gather (l : Nat) : W64 := cap e (iGB w) + BitVec.ofNat 64 (4 * (laneOf (vGet k (iGA w)) l).toNat)
    let half (l : Nat) : W64 := (if l < 64 then vecAddr e else vecAddr e + usStride e (iGB w)) + BitVec.ofNat 64 (4 * (l % 64))
    let cu := curGet k (iGA w)
    let next (l : Nat) : W64 := (cu.setWidth 64 : W64) + BitVec.ofNat 64 (4 * (ls.filter (fun i => decide (i < l))).length)
    (c = 5 → iOp w = 0x50 → oc (vecAddr e) (contig (vecAddr e)) → ∃ k', exec (.vxLdOc h) s = .next (setHartCore s t k')
      ∧ Claims.LanesLoaded s k k' e (fun l => ocAddrOf s t x (contig (vecAddr e) l).toNat) k.cur)
    ∧ (c = 5 → iOp w = 0x52 → oc (cap e (iGB w)) gather → ∃ k', exec (.vxGather h) s = .next (setHartCore s t k')
      ∧ Claims.LanesLoaded s k k' e (fun l => ocAddrOf s t x (gather l).toNat) k.cur)
    ∧ (c = 5 → iOp w = 0x54 → (vecAddr e).toNat % 32 = 0 → (usStride e (iGB w)).toNat % 32 = 0 →
        (∀ l, l ∈ ls → (half l).toNat + 4 ≤ shareSize x ∧ rawPoison s (localAddr s t x (half l).toNat) 4 = false) →
      ∃ k', exec (.vxLdUs h) s = .next (setHartCore s t k') ∧ Claims.LanesLoaded s k k' e (fun l => localAddr s t x (half l).toNat) k.cur)
    ∧ (c = 6 → iOp w = 0x13 → oc 0 next → ∃ k', exec (.vxExpandLd h) s = .next (setHartCore s t k')
      ∧ Claims.LanesLoaded s k k' e (fun l => ocAddrOf s t x (next l).toNat) (Tbl.set 0 k.cur (iGA w) (cu + BitVec.ofNat 32 (4 * ls.length))))

/-- R160 to R166, R250, R710: `vx.st.oc`, `vx.scatter`, `vx.st.us` and `vx.compress.st` complete when every active lane's word is aligned,
within the operand cache or the unit-store share and free of poison, and write each active lane's word at its offset, the
highest-numbered of two lanes at one place standing; every byte outside the words reads as before. -/
def Sys2Proof.Claims.VectorStoreResults : Prop :=
  ∀ (s : State) (h : Nat) (t : Hart) (k : Core) (x : Ctx) (c : Nat) (e : QEnt), Claims.VqFront s h t k x c e → iTF e.w = false →
    let w := e.w
    let ls := activeLanes k (iKM w)
    let oc (base : W64) (off : Nat → W64) : Prop := base.toNat % 4 = 0
      ∧ ∀ l, l ∈ ls → (off l).toNat % 4 = 0 ∧ (off l).toNat + 4 ≤ ocSizeOf s t x ∧ rawPoison s (ocAddrOf s t x (off l).toNat) 4 = false
    let scatter (l : Nat) : W64 := cap e (iVC w) + BitVec.ofNat 64 (4 * (laneOf (vGet k (iGB w)) l).toNat)
    let half (l : Nat) : W64 := (if l < 64 then vecAddr e else vecAddr e + usStride e (iVC w)) + BitVec.ofNat 64 (4 * (l % 64))
    let cu := curGet k (iGD w)
    let next (l : Nat) : W64 := (cu.setWidth 64 : W64) + BitVec.ofNat 64 (4 * (ls.filter (fun i => decide (i < l))).length)
    (c = 5 → iOp w = 0x51 → oc (vecAddr e) (contig (vecAddr e)) → ∃ s' k', exec (.vxStOc h) s = .next (setHartCore s' t k')
      ∧ Claims.LanesStored s s' k k' e (fun l => ocAddrOf s t x (contig (vecAddr e) l).toNat) (laneOf (vGet k (iGB w))) k.cur)
    ∧ (c = 5 → iOp w = 0x53 → oc (cap e (iVC w)) scatter → ∃ s' k', exec (.vxScatter h) s = .next (setHartCore s' t k')
      ∧ Claims.LanesStored s s' k k' e (fun l => ocAddrOf s t x (scatter l).toNat) (laneOf (vGet k (iGA w))) k.cur)
    ∧ (c = 5 → iOp w = 0x55 → (vecAddr e).toNat % 32 = 0 → (usStride e (iVC w)).toNat % 32 = 0 →
        (∀ l, l ∈ ls → (half l).toNat + 4 ≤ shareSize x ∧ rawPoison s (localAddr s t x (half l).toNat) 4 = false) →
      ∃ s' k', exec (.vxStUs h) s = .next (setHartCore s' t k')
      ∧ Claims.LanesStored s s' k k' e (fun l => localAddr s t x (half l).toNat) (laneOf (vGet k (iGB w))) k.cur)
    ∧ (c = 6 → iOp w = 0x12 → oc 0 next → ∃ s' k', exec (.vxCompressSt h) s = .next (setHartCore s' t k')
      ∧ Claims.LanesStored s s' k k' e (fun l => ocAddrOf s t x (next l).toNat) (laneOf (vGet k (iGA w)))
          (Tbl.set 0 k.cur (iGD w) (cu + BitVec.ofNat 32 (4 * ls.length))))

/-- R162, R164, R273: a lane outside the operand cache or the share is an extent fault, a poisoned word a poison fault. -/
def Sys2Proof.Claims.VectorAccessFaults : Prop :=
  ∀ (s : State) (h : Nat) (t : Hart) (k : Core) (x : Ctx) (e : QEnt) (l : Nat), Claims.VqFront s h t k x 5 e → iTF e.w = false →
    l ∈ activeLanes k (iKM e.w) →
    let off := contig (vecAddr e) l
    (ocSizeOf s t x < off.toNat + 4 →
      (iOp e.w = 0x50 → exec (.vxLdOc h) s = .next (faultEnt s t fExtent e)) ∧ (iOp e.w = 0x51 → exec (.vxStOc h) s = .next (faultEnt s t fExtent e)))
    ∧ (iOp e.w = 0x50 → (∀ j, j ∈ activeLanes k (iKM e.w) → (contig (vecAddr e) j).toNat + 4 ≤ ocSizeOf s t x) → (vecAddr e).toNat % 4 = 0 →
        poisoned s (ocAddrOf s t x off.toNat) = true → exec (.vxLdOc h) s = .next (faultEnt s t fPoison e))

/-- R147, R150, R152, R151: moves between vector and tile registers, clearing and reducing a tile, when no drain to it is under way. A
poisoned tile is a poison fault, and `vt.zero` clears poison. -/
def Sys2Proof.Claims.TileResults : Prop :=
  ∀ (s : State) (h : Nat) (t : Hart) (k : Core) (x : Ctx) (c : Nat) (e : QEnt), Claims.VqFront s h t k x c e → iTF e.w = false →
    let w := e.w
    let ts := tileOf k (iGA w)
    let td := tileOf k (iGD w)
    (c = 5 → iOp w = 0x58 → tileBusy k (iGA w) = false →
      (ts.poison = true → exec (.vtLd h) s = .next (faultEnt s t fPoison e))
      ∧ (ts.poison = false → ∃ k', exec (.vtLd h) s = .next (setHartCore s t k') ∧ Claims.VecDone k k' e ∧ k'.t = k.t
          ∧ Claims.VecWrote k k' w (iGD w) (fun l => tileElem ts (2 * fld w 4 0 + l / 64) (l % 64))))
    ∧ (c = 5 → iOp w = 0x59 → tileBusy k (iGD w) = false → (td.v = [] ∨ td.v.length = 4096) →
      (td.poison = true → exec (.vtSt h) s = .next (faultEnt s t fPoison e))
      ∧ (td.poison = false → ∃ k', exec (.vtSt h) s = .next (setHartCore s t k') ∧ Claims.VecDone k k' e ∧ k'.v = k.v
          ∧ (tileOf k' (iGD w)).written = true
          ∧ (∀ i j, i < 64 → j < 64 → tileElem (tileOf k' (iGD w)) i j =
              let l := 64 * (i % 2) + j
              if i / 2 = fld w 4 0 then
                (if active k (iKM w) l then laneOf (vGet k (iGA w)) l else if iZ w then 0 else tileElem td i j)
              else tileElem td i j)))
    ∧ (c = 5 → iOp w = 0x5A → tileBusy k (iGD w) = false →
      ∃ k', exec (.vtZero h) s = .next (setHartCore s t k') ∧ Claims.VecDone k k' e ∧ k'.v = k.v
        ∧ (tileOf k' (iGD w)).poison = false ∧ (tileOf k' (iGD w)).written = true ∧ (∀ i j, tileElem (tileOf k' (iGD w)) i j = 0)
        ∧ (∀ q, q ≠ iGD w → tileOf k' q = tileOf k q))
    ∧ (c = 6 → iOp w = 0x18 → tileBusy k (iGA w) = false →
      (ts.poison = true → exec (.vtRed h) s = .next (faultEnt s t fPoison e))
      ∧ (ts.poison = false → ∃ k', exec (.vtRed h) s = .next (setHartCore s t k') ∧ Claims.VecDone k k' e ∧ k'.t = k.t
          ∧ (∀ i, i < 64 → laneOf (vGet k' (iGD w)) i =
              (reduce64 w ((List.range 64).map (fun j => if bit w 7 then tileElem ts j i else tileElem ts i j))).1)
          ∧ (∀ i, 64 ≤ i → i < 128 → laneOf (vGet k' (iGD w)) i = 0)))

/-- R169 to R176, Table 4.3, R165: the cross-lane network in the mode that the instruction needs (scans in scan mode, permutes in permute
mode; the other mode is an illegal-instruction fault), and compress and expand in either.
Where the spec leaves a point open it holds of the model's choices (log entries 21, 117, 118). -/
def Obligations.CrossLaneResults : Prop :=
  ∀ (s : State) (h : Nat) (t : Hart) (k : Core) (x : Ctx) (e : QEnt), Claims.VqFront s h t k x 6 e → iTF e.w = false →
    let w := e.w
    let a := vGet k (iGA w)
    let b := vGet k (iGB w)
    let c := vGet k (iVC w)
    let moved (k' : Core) (val : Nat → W32) : Prop := Claims.VecDone k k' e ∧ Claims.FlagsKept k k' ∧ Claims.VecWrote k k' w (iGD w) val
    (iOp w = 0x00 → (k.xln = true → exec (.vxScan h) s = .next (faultEnt s t fIllegal e))
      ∧ (k.xln = false → ∃ k', exec (.vxScan h) s = .next (setHartCore s t k') ∧ Claims.VecDone k k' e
          ∧ Claims.VecWrote k k' w (iGD w) (fun l => ((scanAll k w).getD l {}).y)))
    ∧ (iOp w = 0x08 → k.xln = true → ∃ k', exec (.vxPerm h) s = .next (setHartCore s t k') ∧ moved k' (fun l => laneOf a ((laneOf b l).toNat % 128)))
    ∧ (iOp w = 0x09 → k.xln = true → ∃ k', exec (.vxPerm2 h) s = .next (setHartCore s t k') ∧ moved k' (fun l =>
        if (laneOf c l).toNat % 256 < 128 then laneOf a ((laneOf c l).toNat % 256) else laneOf b ((laneOf c l).toNat % 256 - 128)))
    ∧ (iOp w = 0x0A → k.xln = true → ∃ k', exec (.vxShufXor h) s = .next (setHartCore s t k') ∧ moved k' (fun l => laneOf a (l ^^^ fld w 6 0)))
    ∧ (iOp w = 0x0B → k.xln = true → ∃ k', exec (.vxShufRot h) s = .next (setHartCore s t k') ∧ moved k' (fun l => laneOf a ((l + fld w 6 0) % 128)))
    ∧ (iOp w = 0x0C → k.xln = true → ∃ k', exec (.vxPackH h) s = .next (setHartCore s t k') ∧ moved k' (fun l =>
        let el (i : Nat) : BitVec 16 := (if i < 128 then laneOf a i else laneOf b (i - 128)).setWidth 16
        el (2 * l + 1) ++ el (2 * l)))
    ∧ (iOp w = 0x0D → k.xln = true → ∃ k', exec (.vxPackB h) s = .next (setHartCore s t k') ∧ moved k' (fun l =>
        let el (i : Nat) : BitVec 8 := if i % 2 = 0 then (laneOf (if i < 256 then a else b) (i % 256 / 2)).extractLsb' 0 8
          else (laneOf (if i < 256 then a else b) (i % 256 / 2)).extractLsb' 16 8
        el (4 * l + 3) ++ el (4 * l + 2) ++ el (4 * l + 1) ++ el (4 * l)))
    ∧ (iOp w = 0x0E → k.xln = true → ∃ k', exec (.vxUnpackH h) s = .next (setHartCore s t k') ∧ moved k' (fun l =>
        let i := l + 128 * fld w 0 0
        let el : BitVec 16 := (laneOf a (i / 2)).extractLsb' (16 * (i % 2)) 16
        if iSX w then el.signExtend 32 else el.setWidth 32))
    ∧ (iOp w = 0x0F → k.xln = true → ∃ k', exec (.vxUnpackBQ h) s = .next (setHartCore s t k') ∧ moved k' (fun l =>
        let i := l + 128 * fld w 1 0
        let el : BitVec 8 := (laneOf a (i / 4)).extractLsb' (8 * (i % 4)) 8
        if iSX w then el.signExtend 32 else el.setWidth 32))
    ∧ (iOp w = 0x10 → ∃ k', exec (.vxCompress h) s = .next (setHartCore s t k') ∧ Claims.VecDone k k' e ∧ Claims.FlagsKept k k'
        ∧ (let ls := activeLanes k (iKM w)
           (∀ i, i < ls.length → laneOf (vGet k' (iGD w)) i = laneOf a (ls.getD i 0))
           ∧ (∀ i, ls.length ≤ i → laneOf (vGet k' (iGD w)) i = 0)))
    ∧ (iOp w = 0x11 → ∃ k', exec (.vxExpand h) s = .next (setHartCore s t k') ∧ Claims.VecDone k k' e ∧ Claims.FlagsKept k k'
        ∧ Claims.VecWrote k k' w (iGD w) (fun l => laneOf a ((activeLanes k (iKM w)).filter (fun i => decide (i < l))).length))
    ∧ (k.xln = false →
        (iOp w = 0x08 → exec (.vxPerm h) s = .next (faultEnt s t fIllegal e)) ∧ (iOp w = 0x09 → exec (.vxPerm2 h) s = .next (faultEnt s t fIllegal e))
        ∧ (iOp w = 0x0A → exec (.vxShufXor h) s = .next (faultEnt s t fIllegal e)) ∧ (iOp w = 0x0B → exec (.vxShufRot h) s = .next (faultEnt s t fIllegal e))
        ∧ (iOp w = 0x0C → exec (.vxPackH h) s = .next (faultEnt s t fIllegal e)) ∧ (iOp w = 0x0D → exec (.vxPackB h) s = .next (faultEnt s t fIllegal e))
        ∧ (iOp w = 0x0E → exec (.vxUnpackH h) s = .next (faultEnt s t fIllegal e)) ∧ (iOp w = 0x0F → exec (.vxUnpackBQ h) s = .next (faultEnt s t fIllegal e)))


/-! ## Marks, waits, sleeps, signals, barriers, counters, system instructions, unit switching -/

/-- R193 to R196, R232: `sy.wait` waits for the entries of the queues it names and `sy.mark` places an entry that awaits them; a mark is
released, and a wait resumes, when every entry awaited is complete. -/
def Sys2Proof.Claims.MarksAndWaits : Prop :=
  ∀ (s : State) (h : Nat) (t : Hart) (k : Core) (x : Ctx),
    (∀ w, Claims.Issues s h t k x 9 w → iOp w = 0 →
      ∃ aw, exec (.syWait h) s = .next (setHartCore s t { retire k with wait := if aw = [] then .none else .queues aw })
        ∧ ∀ n, n ∈ aw ↔ ∃ q, (n, q) ∈ k.live ∧ q < 14 ∧ (iImm16 w).testBit q = true)
    ∧ (∀ w, Claims.Issues s h t k x 9 w → iOp w = 1 →
      (iImm16 w = 0 → exec (.syMark h) s = .next (setHartCore s t (retire k)))
      ∧ (iImm16 w ≠ 0 → queueFull k (iQ w) = true → exec (.syMark h) s = .next s)
      ∧ (iImm16 w ≠ 0 → queueFull k (iQ w) = false → iQ w ≤ 13 →
          ∃ k' aw, exec (.syMark h) s = .next (setHartCore s t k') ∧ k'.pc = k.pc + 8 ∧ k'.ir = none
            ∧ queueEnts k' (iQ w) = queueEnts k (iQ w) ++ [{ mark := true, w := w, pc := k.pc, seq := k.seq, awaits := aw }]
            ∧ k'.live = k.live ++ [(k.seq, iQ w)] ∧ k'.pend = k.pend ∧ k'.g = k.g
            ∧ ∀ n, n ∈ aw ↔ ∃ q, (n, q) ∈ k.live ∧ q < 14 ∧ q ≠ iQ w ∧ (iImm16 w).testBit q = true))
    ∧ (∀ q e, Claims.Runs s h t k x → q ≤ 13 → freeMark k q = some e →
        ∃ k', exec (.markRelease h q) s = .next (setHartCore s t k') ∧ queueEnts k' q = (queueEnts k q).filter (fun f => f.seq != e.seq)
          ∧ k'.live = k.live.filter (fun p => p.1 != e.seq) ∧ k'.g = k.g ∧ k'.pc = k.pc)
    ∧ (∀ q, Claims.Runs s h t k x → (∀ e, e ∈ queueEnts k q → e.mark = true → ∃ n, n ∈ e.awaits ∧ ∃ p, p ∈ k.live ∧ p.1 = n) →
        exec (.markRelease h q) s = .next s)
    ∧ (∀ aw, Claims.Runs s h t k x → k.wait = .queues aw →
        ((∀ n, n ∈ aw → ∀ p, p ∈ k.live → p.1 ≠ n) → exec (.waitResume h) s = .next (setHartCore s t { k with wait := .none }))
        ∧ ((∃ n, n ∈ aw ∧ ∃ p, p ∈ k.live ∧ p.1 = n) → exec (.waitResume h) s = .next s))

/-- R399 to R401, R403: `sy.sleep` with a condition that holds goes on at once with its value; with one that does not it waits, its timeout
counted in fabric time from its issue; reserved values are illegal, and a watched word off the share is an extent fault. -/
def Sys2Proof.Claims.SleepIssue : Prop :=
  ∀ (s : State) (h u c : Nat) (k : Core) (x : Ctx) (r : Res) (w : W64), Claims.Issues s h (.res u c) k x 9 w → iOp w = 2 → resOf s u c = some r →
    r.st = .running →
    let v := gGet k (iGA w)
    let src := condSource s u x r v
    (condOk v = false → exec (.sySleep h) s = .next (faultAt s (.res u c) fIllegal k.pc))
    ∧ (condOk v = true → cSrc v = 2 → (cValue v % 8 ≠ 0 ∨ shareSize x < cValue v + 8) → exec (.sySleep h) s = .next (faultAt s (.res u c) fExtent k.pc))
    ∧ (condOk v = true → watchOk x v = true → condPoison s u x v = false → condMet v src = true →
        ∃ t, exec (.sySleep h) s = .next t ∧ t.mem = s.mem ∧ t.ctxs = s.ctxs
          ∧ resOf t u c = some { r with core := gSet (retire k) (iGD w) (BitVec.ofNat 64 ((if cSrc v = 3 then 0 else src % 2 ^ 32) * 2 ^ 32)) })
    ∧ (condOk v = true → watchOk x v = true → condPoison s u x v = false → condMet v src = false → r.barDone = [] →
        ∃ t, exec (.sySleep h) s = .next t ∧ t.mem = s.mem ∧ t.ctxs = s.ctxs
          ∧ ∃ r', resOf t u c = some r' ∧ r'.st = (if x.swait && otherReady s u c then .saving else .running)
            ∧ Claims.CoreKept { retire k with wait := .sleep (iGD w) v (s.time.now + BitVec.ofNat 64 (cTimeout v * 16000)) } r'.core)

/-- R397, R398, R402, R403, Table 10.2: `wakeLineFire` and `sleepTimeout` complete: when a wake ends a sleep, gd holds the source's value in
bits [63:32] (0 without a source), 0 in bits [31:8] and in bits [7:0] the lowest of the reasons that hold; a wake that meets nothing, and a
timeout that has not expired in fabric time, leave the context waiting. -/
def Sys2Proof.Claims.SleepWakeResults : Prop :=
  ∀ (s : State) (u c gd : Nat) (v d : W64) (x : Ctx) (r : Res), resOf s u c = some r → ctxOf s c = some x → live s c = true →
    r.core.wait = .sleep gd v d → condPoison s u x v = false → r.st = .running →
    let src := condSource s u x r v
    let woken (t : State) (n : Nat) : Prop := ∃ r', resOf t u c = some r' ∧ r'.st = .running ∧ r'.core.wait = .none ∧ r'.sig = r.sig
      ∧ (gd ≠ 0 → gGet r'.core gd = BitVec.ofNat 64 ((if cSrc v = 3 then 0 else src % 2 ^ 32) * 2 ^ 32 + n))
      ∧ (∀ q, q ≠ gd → gGet r'.core q = gGet r.core q) ∧ r'.core.pc = r.core.pc ∧ t.mem = s.mem
    (condMet v src = true → ∃ t, exec (.wakeLineFire u c) s = .next t ∧ woken t 0)
    ∧ (condMet v src = false → cBar v = true → r.barDone.any (fun p => p.2 == 0) = true → ∃ t, exec (.wakeLineFire u c) s = .next t ∧ woken t 1)
    ∧ (condMet v src = false → cBar v = true → r.barDone.any (fun p => p.2 == 0) = false → r.barDone.any (fun p => p.2 == 1) = true →
        ∃ t, exec (.wakeLineFire u c) s = .next t ∧ woken t 2)
    ∧ (condMet v src = false → (cBar v = false ∨ r.barDone = []) → exec (.wakeLineFire u c) s = .next s)
    ∧ (∀ n : W64, let now := (advance s n).time.now
        (condMet v src = false → (cBar v = false ∨ r.barDone = []) → cTimeout v ≠ 0 → now - d < 2 ^ 63 → ∃ t, exec (.sleepTimeout u c n) s = .next t ∧ woken t 3)
        ∧ ((cTimeout v = 0 ∨ 2 ^ 63 ≤ now - d) → exec (.sleepTimeout u c n) s = .next (advance s n)))

/-- R404, R405, R408, R419: a signal goes on its way at issue, from the stop that serves its unit, the reserved bits [15:8] of its target
ignored; `sy.sigrd` reads and clears; `sy.ctr` reads a completion counter. -/
def Sys2Proof.Claims.SignalIssue : Prop :=
  ∀ (s : State) (h : Nat) (t : Hart) (k : Core) (x : Ctx) (w : W64), Claims.Issues s h t k x 9 w →
    (iOp w = 3 → ∃ s', exec (.sySig h) s = .next s' ∧ hartCore s' t = some (retire k) ∧ s'.mem = s.mem ∧ s'.ctxs = s.ctxs
      ∧ s'.signals = s.signals ++ [{ stop := unitStop s (hartUnit s t), fromU := hartUnit s t, fromC := hartCtx s t, op := fld w 1 0,
                                     value := (gGet k (iGB w)).setWidth 32, target := (gGet k (iGA w)).setWidth 32 &&& 0xFFFF00FF }])
    ∧ (iOp w = 4 → ∀ u c r, t = .res u c → resOf s u c = some r →
        exec (.sySigrd h) s = .next (setRes s u c { r with sig := Tbl.set 0 r.sig (iImm16 w % 16) 0, core := retire (gSet k (iGD w) ((Tbl.get 0 r.sig (iImm16 w % 16)).setWidth 64)) }))
    ∧ (iOp w = 6 → exec (.syCtr h) s = .next (setHartCore s t (retire (gSet k (iGD w) ((Tbl.get 0 x.ctr (iImm16 w % 256)).setWidth 64)))))

/-- R60, R406, R407, R409: a signal on its way is delivered once no earlier one goes from its stop to the same stop: applied when its target is
resident there and of the sender's partition, discarded with an event otherwise. -/
def Sys2Proof.Claims.SignalDelivery : Prop :=
  ∀ (s : State) (n : Nat) (g : Signal), s.signals[n]? = some g →
    let u := g.target.toNat % 256
    let c := g.target.toNat / 2 ^ 20
    let i := g.target.toNat / 2 ^ 16 % 16
    let passed (e : Signal) : Prop := e.stop = g.stop ∧ unitStop s (e.target.toNat % 256) = unitStop s u
    ((∃ e, e ∈ s.signals.take n ∧ passed e) → exec (.signalDeliver n) s = .next s)
    ∧ ((∀ e, e ∈ s.signals.take n → ¬ passed e) →
      (∀ r p, resOf s u c = some r → ctxPart s g.fromC = some p → ctxPart s c = some p →
        ∃ t r', exec (.signalDeliver n) s = .next t ∧ t.signals = s.signals.eraseIdx n ∧ resOf t u c = some r' ∧ t.mem = s.mem ∧ t.evs = s.evs
          ∧ Tbl.get 0 r'.sig i = (if g.op = 0 then g.value else if g.op = 1 then Tbl.get 0 r.sig i ||| g.value else Tbl.get 0 r.sig i + g.value)
          ∧ (∀ j, j ≠ i → Tbl.get 0 r'.sig j = Tbl.get 0 r.sig j) ∧ r'.core = r.core)
      ∧ ((resOf s u c = none ∨ ctxPart s c ≠ ctxPart s g.fromC) →
        ∃ t e, exec (.signalDeliver n) s = .next t ∧ t.signals = s.signals.eraseIdx n ∧ t.res = s.res ∧ t.evs = s.evs ++ [e] ∧ e.code = 0x0105
          ∧ e.arg0.toNat = (g.fromC * 2 ^ 20 + g.fromU * 2 ^ 12) % 2 ^ 32 ∧ e.arg1 = g.target.setWidth 64))

/-- R32, R398, R411 to R413, R415, R416: `sy.bar` arrives, and with bit [2] set waits; when every participant has arrived each takes the
completion, but to a region or package barrier with a failed cluster, which fails for every participant that has arrived: a waiting one
receives 1. -/
def Sys2Proof.Claims.BarrierResults : Prop :=
  (∀ (s : State) (h u c : Nat) (k : Core) (x : Ctx) (r : Res) (w : W64), Claims.Issues s h (.res u c) k x 9 w → iOp w = 5 → resOf s u c = some r →
    let level := fld w 1 0
    (r.arrived.contains level = true → exec (.syBar h) s = .next s)
    ∧ (r.arrived.contains level = false → ∃ t r', exec (.syBar h) s = .next t ∧ resOf t u c = some r' ∧ r'.arrived.contains level = true
        ∧ (∀ l, l ≠ level → r'.arrived.contains l = r.arrived.contains l) ∧ Tbl.find? r'.barDone level = none
        ∧ Claims.CoreKept (if bit w 2 then { retire k with wait := .bar (iGD w) level } else retire k) r'.core ∧ t.mem = s.mem ∧ t.ctxs = s.ctxs))
  ∧ (∀ (s : State) (c level u : Nat) (x : Ctx), ctxOf s c = some x → participants x level u ≠ [] → c < 4096 →
      let failed := ∃ v, v ∈ participants x level u ∧ s.flt.clkFault.contains (islandOf s v) = true
      ((∀ v, v ∈ participants x level u → hasArrived s c level v = true) → (level = 0 ∨ ¬ failed) →
        ∃ t, exec (.barrierComplete c level u) s = .next t ∧ t.mem = s.mem ∧ t.ctxs = s.ctxs
          ∧ ∀ v, v ∈ participants x level u → ∃ r, resOf t v c = some r ∧ r.arrived.contains level = false ∧ Tbl.find? r.barDone level = some 0)
      ∧ ((∃ v, v ∈ participants x level u ∧ hasArrived s c level v = false) → exec (.barrierComplete c level u) s = .next s)
      ∧ (1 ≤ level → failed → exec (.barrierComplete c level u) s = .next s
        ∧ ∃ t, exec (.barrierFail c level u) s = .next t ∧ t.mem = s.mem ∧ t.ctxs = s.ctxs
          ∧ ∀ v, v ∈ participants x level u → ∀ r, resOf s v c = some r → r.arrived.contains level = true →
              (r.core.wait = .none → ∃ r', resOf t v c = some r' ∧ r'.arrived.contains level = false ∧ Tbl.find? r'.barDone level = some 1 ∧ r'.core = r.core)
              ∧ (∀ gd, r.core.wait = .bar gd level → ∃ r', resOf t v c = some r' ∧ r'.arrived.contains level = false
                  ∧ Tbl.find? r'.barDone level = none ∧ r'.core = { gSet r.core gd 1 with wait := .none }
                  ∧ (r.st = .saved → retired r.core = true → r.held = false → r'.st = .ready)))
      ∧ ((level = 0 ∨ ¬ failed) → exec (.barrierFail c level u) s = .next s))

/-- Tables 6.19 and 5.10: what the system instructions return and clear. -/
def Sys2Proof.Claims.SystemReads : Prop :=
  ∀ (s : State) (h : Nat) (t : Hart) (k : Core) (x : Ctx) (w : W64), Claims.Issues s h t k x 0xC w →
    let writes (v : W64) : Out := .next (setHartCore s t (retire (gSet k (iGD w) v)))
    (iOp w = 0 →
      (iImm16 w % 256 = 0 → exec (.cxShape h) s = writes 4) ∧ (iImm16 w % 256 = 6 → exec (.cxShape h) s = writes 128)
      ∧ (iImm16 w % 256 = 9 → exec (.cxShape h) s = writes 0x824)
      ∧ (iImm16 w % 256 = 0x10 → exec (.cxShape h) s = writes (BitVec.ofNat 64 (hartCtx s t)))
      ∧ (iImm16 w % 256 = 0x11 → exec (.cxShape h) s = writes (BitVec.ofNat 64 x.units.length))
      ∧ (iImm16 w % 256 = 0x15 → exec (.cxShape h) s = writes (BitVec.ofNat 64 (x.usSize * 65536)))
      ∧ (0x24 ≤ iImm16 w % 256 → exec (.cxShape h) s = writes 0))
    ∧ (iOp w = 2 → exec (.cxFlags h) s = writes (k.sticky.setWidth 64))
    ∧ (iOp w = 3 → exec (.cxFlagsClr h) s = .next (setHartCore s t (retire { k with sticky := k.sticky &&& ~~~(BitVec.ofNat 32 (fld w 8 0)) })))
    ∧ (iOp w = 4 → exec (.cxAflag h) s = writes ((Tbl.get 0 k.aflag (fld w 1 0)).setWidth 64))
    ∧ (iOp w = 5 → exec (.cxTime h) s = writes s.time.now)
    ∧ (iOp w = 6 → ∃ s' e, exec (.cxEvent h) s = .next s' ∧ hartCore s' t = some (retire k) ∧ s'.evs = s.evs ++ [e] ∧ e.code = 0x0104 ∧ e.cls = clsNotice
        ∧ e.arg1 = gGet k (iGA w) ∧ e.arg0.toNat = (iImm16 w * 2 ^ 16 + hartCtx s t * 16) % 2 ^ 32 ∧ e.time = s.time.now ∧ s'.mem = s.mem)

/-- R170, R232: `cx.xln` goes through VQ and sets the network's mode when it reaches the head. -/
def Sys2Proof.Claims.CrossLaneModeResults : Prop :=
  ∀ (s : State) (h : Nat) (t : Hart) (k : Core) (x : Ctx),
    (∀ w, Claims.Issues s h t k x 0xC w → iOp w = 1 →
      (queueFull k 3 = true → exec (.cxXln h false) s = .next s)
      ∧ (queueFull k 3 = false → ∃ k', exec (.cxXln h false) s = .next (setHartCore s t k') ∧ k'.pc = k.pc + 8 ∧ k'.xln = k.xln
          ∧ k'.vq = k.vq ++ [{ w := w, pc := k.pc, seq := k.seq }]))
    ∧ (∀ e, Claims.VqFront s h t k x 0xC e → iOp e.w = 1 →
      ∃ s' k', exec (.cxXln h true) s = .next s' ∧ hartCore s' t = some k' ∧ k'.xln = bit e.w 0 ∧ k'.vq = k.vq.filter (fun f => f.seq != e.seq)
        ∧ k'.live = k.live.filter (fun p => p.1 != e.seq) ∧ k'.v = k.v ∧ s'.mem = s.mem)

/-- R210, R264, R267, R396, R334, R328: `cx.yield` leaves the unit when another resident is Ready; `cx.halt`, once every entry of the context
has completed, raises the halt event and waits for the host, and in a stack program ends the instance, whose flags join its command's. -/
def Sys2Proof.Claims.YieldAndHalt : Prop :=
  ∀ (s : State) (h : Nat) (k : Core) (x : Ctx) (w : W64),
    (∀ u c r, Claims.Issues s h (.res u c) k x 0xC w → resOf s u c = some r → r.st = .running →
      (iOp w = 7 → ∃ t r', exec (.cxYield h) s = .next t ∧ resOf t u c = some r' ∧ Claims.CoreKept (retire k) r'.core ∧ t.mem = s.mem
        ∧ r'.st = (if otherReady s u c then .saving else .running))
      ∧ (iOp w = 8 → k.live ≠ [] → exec (.cxHalt h) s = .next s)
      ∧ (iOp w = 8 → k.live = [] → ∃ t r' e more, exec (.cxHalt h) s = .next t ∧ resOf t u c = some r' ∧ Claims.CoreKept { retire k with wait := .halt } r'.core
          ∧ r'.st = (if x.swait && otherReady s u c then .saving else .running) ∧ t.evs = s.evs ++ e :: more ∧ (r'.st = .running → more = [])
          ∧ e.code = 0x0103 ∧ e.arg0.toNat = (c * 2 ^ 20 + u * 2 ^ 12) % 2 ^ 32 ∧ e.arg1 = k.pc.setWidth 64 ∧ t.mem = s.mem))
    ∧ (∀ st i, Claims.Issues s h (.inst st i) k x 0xC w → iOp w = 8 → k.live = [] →
      let n := instOf s st i
      ∃ t, exec (.cxHalt h) s = .next t ∧ (instOf t st i).active = false ∧ (instOf t st i).core = retire k ∧ t.res = s.res ∧ t.mem = s.mem
        ∧ (seOf t st).cmds = (seOf s st).cmds.map (fun m =>
            if m.stream = false ∧ m.op = 0 ∧ m.ctx = some n.ctx ∧ m.unit = n.unit ∧ m.ent.seq = n.seq then
              { m with flags := m.flags ||| k.sticky.setWidth 9 } else m))

/-- R37, R138, R180, R210 to R217, R29, Table 5.6: a unit with nothing running runs the resident selected when the last one left Running, or
the best Ready one; a context being saved whose arrays stand still writes its save area, is Saved and gives up its unit; a slice ends on a
multiple of SLICE µs of fabric time, and the unit then selects the resident to follow.
Where the spec leaves a point open it holds of the model's choices (log entries 13, 15, 16, 98). -/
def Obligations.UnitSwitching : Prop :=
  (∀ (s : State) (u c : Nat) (r : Res), (unitOf s u).running = none → (unitOf s u).en = true → (unitOf s u).quar = .inService →
    (islandOn s (islandOf s u) = true ∨ islandReady s (islandOf s u) = true) → resOf s u c = some r →
    (((unitOf s u).next = none ∧ bestReady s u = some (c, r)) ∨ ((unitOf s u).next = some c ∧ mayRun s (c, r) = true)) →
    (∀ x, ctxOf s c = some x → savePoison s x u = []) → r.core.wait = .none →
    ∃ t, exec (.unitSelect u) s = .next t ∧ (unitOf t u).running = some c ∧ (unitOf t u).next = none ∧ resOf t u c = some { r with st := .running }
      ∧ islandOn t (islandOf s u) = true ∧ t.mem = s.mem ∧ t.ctxs = s.ctxs)
  ∧ (∀ (s : State) (u c : Nat) (r : Res) (x : Ctx), resOf s u c = some r → ctxOf s c = some x → live s c = true → r.st = .saving →
      arraysStill r.core = true → x.preempt = [] → (unitOf s u).running = some c →
      let b := usAddr u (saveOff x)
      ∃ t r', exec (.saveComplete u c) s = .next t ∧ resOf t u c = some r' ∧ (unitOf t u).running = none
        ∧ (∀ a, (∀ p, p ∈ saveImage r.core → a < b + p.1 ∨ b + p.1 + p.2.length ≤ a) →
            memByte t a = if b ≤ a ∧ a < b + saveSize ∧ savedWord r.core ((a - b) / 32 * 32) = true then 0 else memByte s a)
        ∧ (∀ i, i < 92 → u * 2048 + x.saveOff + i ∈ t.heldData)
        ∧ (r'.st = .saved ∨ r'.st = .ready) ∧ (waitHolds r.core = true → r'.st = .saved) ∧ r'.core.g = r.core.g ∧ r'.core.pc = r.core.pc
        ∧ r'.core.v = r.core.v ∧ r'.core.t = r.core.t ∧ r'.core.live = r.core.live)
  ∧ (∀ (s : State) (u c : Nat) (r : Res) (x : Ctx), (unitOf s u).running = some c → resOf s u c = some r → ctxOf s c = some x → live s c = true →
      r.st = .running → x.slice ≠ 0 →
      ∀ n : W64, let s1 := advance s n
      (s1.time.now.toNat % (x.slice * 16000) = 0 → ∃ t r', exec (.sliceEnd u n) s = .next t ∧ resOf t u c = some r' ∧ r'.st = .saving
        ∧ Claims.CoreKept r.core r'.core ∧ (unitOf t u).next = (bestReady t u).map (·.1) ∧ t.mem = s.mem ∧ t.order = s.order + 1)
      ∧ (s1.time.now.toNat % (x.slice * 16000) ≠ 0 → exec (.sliceEnd u n) s = .next s1))


/-! ## Movers -/

/-- R361, R368, R370, R372, Tables 6.13, 9.1, 9.2: the mover begins an entry by the rule of its kind. A copy of zero bytes completes at once
with status 0; a length beyond 32 bits, a bad descriptor and an end on the rick are queue-protocol faults, an end outside the permitted
extents or the share an extent fault; otherwise the entry's plan stands.
Where the spec leaves a point open it holds of the model's choices (log entry 27). -/
def Obligations.MoverAcceptance : Prop :=
  (∀ (s : State) (h q : Nat) (t : Hart) (k : Core) (x : Ctx) (e : QEnt), Claims.Begins s h q t k x e →
    let src := (cap e (iQA e.w)).toNat
    let dst := (cap e (iQB e.w)).toNat
    let n := (cap e (iQC e.w)).toNat
    let planned (k' : Core) (sp dp : Space) : Prop := Claims.MvChanged k k' q e.seq (fun m => { m with
      kind := .copy, sp := sp, src := src, dp := dp, dst := dst, rowBytes := n, rows := 1, total := n, row := 0, off := 0, hint := 0 })
    let rick (sp dp : Space) : Prop := (endRick x sp src n || endRick x dp dst n) = true
    let free (sp dp : Space) : Prop := 0 < n ∧ n < 2 ^ 32 ∧ (endRick x sp src n || endRick x dp dst n) = false
    let ends (sp dp : Space) : Bool := endOk s t x sp (·.r) src n && endOk s t x dp (·.w) dst n
    let empty (s' : State) : Prop := Claims.MvEnds s' t k q e 0 0 ∧ s'.mem = s.mem
    let get := isMv 0 e.w = true ∧ isPop t x e = false
    let put := isMv 1 e.w = true ∧ isPush t x e = false ∧ isSend s t e = false
    let copy := isMv 2 e.w = true
    let off := (cap e (iQA e.w)).toNat
    let d := leWords 8 (memBytes s (localAddr s t x off) 64)
    let readable := off % 32 = 0 ∧ off + 64 ≤ shareSize x ∧ rawPoison s (localAddr s t x off) 64 = false
    (get → (2 ^ 32 ≤ n ∨ (0 < n ∧ rick .ctx .share)) → exec (.mvGet h q) s = .next (faultEnt s t fQueue e))
    ∧ (get → n = 0 → ∃ s', exec (.mvGet h q) s = .next s' ∧ empty s')
    ∧ (get → free .ctx .share → ends .ctx .share = false → exec (.mvGet h q) s = .next (faultEnt s t fExtent e))
    ∧ (get → free .ctx .share → ends .ctx .share = true → ∃ k', exec (.mvGet h q) s = .next (setHartCore s t k') ∧ planned k' .ctx .share)
    ∧ (put → (2 ^ 32 ≤ n ∨ (0 < n ∧ rick .share .ctx)) → exec (.mvPut h q) s = .next (faultEnt s t fQueue e))
    ∧ (put → n = 0 → ∃ s', exec (.mvPut h q) s = .next s' ∧ empty s')
    ∧ (put → free .share .ctx → ends .share .ctx = false → exec (.mvPut h q) s = .next (faultEnt s t fExtent e))
    ∧ (put → free .share .ctx → ends .share .ctx = true → ∃ k', exec (.mvPut h q) s = .next (setHartCore s t k') ∧ planned k' .share .ctx)
    ∧ (copy → (2 ^ 32 ≤ n ∨ (0 < n ∧ rick .ctx .ctx)) → exec (.mvCopy h q) s = .next (faultEnt s t fQueue e))
    ∧ (copy → n = 0 → ∃ s', exec (.mvCopy h q) s = .next s' ∧ empty s')
    ∧ (copy → free .ctx .ctx → ends .ctx .ctx = false → exec (.mvCopy h q) s = .next (faultEnt s t fExtent e))
    ∧ (copy → free .ctx .ctx → ends .ctx .ctx = true → ∃ k', exec (.mvCopy h q) s = .next (setHartCore s t k') ∧ planned k' .ctx .ctx)
    ∧ (isMv 3 e.w = true → (off % 32 ≠ 0 ∨ shareSize x < off + 64) → exec (.mvDescBlock h q) s = .next (faultEnt s t fExtent e))
    ∧ (isMv 3 e.w = true → off % 32 = 0 → off + 64 ≤ shareSize x → rawPoison s (localAddr s t x off) 64 = true →
        exec (.mvDescBlock h q) s = .next (faultEnt s t fPoison e))
    ∧ (isMv 3 e.w = true → readable → (dKind d = 0 ∨ 4 < dKind d ∨ (dKind d = 1 ∧ blockOk d = false)) →
        exec (.mvDescBlock h q) s = .next (faultEnt s t fQueue e))
    ∧ (isMv 3 e.w = true → readable → dKind d = 1 → blockOk d = true →
        (∀ r, r < dCount d → endRick x (srcSpace d) (dSrc d + r * dSstride d) (dRow d) = false ∧ endRick x (dstSpace d) (dDst d + r * dDstride d) (dRow d) = false
          ∧ endOk s t x (srcSpace d) (·.r) (dSrc d + r * dSstride d) (dRow d) = true ∧ endOk s t x (dstSpace d) (·.w) (dDst d + r * dDstride d) (dRow d) = true) →
        ∃ k', exec (.mvDescBlock h q) s = .next (setHartCore s t k') ∧ Claims.MvChanged k k' q e.seq (fun m => { m with
          kind := .copy, desc := d, sp := srcSpace d, src := dSrc d, dp := dstSpace d,
          dst := dDst d, sstride := dSstride d, dstride := dDstride d, rowBytes := dRow d, rows := dCount d, total := dRow d * dCount d, row := 0, off := 0, hint := dHint d }))
    ∧ (isMv 3 e.w = true → readable → dKind d = 2 →
        (listOk d = false → exec (.mvDescList h q) s = .next (faultEnt s t fQueue e))
        ∧ (listOk d = true → shareSize x < dSrc d + 16 * dCount d → exec (.mvDescList h q) s = .next (faultEnt s t fExtent e))
        ∧ (listOk d = true → dSrc d + 16 * dCount d ≤ shareSize x →
            ∃ k', exec (.mvDescList h q) s = .next (setHartCore s t k') ∧ Claims.MvChanged k k' q e.seq (fun m => { m with
              kind := .list, desc := d, sp := srcSpace d, dp := dstSpace d, hint := dHint d,
              listLeft := dCount d, listAt := dSrc d, rows := 0, row := 0, off := 0 })))
    ∧ (isMv 0x18 e.w = true → ∃ s', exec (.mvLim h q) s = .next s' ∧ Claims.MvEnds s' t k q e 0 0 ∧ s'.mem = s.mem
        ∧ (hartCore s' t).map (fun k' => (mqOf k' q).limit) = some (iImm9 e.w)))
  ∧ (∀ (s : State) (h q : Nat) (t : Hart) (k : Core) (x : Ctx) (m : MvEnt), Claims.At s h t k x → issues s t = true →
      (mqOf k q).ents.find? (fun m => m.kind == .list && !m.stop && decide (m.rows ≤ m.row) && decide (0 < m.listLeft)) = some m →
      rawPoison s (localAddr s t x m.listAt) 16 = false →
      let d := leWords 2 (memBytes s (localAddr s t x m.listAt) 16)
      let n := wf d 0 63 48
      let src := wf d 0 47 0
      let dst := wf d 1 47 0
      (wf d 1 63 48 ≠ 0 → exec (.listEntryRead h q) s = .next (faultEnt s t fQueue m.ent))
      ∧ (wf d 1 63 48 = 0 → n = 0 → ∃ k', exec (.listEntryRead h q) s = .next (setHartCore s t k') ∧ Claims.MvChanged k k' q m.ent.seq (fun y => { y with listAt := y.listAt + 16, listLeft := y.listLeft - 1 }))
      ∧ (wf d 1 63 48 = 0 → 0 < n → endRick x m.sp src n = false → endRick x m.dp dst n = false → endOk s t x m.sp (·.r) src n = true →
          endOk s t x m.dp (·.w) dst n = true →
          ∃ k', exec (.listEntryRead h q) s = .next (setHartCore s t k') ∧ Claims.MvChanged k k' q m.ent.seq (fun y => { y with
            listAt := y.listAt + 16, listLeft := y.listLeft - 1, src := src, dst := dst,
            rowBytes := n, rows := 1, row := 0, off := 0, total := y.total + n })))

/-- R361, R362, R365 to R367, R257: a transfer of a share's bytes issues when the entry has one, the limit leaves room, its bytes meet no
outstanding transfer's and it is its queue's turn, round-robin among the queues that are ready; a performed transfer to the share writes
exactly its bytes; MOVER_ENTRY_BEGIN accepts an entry and issues its first transfer; an entry all of whose transfers are performed completes
with its status.
Where the spec leaves a point open it holds of the model's choices (log entries 26, 30, 104, 105). -/
def Obligations.MoverTransfers : Prop :=
  ∀ (s : State) (h q : Nat) (t : Hart) (k : Core) (x : Ctx), Claims.At s h t k x → q < 8 →
    (∀ e y, (mqOf k q).cancel = none → (mqOf k q).ents.any isCancel = false → issueEnt (mqOf k q) = some e → nextXfer e = some y →
      (e.kind = .copy ∨ e.kind = .list) → e.sp = .share → isRes t = true → y.len ≠ 0 →
      (issues s t && decide (outstanding (mqOf k q) < (mqOf k q).limit) && clear s t x (mqOf k q) y) = true →
      let waits := piecesWait s (endPieces s t x y.sp y.sa y.len)
      let ready (p : Nat) : Prop := ∃ z, readyXfer s t x (mqOf k p) = some z ∧ isEng z.1 = false
      let before (p : Nat) : Prop := p < 8 ∧ (p + 7 - k.mqRr % 8) % 8 < (q + 7 - k.mqRr % 8) % 8
      ((waits = true ∨ ∃ p, before p ∧ ready p) → exec (.transferIssue h q) s = .next s)
      ∧ (waits = false → (∀ p, before p → ¬ ready p) → ∃ s' k' b, exec (.transferIssue h q) s = .next s' ∧ hartCore s' t = some k' ∧ s'.mem = s.mem ∧ k'.mqRr = q
          ∧ Claims.MvChanged k { k' with mqRr := k.mqRr } q e.ent.seq (fun z => afterIssue z { y with data := memBytes s (localAddr s t x y.sa) y.len, bad := b })
          ∧ ((∀ i, i < y.len → poisoned s (localAddr s t x y.sa + i) = false) → b = false)))
    ∧ (∀ n e i y, kthOut (mqOf k q) n = some (e, i, y) → e.cancel = false → y.bad = false → y.dp = .share → y.data.length = y.len → y.len ≠ 0 →
        addrWaits s (localAddr s t x y.da) = false → (∀ i, i < y.len → poisoned s (localAddr s t x y.da + i) = false) →
        ∃ s' k', exec (.transferPerformed h q n) s = .next s' ∧ hartCore s' t = some k' ∧ Claims.Stored s s' (localAddr s t x y.da) y.data
          ∧ Claims.MvChanged k k' q e.ent.seq (fun z => afterPerform z i y) ∧ s'.ctxs = s.ctxs)
    ∧ (∀ e, Claims.Begins s h q t k x e → isMv 2 e.w = true → ((mqOf k q).ents.map (·.ent.seq)).Nodup →
        ∃ s1 s2, exec (.mvCopy h q) s = .next s1 ∧ exec (.moverEntryBegin h q) s = .next s2
          ∧ (accepted s1 t q e.seq = true → exec (.transferIssue h q) s1 = .next s2) ∧ (accepted s1 t q e.seq = false → s2 = s1))
    ∧ (∀ e, (mqOf k q).ents.find? mvDone = some e →
        ∃ s', exec (.moverEntryComplete h q) s = .next s' ∧ s'.mem = s.mem
          ∧ ((e.kind = .copy ∨ e.kind = .list ∨ e.kind = .push ∨ e.kind = .stream) → Claims.MvEnds s' t k q e.ent e.flags (statusWord e.code e.detail))
          ∧ ((e.kind = .remote ∨ e.kind = .flag) → Claims.MvEnds s' t k q e.ent e.flags (statusWord e.code e.acked))
          ∧ (e.kind = .red → Claims.MvEnds s' t k q e.ent e.flags (statusWord (if e.refused = 0 then 0 else 1) e.refused))
          ∧ (e.kind = .atom → iAOP e.ent.w < 0xA → Claims.MvEnds s' t k q e.ent e.flags e.old))
    ∧ ((mqOf k q).ents.find? mvDone = none → exec (.moverEntryComplete h q) s = .next s)

/-- R373 to R382, R392, R409, R531: a REMOTE entry and a flag name another device and take a new source tag, and wait under HOLD; a time-out
ends them with CODE 0x01, and frees the fence of one that a fence has stopped; a stream's control block starts at zero, FILL rises by 1 with
each filled slot, in the slot order, its signal behind those on the same way, and RELEASE outside [what was released, FILL] is a
queue-protocol fault. -/
def Sys2Proof.Claims.RemoteAndStreamEntries : Prop :=
  (∀ (s : State) (h q : Nat) (t : Hart) (k : Core) (x : Ctx) (e : QEnt), Claims.Begins s h q t k x e →
    let tag := if s.fab.tagN < 4096 then 4096 else s.fab.tagN
    let off := (cap e (iQA e.w)).toNat
    let d := leWords 8 (memBytes s (localAddr s t x off) 64)
    let readable := off % 32 = 0 ∧ off + 64 ≤ shareSize x ∧ rawPoison s (localAddr s t x off) 64 = false
    (isMv 3 e.w = true → readable → dKind d = 3 →
      ((remoteOk d = false ∨ dDevice d = s.fab.devId) → exec (.mvDescRemote h q) s = .next (faultEnt s t fQueue e))
      ∧ (remoteOk d = true → dDevice d ≠ s.fab.devId → s.fab.hold = true → exec (.mvDescRemote h q) s = .next s)
      ∧ (remoteOk d = true → dDevice d ≠ s.fab.devId → s.fab.hold = false →
          (∀ r, r < dCount d → endRick x (srcSpace d) (dSrc d + r * dSstride d) (dRow d) = false ∧ endOk s t x (srcSpace d) (·.r) (dSrc d + r * dSstride d) (dRow d) = true) →
          ∃ s' k', exec (.mvDescRemote h q) s = .next s' ∧ hartCore s' t = some k' ∧ s'.mem = s.mem
            ∧ tagOf s' tag = some (resKey (hartUnit s t) (hartCtx s t), q, e.seq)
            ∧ Claims.MvChanged k k' q e.seq (fun m => { m with
                kind := .remote, desc := d, sp := srcSpace d, src := dSrc d, dp := .remote,
                dst := dDevice d * 2 ^ 48 + dDst d, sstride := dSstride d, dstride := dDstride d, rowBytes := dRow d, rows := dCount d,
                total := dRow d * dCount d, row := 0, off := 0, hint := dHint d, tag := tag, dev := dDevice d })))
    ∧ (isMv 0x10 e.w = true →
        let a := (cap e (iQA e.w)).toNat
        let dev := fld (cap e (iQC e.w)) 19 0
        ((dev = s.fab.devId ∨ a % 8 ≠ 0 ∨ 2 ^ 48 ≤ a) → exec (.mvFlag h q) s = .next (faultEnt s t fQueue e))
        ∧ (dev ≠ s.fab.devId → a % 8 = 0 → a < 2 ^ 48 → s.fab.hold = true → exec (.mvFlag h q) s = .next s)
        ∧ (dev ≠ s.fab.devId → a % 8 = 0 → a < 2 ^ 48 → s.fab.hold = false →
            ∃ s' k', exec (.mvFlag h q) s = .next s' ∧ hartCore s' t = some k' ∧ s'.mem = s.mem
              ∧ Tbl.get 0 s'.fab.unacked tag = Tbl.get 0 s.fab.unacked tag + 8 ∧ tagOf s' tag = some (resKey (hartUnit s t) (hartCtx s t), q, e.seq)
              ∧ Claims.MvChanged k k' q e.seq (fun m => { m with kind := .flag, tag := tag, dev := dev, total := 8, rows := 1, row := 1 })))
    ∧ (isMv 3 e.w = true → readable → dKind d = 4 →
        let ring := dCount d * dRow d
        let ctl := dDstride d
        ((q < 6 ∨ streamOk d = false) → exec (.mvDescStream h q) s = .next (faultEnt s t fQueue e))
        ∧ (6 ≤ q → streamOk d = true → dEng d = false → meet (dDst d, ring) (ctl, 16) = false → touchesRick x (dSrc d) (dTotal d) = false →
            dDst d + ring ≤ shareSize x → ctl + 16 ≤ shareSize x → ctxOk s x (fun y => y.r && (!(dEng d) || y.s)) (dSrc d) (dTotal d) = true →
            rawPoison s (localAddr s t x ctl) 16 = false →
            ∃ s' k', exec (.mvDescStream h q) s = .next s' ∧ hartCore s' t = some k' ∧ Claims.Stored s s' (localAddr s t x ctl) (zeros 16)
              ∧ Claims.MvChanged k k' q e.seq (fun m => { m with
                  kind := .stream, desc := d, sp := .ctx, src := dSrc d, dp := .share, dst := dDst d,
                  rowBytes := dRow d, rows := 0, total := dTotal d, row := 0, off := 0, hint := dHint d }))))
  ∧ (∀ (s : State) (h q : Nat) (t : Hart) (k : Core) (x : Ctx), Claims.At s h t k x → q < 8 →
      (∀ m, (mqOf k q).ents.find? (fun e => (e.kind == .remote || e.kind == .flag) && decide (0 < Tbl.get 0 s.fab.unacked e.tag)) = some m →
        ∃ s', exec (.remoteAckTimeout h q) s = .next s' ∧ s'.mem = s.mem ∧ Tbl.get 0 s'.fab.unacked m.tag = 0 ∧ tagOf s' m.tag = none
          ∧ (m.cancel = true → { s' with fab := s.fab } = s)
          ∧ (m.cancel = false → Claims.MvEnds s' t k q m.ent m.flags (statusWord 1 m.acked)
              ∧ ∀ c, (mqOf k q).cancel = some c → (hartCore s' t).map (fun k' => (mqOf k' q).cancel)
                  = some (some { c with wasted := c.wasted + if m.ent.seq ∈ c.covers then m.read - m.acked else 0 })))
      ∧ (∀ m, (mqOf k q).ents.find? (fun e => e.kind == .stream && !e.cancel && !e.stop && decide (e.fill < streamSlots e)
            && Tbl.get 0 e.slotB e.fill == slotSize e e.fill) = some m →
          rawPoison s (localAddr s t x (dDstride m.desc)) 8 = false →
          ∃ s' k', exec (.streamSlotFilled h q) s = .next s' ∧ hartCore s' t = some k' ∧ Claims.Stored s s' (localAddr s t x (dDstride m.desc)) (leBytes 8 (m.fill + 1))
            ∧ Claims.MvChanged k k' q m.ent.seq (fun z => { z with fill := z.fill + 1 })
            ∧ ∀ u c r, t = .res u c → resOf s u c = some r →
                let g : Signal := { stop := unitStop s u, fromU := u, fromC := c, op := 2, value := 1, target := BitVec.ofNat 32 (c * 2 ^ 20 + dSigw m.desc * 2 ^ 16 + u) }
                let behind := dSigen m.desc && s.signals.any (sameWay s g)
                s'.signals = s.signals ++ (if behind then [g] else [])
                ∧ ∃ r', resOf s' u c = some r' ∧ Tbl.get 0 r'.sig (dSigw m.desc) = Tbl.get 0 r.sig (dSigw m.desc) + (if dSigen m.desc && !behind then 1 else 0))
      ∧ (∀ m, (mqOf k q).ents.find? (fun e => e.kind == .stream && !e.cancel && !e.stop) = some m →
          let a := localAddr s t x (dDstride m.desc + 8)
          let v := leNat (memBytes s a 8)
          (rawPoison s a 8 = true → exec (.streamReleaseCredit h q) s = .next (faultEnt s t fPoison m.ent))
          ∧ (rawPoison s a 8 = false → (v < m.release ∨ m.fill < v) → ∃ k', Claims.MvChanged k k' q m.ent.seq (fun z => { z with stop := true })
              ∧ exec (.streamReleaseCredit h q) s = .next (faultEnt (setHartCore s t k') t fQueue m.ent))
          ∧ (rawPoison s a 8 = false → m.release ≤ v → v ≤ m.fill →
              ∃ k', exec (.streamReleaseCredit h q) s = .next (setHartCore s t k') ∧ Claims.MvChanged k k' q m.ent.seq (fun z => { z with release := v, slotB := z.slotB.filter (fun p => decide (v ≤ p.1)) }))))

/-- R386 to R392: `mv.cancel` covers every entry before it that is not complete: one that has not begun leaves at once with CODE 0x03, one under
way stops unless it goes on to its own completion; the fence completes when what it stopped has drained, and reports the bytes wasted. -/
def Sys2Proof.Claims.CancelFences : Prop :=
  ∀ (s : State) (h q : Nat) (t : Hart) (k : Core) (x : Ctx), Claims.At s h t k x → q < 8 →
    (∀ c, (mqOf k q).cancel = none → issues s t = true → (mqOf k q).ents.find? isCancel = some c →
      let cov := ((mqOf k q).ents.takeWhile (fun e => e.ent.seq != c.ent.seq)).filter (fun e => !(mvDone e))
      (cov = [] → ∃ s', exec (.mvCancel h q) s = .next s' ∧ Claims.MvEnds s' t k q c.ent 0 0 ∧ s'.mem = s.mem)
      ∧ (cov ≠ [] → ∃ s' k' f, exec (.mvCancel h q) s = .next s' ∧ hartCore s' t = some k' ∧ s'.mem = s.mem ∧ s'.fab = s.fab
          ∧ (mqOf k' q).cancel = some f ∧ f.ent = c.ent ∧ f.covers = cov.map (fun e => e.ent.seq) ∧ f.wasted = ((cov.map slotWaste).foldl (· + ·) 0)
          ∧ (∀ e, e ∈ cov → e.kind = .fresh → ∀ m, m ∈ (mqOf k' q).ents → m.ent.seq ≠ e.ent.seq)
          ∧ (∀ e, e ∈ cov → e.kind ≠ .fresh → e.ent.mark = false → carried e = false →
              ∀ m, m ∈ (mqOf k' q).ents → m.ent.seq = e.ent.seq → m.cancel = true ∧ m.stop = true)))
    ∧ (∀ c, (mqOf k q).cancel = some c →
        let left := (mqOf k q).ents.filter (fun e => c.covers.contains e.ent.seq)
        (left.all (fun e => e.cancel && cancelReady s e) = false → exec (.cancelComplete h q) s = .next s)
        ∧ (left.all (fun e => e.cancel && cancelReady s e) = true → ∃ s' k', exec (.cancelComplete h q) s = .next s' ∧ hartCore s' t = some k'
            ∧ s'.mem = s.mem ∧ (mqOf k' q).cancel = none
            ∧ (∀ m, m ∈ (mqOf k' q).ents → c.covers.contains m.ent.seq = false ∧ m.ent.seq ≠ c.ent.seq)
            ∧ (mvDest c.ent ≠ 0 → gGet k' (mvDest c.ent)
                = statusWord 0 (c.wasted + (left.map (fun e => if e.kind == .remote then e.read - e.acked else 0)).foldl (· + ·) 0))))

/-- R259, R260, R287 to R296, Table 6.16: an atomic and a reduction check their target before they begin; a line-operation, while the entry
goes on, replaces the target element by the operation's result, keeps its old value for the register, and leaves every other byte as it
reads (a byte of which a slice holds a clean copy that memory does not, set aside: the line may be replaced).
Where the spec leaves a point open it holds of the model's choices (log entries 31, 121). -/
def Obligations.AtomicResults : Prop :=
  (∀ (s : State) (h q : Nat) (t : Hart) (k : Core) (x : Ctx) (e : QEnt), Claims.Begins s h q t k x e →
    (isMv 8 e.w = true →
      let a := (cap e (iQA e.w)).toNat
      (touchesRick x a (tgtBytes e.w) = true → exec (.mvAtom h q) s = .next (faultEnt s t fQueue e))
      ∧ (touchesRick x a (tgtBytes e.w) = false → targetOk s x e.w a 1 = false → exec (.mvAtom h q) s = .next (faultEnt s t fExtent e))
      ∧ (touchesRick x a (tgtBytes e.w) = false → targetOk s x e.w a 1 = true →
          ∃ k', exec (.mvAtom h q) s = .next (setHartCore s t k') ∧ Claims.MvChanged k k' q e.seq (fun m => { m with kind := .atom, dst := a, elem := 1, rows := 1, row := 0 })))
    ∧ (isMv 9 e.w = true →
      let src := (cap e (iQA e.w)).toNat
      let a := (cap e (iQB e.w)).toNat
      let n := (cap e (iQC e.w)).toNat
      (n = 0 → ∃ s', exec (.mvRed h q) s = .next s' ∧ Claims.MvEnds s' t k q e 0 0 ∧ s'.mem = s.mem)
      ∧ (0 < n → touchesRick x a (n * tgtBytes e.w) = true → exec (.mvRed h q) s = .next (faultEnt s t fQueue e))
      ∧ (0 < n → touchesRick x a (n * tgtBytes e.w) = false → (shareSize x < src + 4 * n ∨ targetOk s x e.w a n = false) →
          exec (.mvRed h q) s = .next (faultEnt s t fExtent e))
      ∧ (0 < n → touchesRick x a (n * tgtBytes e.w) = false → src + 4 * n ≤ shareSize x → targetOk s x e.w a n = true →
          ∃ k', exec (.mvRed h q) s = .next (setHartCore s t k') ∧ Claims.MvChanged k k' q e.seq (fun m => { m with
            kind := .red, src := src, dst := a, elem := n,
            rows := (a + n * tgtBytes e.w - 1) / 128 - a / 128 + 1, row := 0 }))))
  ∧ (∀ (s : State) (h q : Nat) (t : Hart) (k : Core) (x : Ctx) (m : MvEnt) (d : Nat), Claims.At s h t k x →
      (mqOf k q).ents.find? (fun e => (e.kind == .atom || e.kind == .red) && decide (e.row < e.rows)) = some m →
      m.kind = .atom → m.elem = 1 → m.row = 0 → iAOP m.ent.w < 0xA → m.dst % tgtBytes m.ent.w = 0 → ctxDev x m.dst = some d → isHbm d = true →
      d % 128 = m.dst % 128 → addrFailed s d = false → (s.lines.map (·.1)).Nodup →
      ((addrWaits s d = true ∨ goesOn s t k q m = false) → exec (.atomicLineOp h q) s = .next s)
      ∧ (addrWaits s d = false → goesOn s t k q m = true → (match lineOf s (d / 128) with | some l => l.poison | none => poisoned s (d / 128 * 128)) = true →
          ∃ s1, exec (.atomicLineOp h q) s = .next (faultEnt s1 t fPoison m.ent) ∧ s1.mem = s.mem ∧ s1.ctxs = s.ctxs)
      ∧ (addrWaits s d = false → goesOn s t k q m = true →
          (match lineOf s (d / 128) with | some l => l.poison = false ∧ l.data.length = 128 | none => poisoned s (d / 128 * 128) = false) →
          let z := tgtBytes m.ent.w
          let old := leNat ((List.range z).map (fun i => viewByte s (d + i)))
          let new := aopInt (iAOP m.ent.w) (8 * z) old ((cap m.ent (iQB m.ent.w)).toNat % 2 ^ (8 * z)) ((cap m.ent (iQC m.ent.w)).toNat % 2 ^ (8 * z))
          ∃ s' k', exec (.atomicLineOp h q) s = .next s' ∧ hartCore s' t = some k'
            ∧ Claims.MvChanged k k' q m.ent.seq (fun y => { y with row := y.row + 1, old := BitVec.ofNat 64 old })
            ∧ (List.range z).map (fun i => viewByte s' (d + i)) = leBytes z new
            ∧ ∀ b, (b < d ∨ d + z ≤ b) → Claims.Coherent s b → viewByte s' b = viewByte s b))

/-- R424 to R430, R436: a push raises PUSH by its length and joins the open frame; a seal closes it; a pop takes the newest bytes of the
oldest sealed frame that holds any; a frame whose bytes are popped is freed when it is the oldest; an entry that waits is reported once.
Where the spec leaves a point open it holds of the model's choices (log entry 41). -/
def Obligations.RickResults : Prop :=
  (∀ (s : State) (h q u c : Nat) (k : Core) (x : Ctx) (b : RickBind) (e : QEnt), Claims.Begins s h q (.res u c) k x e → x.rick = some b →
    rawPoison s (localAddr s (.res u c) x b.ctlOff) 64 = false →
    let r := rickOf s u c
    let n := lenOf e
    let ctl (s' : State) : Prop := Claims.Stored s s' (localAddr s (.res u c) x b.ctlOff) (ctlBytes b (rickOf s' u c))
    (isPush (.res u c) x e = true → n ≠ 0 →
      (pushLenOk b e = false → exec (.rickPush h q) s = .next (faultEnt s (.res u c) fQueue e))
      ∧ (pushLenOk b e = true → endOk s (.res u c) x .share (·.r) (cap e (iQA e.w)).toNat n = true → pushRoom b r n = false → exec (.rickPush h q) s = .next s)
      ∧ (pushLenOk b e = true → endOk s (.res u c) x .share (·.r) (cap e (iQA e.w)).toNat n = true → pushRoom b r n = true →
          let f := (openFrame r).getD { base := r.push }
          ∃ s' k', exec (.rickPush h q) s = .next s' ∧ hartCore s' (.res u c) = some k' ∧ ctl s' ∧ (rickOf s' u c).push = r.push + n
            ∧ (rickOf s' u c).tail = r.tail ∧ openFrame (rickOf s' u c) = some { f with bytes := f.bytes + n, pushes := f.pushes + 1 }
            ∧ Claims.MvChanged k k' q e.seq (fun m => { m with
                kind := .push, sp := .share, src := (cap e (iQA e.w)).toNat, dp := .rick, dst := r.push,
                rowBytes := n, rows := 1, total := n, row := 0, off := 0, hint := 1, elem := f.base })))
    ∧ (isPush (.res u c) x e = true → n = 0 → (mqOf k q).ents.find? (fun e => e.kind == .seal) = none → ((mqOf k q).ents.map (·.ent.seq)).Nodup →
        (openFrame r = none → ∃ s', exec (.rickSeal h q) s = .next s' ∧ Claims.MvEnds s' (.res u c) k q e 0 0 ∧ s'.mem = s.mem)
        ∧ (∀ f, openFrame r = some f → f.fin = 0 → b.fold = true → pushesLeft k f.base = false →
            ∃ s', exec (.rickSeal h q) s = .next s' ∧ Claims.MvEnds s' (.res u c) k q e 0 0 ∧ (rickOf s' u c).push = r.push
              ∧ (rickOf s' u c).sealedN = (r.sealedN + 1) % 2 ^ 32 ∧ openFrame (rickOf s' u c) = none)
        ∧ (∀ f, openFrame r = some f → f.fin = 0 → b.fold = false → pushesLeft k f.base = false → piecesWait s (endPieces s (.res u c) x .rick r.push 128) = false →
            ∃ s', exec (.rickSeal h q) s = .next s' ∧ Claims.MvEnds s' (.res u c) k q e 0 0 ∧ (rickOf s' u c).push = r.push + 128
              ∧ (rickOf s' u c).sealedN = (r.sealedN + 1) % 2 ^ 32 ∧ openFrame (rickOf s' u c) = none))
    ∧ (isPop (.res u c) x e = true →
        let dst := (cap e (iQB e.w)).toNat
        ((n % 128 ≠ 0 ∨ dst % 32 ≠ 0 ∨ 2 ^ 32 ≤ n) → exec (.rickPop h q) s = .next (faultEnt s (.res u c) fQueue e))
        ∧ (n % 128 = 0 → dst % 32 = 0 → n < 2 ^ 32 → popFrame r = none → exec (.rickPop h q) s = .next s)
        ∧ (∀ f, n % 128 = 0 → dst % 32 = 0 → n < 2 ^ 32 → popFrame r = some f →
            (n = 0 → ∃ s', exec (.rickPop h q) s = .next s' ∧ Claims.MvEnds s' (.res u c) k q e 0 0 ∧ ctl s' ∧ (rickOf s' u c).push = r.push
              ∧ (rickOf s' u c).frames = r.frames.map (fun g => if g.base = f.base then { g with pop := g.base } else g))
            ∧ (0 < n → (f.pop - f.base < n ∨ (b.fold = true ∧ f.pop - n < rickKeep b r)) → exec (.rickPop h q) s = .next (faultEnt s (.res u c) fQueue e))
            ∧ (0 < n → n ≤ f.pop - f.base → (b.fold = false ∨ rickKeep b r ≤ f.pop - n) → endOk s (.res u c) x .share (·.w) dst n = true →
                ∃ s' k', exec (.rickPop h q) s = .next s' ∧ hartCore s' (.res u c) = some k' ∧ ctl s' ∧ (rickOf s' u c).push = r.push
                  ∧ (rickOf s' u c).frames = r.frames.map (fun g => if g.base = f.base ∧ g.sealed = true then { g with pop := g.pop - n, busy := g.busy + 1 } else g)
                  ∧ Claims.MvChanged k k' q e.seq (fun m => { m with
                      kind := .pop, sp := .rick, src := f.pop - n, dp := .share, dst := dst, rowBytes := n,
                      rows := 1, total := n, row := 0, off := 0, hint := 1, elem := f.base }))))
    ∧ (∀ m, mvEntOf s (.res u c) q e.seq = some m →
        ((m.stalled = true ∨ rickWaits (.res u c) x b r e = false) → exec (.rickStall h q) s = .next s)
        ∧ (m.stalled = false → rickWaits (.res u c) x b r e = true →
            ∃ s' k' ev, exec (.rickStall h q) s = .next s' ∧ hartCore s' (.res u c) = some k' ∧ Claims.MvChanged k k' q e.seq (fun z => { z with stalled := true })
              ∧ s'.mem = s.mem ∧ s'.evs = s.evs ++ [ev] ∧ ev.code = 0x0106 ∧ ev.cls = clsWarning ∧ ev.arg1 = BitVec.ofNat 64 n)))
  ∧ (∀ (s : State) (h u c : Nat) (k : Core) (x : Ctx) (b : RickBind), Claims.At s h (.res u c) k x → x.rick = some b →
      rawPoison s (localAddr s (.res u c) x b.ctlOff) 64 = false →
      let r := rickOf s u c
      (r.frames = [] → exec (.rickFrameFree h) s = .next s)
      ∧ (∀ f rest, r.frames = f :: rest →
          (f.sealed = true → f.fin ≠ 0 → f.pop = f.base → f.busy = 0 → ∃ s', exec (.rickFrameFree h) s = .next s'
            ∧ rickOf s' u c = { r with tail := f.fin, freedN := (r.freedN + 1) % 2 ^ 32, frames := rest }
            ∧ Claims.Stored s s' (localAddr s (.res u c) x b.ctlOff) (ctlBytes b (rickOf s' u c)))
          ∧ ((f.sealed = false ∨ f.fin = 0 ∨ f.pop ≠ f.base ∨ f.busy ≠ 0) → exec (.rickFrameFree h) s = .next s)))


/-! ## Stack engines -/

/-- R297, R321 to R327, R445, R452, R505, Table 6.14: `seCommandAccept` completes: the head of SQ is accepted by its engines with its
descriptor copied; it waits while a window holds it, and is then noted in its partition's order, while an engine is full, a Live set or an
adapter generation lies in its write ranges or a dirty line of its ranges cannot go back; it faults as its checks say. `setWriteHeld`
completes: a write held for 10 ms is reported once.
Where the spec leaves a point open it holds of the model's choices (log entries 32, 33, 103, 116). -/
def Obligations.StackCommandAcceptance : Prop :=
  ∀ (s : State) (h u c : Nat) (k : Core) (x : Ctx), Claims.At s h (.res u c) k x →
    (∀ e, issues s (.res u c) = true → sqHead s u c k = some e → iClass e.w = 8 →
      let op := iOp e.w
      let off := (cap e (iQA e.w)).toNat
      let n := if op = 4 then 160 else 64
      let d := leWords (n / 8) (memBytes s (shareAddr x u off) n)
      let p := parseSe op d
      let engines := match p.ops with
        | [] => []
        | o :: _ => enginesOf x op o
      let ops := keptOps op d (if op = 4 then emitChoice s x d else []) p.ops
      let wr := opRanges x ops (fun o => o.w)
      let free := (seWeights op && evalWaits s x.part u c e.seq) = false
      let readable := free ∧ off % 32 = 0 ∧ off + n ≤ shareSize x ∧ rawPoison s (shareAddr x u off) n = false
      let rick := p.ops.any (fun o => touchesRick x o.a o.n)
      let onStack := (placed op p.ops).all (opndOn x engines)
      let sound := p.ok = true ∧ rick = false ∧ p.ops.all (opndOk s x) = true ∧ engines ≠ [] ∧ onStack = true
      let waits := engines.any (fun st => decide (64 ≤ (seOf s st).cmds.length)) || (liveSetMeets s wr).isSome || (adpMeets s wr).isSome
        || (conflictLines s (opRanges x ops (fun _ => true))).any (fun l => stackWaits s (l * 128))
      (¬ free → ∃ s', exec (.seCommandAccept h) s = .next s' ∧ { s' with eval := s.eval } = s
          ∧ (evalHolds s x.part c = true → (evalOf s' x.part).heldSq.contains (u, c, e.seq) = true))
      ∧ (free → (off % 32 ≠ 0 ∨ shareSize x < off + n) → exec (.seCommandAccept h) s = .next (faultEnt s (.res u c) fExtent e))
      ∧ (free → off % 32 = 0 → off + n ≤ shareSize x → rawPoison s (shareAddr x u off) n = true →
          exec (.seCommandAccept h) s = .next (faultEnt s (.res u c) fPoison e))
      ∧ (readable → (p.ok = false ∨ rick = true ∨ (p.ops.all (opndOk s x) = true ∧ (engines = [] ∨ onStack = false))) →
          ∃ s1, exec (.seCommandAccept h) s = .next (faultEnt s1 (.res u c) fQueue e) ∧ s1.mem = s.mem ∧ s1.ctxs = s.ctxs
          ∧ ∀ st, engines = [st] → (seOf s1 st).refused = (seOf s st).refused + 1)
      ∧ (readable → p.ok = true → rick = false → p.ops.all (opndOk s x) = false →
          exec (.seCommandAccept h) s = .next (faultEnt s (.res u c) fExtent e))
      ∧ (readable → sound → waits = true → exec (.seCommandAccept h) s = .next s)
      ∧ (readable → sound → waits = false → ∃ s', exec (.seCommandAccept h) s = .next s' ∧ s'.ctxs = s.ctxs
          ∧ hartCore s' (.res u c) = some { k with sqHeld := false }
          ∧ ∀ st, st ∈ engines → ∃ m, (seOf s' st).cmds = (seOf s st).cmds ++ [m] ∧ m.ctx = some c ∧ m.unit = u ∧ m.ent = e ∧ m.op = op ∧ m.desc = d
              ∧ m.running = false ∧ m.done = false ∧ m.wr = wr))
    ∧ (∀ n, heldBy s u c k x = some n →
        (k.sqHeld = true → exec (.setWriteHeld h) s = .next s)
        ∧ (k.sqHeld = false → ∃ s' ev, exec (.setWriteHeld h) s = .next s' ∧ hartCore s' (.res u c) = some { k with sqHeld := true } ∧ s'.mem = s.mem
            ∧ s'.evs = s.evs ++ [ev] ∧ ev.code = 0x0109 ∧ ev.arg0.toNat = (c * 2 ^ 20) % 2 ^ 32 ∧ ev.arg1 = BitVec.ofNat 64 n))
    ∧ (heldBy s u c k x = none → exec (.setWriteHeld h) s = .next s)

/-- R326 to R328, R331, R298, Table 8.2: `seCommandStart` completes: a command starts when at most three others run, its resources are free,
nothing earlier of its SQ stands in its way and none that arrived before it can start. `seCommandComplete` completes while the stack serves:
a command whose work is done, a stack program's with every instance and every engine at its end, leaves its engine and writes its status
and flags into its context; dirty lines it found in its write ranges are reported.
Where the spec leaves a point open it holds of the model's choices (log entries 34, 39). -/
def Obligations.StackCommandStartAndCompletion : Prop :=
  ∀ (s : State) (st i : Nat) (m : SeCmd), (seOf s st).cmds[i]? = some m →
    (mayStart (seOf s st) i m = false → exec (.seCommandStart st i) s = .next s)
    ∧ (mayStart (seOf s st) i m = true → ∃ s', exec (.seCommandStart st i) s = .next s' ∧ s'.mem = s.mem ∧ s'.res = s.res ∧ s'.ctxs = s.ctxs
        ∧ (seOf s' st).cmds[i]? = some { m with running := true, start := s.time.now } ∧ (∀ j, j ≠ i → (seOf s' st).cmds[j]? = (seOf s st).cmds[j]?)
        ∧ (∀ t, t ≠ st → seOf s' t = seOf s t))
    ∧ ((m.done = false ∨ stackServes (seOf s st) = false ∨ (m.op = 0 ∧ instsLeft (seOf s st) m = true)) → exec (.seCommandComplete st i) s = .next s)
    ∧ (∀ c r, m.done = true → m.stream = false → stackServes (seOf s st) = true →
        (m.op = 0 → instsLeft (seOf s st) m = false ∧ sameRun (removeCmd s st i) m = false) → m.setEmit = false → m.job = none → m.ctx = some c →
        live s c = true → resOf s m.unit c = some r →
        ∃ s' r', exec (.seCommandComplete st i) s = .next s' ∧ (seOf s' st).cmds = (seOf s st).cmds.eraseIdx i
          ∧ (seOf s' st).cmdsDone = (seOf s st).cmdsDone + 1 ∧ resOf s' m.unit c = some r'
          ∧ r'.core.sq = r.core.sq.filter (fun f => f.seq != m.ent.seq) ∧ r'.core.live = r.core.live.filter (fun p => p.1 != m.ent.seq)
          ∧ r'.core.sticky = r.core.sticky ||| m.flags.setWidth 32
          ∧ (iQD m.ent.w ≠ 0 → gGet r'.core (iQD m.ent.w)
              = statusWord m.code (if m.op = 0 ∧ m.code = 0 then (s.time.now - m.start).toNat / 16 else m.detail))
          ∧ (∀ q, q ≠ iQD m.ent.w → gGet r'.core q = gGet r.core q)
          ∧ (conflictLines s m.wr = [] → s'.mem = s.mem ∧ s'.evs = s.evs)
          ∧ (conflictLines s m.wr ≠ [] → ∃ ev, s'.evs = s.evs ++ [ev] ∧ ev.code = 0x0207 ∧ ev.arg1 = BitVec.ofNat 64 (conflictLines s m.wr).length))

/-- R318, R324, R330, R332, R340 to R356, R493 to R498: each built-in command (`seGather`, `seScatter`, `seAttn`, `seOpt`, `seRelayout`,
`seDigest`, `sePrefix`) completes: it runs on the internal path, beneath the shared caches and away from every core; where it meets no
fault it is done with the code and count of Table 8.2, and where it does it leaves its engine and its context faults. A digest is the
SHA-256 of its source. -/
def Sys2Proof.Claims.StackKernelResults : Prop :=
  ∀ (s : State) (st i c : Nat) (m : SeCmd) (x : Ctx), (seOf s st).cmds[i]? = some m → m.running = true → m.done = false → m.stream = false →
    stackServes (seOf s st) = true → m.ctx = some c → ctxOf s c = some x →
    let g : Eng := { s := s, c := c, x := x, st := st }
    let d := m.desc
    let away (s' : State) : Prop := s'.lines = s.lines ∧ s'.res = s.res ∧ s'.units = s.units ∧ s'.host = s.host
    let ended (s' : State) (r : Eng) (code detail : Nat) : Prop := away s' ∧ s'.mem = r.s.mem
      ∧ (seOf s' st).cmds = (seOf s st).cmds.set i { m with done := true, code := code, detail := detail, flags := m.flags ||| r.fl }
    let stopped (s' : State) : Prop := away s' ∧ (seOf s' st).cmds = (seOf s st).cmds.eraseIdx i ∧ ∃ y, ctxOf s' c = some y ∧ y.faulted = true
    let counted (s' : State) (r : Eng) : Prop := ended s' r (if r.cnt = 0 then 0 else 1) r.cnt
    let bags := (List.range (wf d 0 31 0)).foldl (poolBag d) g
    let rows := (List.range (wf d 0 31 0)).foldl (scatterStep d) g
    let items := (List.range (wf d 0 31 0)).foldl (attnItem d) g
    let par := if wf d 0 52 52 = 1 then (g, zeros 16) else engRead g (addr d 4) 16
    let pfx := (List.range (wf d 1 31 0)).foldl (pfxBlock d) { g := par.1, parent := par.2 }
    (m.op = 1 → bags.fault = none → ∃ s', exec (.seGather st i) s = .next s' ∧ counted s' bags)
    ∧ (m.op = 2 → rows.fault = none → ∃ s', exec (.seScatter st i) s = .next s' ∧ counted s' rows)
    ∧ (m.op = 3 → items.fault = none → ∃ s', exec (.seAttn st i) s = .next s' ∧ counted s' items)
    ∧ (m.op = 4 → (runOpt m g).fault = none → ∃ s', exec (.seOpt st i) s = .next s' ∧ counted s' (runOpt m g))
    ∧ (m.op = 5 → (runRelayout d g).fault = none → ∃ s', exec (.seRelayout st i) s = .next s' ∧ ended s' (runRelayout d g) 0 0)
    ∧ (m.op = 7 → pfx.g.fault = none → ∃ s', exec (.sePrefix st i) s = .next s' ∧ (wf d 0 55 54 = 1 → counted s' pfx.g) ∧ (wf d 0 55 54 ≠ 1 → ended s' pfx.g 0 pfx.hits))
    ∧ (m.op = 1 → bags.fault.isSome = true → ∃ s', exec (.seGather st i) s = .next s' ∧ stopped s') ∧ (m.op = 2 → rows.fault.isSome = true → ∃ s', exec (.seScatter st i) s = .next s' ∧ stopped s')
    ∧ (m.op = 3 → items.fault.isSome = true → ∃ s', exec (.seAttn st i) s = .next s' ∧ stopped s')
    ∧ (m.op = 4 → (runOpt m g).fault.isSome = true → ∃ s', exec (.seOpt st i) s = .next s' ∧ stopped s')
    ∧ (m.op = 5 → (runRelayout d g).fault.isSome = true → ∃ s', exec (.seRelayout st i) s = .next s' ∧ stopped s')
    ∧ (m.op = 7 → pfx.g.fault.isSome = true → ∃ s', exec (.sePrefix st i) s = .next s' ∧ stopped s')
    ∧ (∀ b, m.op = 6 → wf d 0 55 54 ≤ 1 → engOk g true (·.r) (addr d 1) (wd d 2).toNat = true → touchesRick x (addr d 1) (wd d 2).toNat = false →
        (devPieces x (addr d 1) (wd d 2).toNat).any (fun p => rawPoison s p.1 p.2) = false →
        engOk g true (·.w) (addr d 3) 32 = true → touchesRick x (addr d 3) 32 = false → devPieces x (addr d 3) 32 = [(b, 32)] → rawPoison s b 32 = false →
        let data := ((devPieces x (addr d 1) (wd d 2).toNat).map (fun p => memBytes s p.1 p.2)).flatten
        let done (code detail : Nat) : Prop := ∃ s', exec (.seDigest st i) s = .next s' ∧ s'.lines = s.lines ∧ s'.res = s.res ∧ s'.ctxs = s.ctxs
          ∧ Claims.Stored s s' b (sha256 data) ∧ (seOf s' st).cmds = (seOf s st).cmds.set i { m with done := true, code := code, detail := detail }
        (wf d 0 55 54 = 0 → done 0 0)
        ∧ (∀ a, wf d 0 55 54 = 1 → engOk g true (·.r) (addr d 4) 32 = true → touchesRick x (addr d 4) 32 = false → devPieces x (addr d 4) 32 = [(a, 32)] →
            rawPoison s a 32 = false →
            (sha256 data = memBytes s a 32 → done 0 0) ∧ (sha256 data ≠ memBytes s a 32 → ∃ n, done 1 n)))

/-- R328, R331, R333, R334, R338: a stack program's instances start at CODE with g1 to g4 from ARG0 to ARG3, their shares zeroed, and code that
is poisoned faults; when LIMIT_US has passed every instance stops and the command has CODE 0x01 and the flags they raised. -/
def Sys2Proof.Claims.StackProgramResults : Prop :=
  ∀ (s : State) (st i c : Nat) (m : SeCmd) (x : Ctx), (seOf s st).cmds[i]? = some m → m.running = true → m.stream = false → m.op = 0 → m.ctx = some c →
    ctxOf s c = some x →
    let bad := (devPieces x (addr m.desc 1) (wf m.desc 1 63 55 * 256)).any (fun p => rawPoison s p.1 p.2)
    (stackServes (seOf s st) = false → exec (.seRun st i) s = .next s ∧ exec (.seRunTimeLimit st i) s = .next s)
    ∧ (m.done = false → stackServes (seOf s st) = true → bad = true →
      ∃ s' y, exec (.seRun st i) s = .next s' ∧ (seOf s' st).cmds = (seOf s st).cmds.eraseIdx i ∧ ctxOf s' c = some y ∧ y.faulted = true ∧ s'.res = s.res)
    ∧ (m.done = false → stackServes (seOf s st) = true → bad = false →
      ∃ s', exec (.seRun st i) s = .next s' ∧ (seOf s' st).cmds = (seOf s st).cmds.set i { m with done := true }
        ∧ s'.res = s.res ∧ s'.ctxs = s.ctxs
        ∧ ∀ j p, ((freePlaces (seOf s st)).take (wf m.desc 0 55 52))[j]? = some p →
            (instOf s' st p).active = true ∧ (instOf s' st p).ctx = c ∧ (instOf s' st p).idx = j ∧ (instOf s' st p).unit = m.unit
            ∧ (instOf s' st p).share = wf m.desc 0 51 48 * 65536 ∧ (instOf s' st p).core.pc = BitVec.ofNat 48 (addr m.desc 1)
            ∧ (∀ q, 1 ≤ q → q ≤ 4 → gGet (instOf s' st p).core q = wd m.desc (q + 2)) ∧ (∀ q, 5 ≤ q → gGet (instOf s' st p).core q = 0)
            ∧ ∀ b, b < wf m.desc 0 51 48 * 65536 → memByte s' (esAddr st (shareBase p + b)) = 0)
    ∧ (m.done = true → instMask (seOf s st) m ≠ 0 → wf m.desc 0 31 0 ≠ 0 → stackServes (seOf s st) = true →
        ((s.time.now - m.start).toNat < wf m.desc 0 31 0 * 16000 → exec (.seRunTimeLimit st i) s = .next s)
        ∧ (wf m.desc 0 31 0 * 16000 ≤ (s.time.now - m.start).toNat → ∃ s', exec (.seRunTimeLimit st i) s = .next s' ∧ s'.mem = s.mem ∧ s'.res = s.res
            ∧ (seOf s' st).cmds = (seOf s st).cmds.set i
                { m with code := 1, detail := m.detail ||| instMask (seOf s st) m, flags := m.flags ||| instSticky (seOf s st) m }
            ∧ ∀ p, (instOf s' st p).active = true → ¬ ((instOf s' st p).ctx = c ∧ (instOf s' st p).unit = m.unit ∧ (instOf s' st p).seq = m.ent.seq)))

/-! ## Sampling units and the deadline monitor -/

/-- R316, R424, R482 to R492, R507: `saDraw` and `saVerify` complete: a region's unit accepts a sampler entry of a sound descriptor while it
holds fewer than eight. `samplerRow` completes: a row waits while what it reads cannot be read; a row with bad controls writes STATUS 0x3 and
counts as a row without a token; a sound row writes its 16 bytes (`sa.draw`) or 160 (`sa.verify`) and, its reads set aside, nothing else,
and the next row, or the entry's end, follows.
Where the spec leaves a point open it holds of the model's choices (log entry 42). -/
def Obligations.SamplerResults : Prop :=
  (∀ (s : State) (h q u c : Nat) (k : Core) (x : Ctx) (e : QEnt), Claims.Begins s h q (.res u c) k x e →
    let off := (cap e (iQA e.w)).toNat
    let d := leWords 8 (memBytes s (shareAddr x u off) 64)
    let readable := off % 32 = 0 ∧ off + 64 ≤ shareSize x ∧ rawPoison s (shareAddr x u off) 64 = false
    let r := u / 16
    let sound (op : Nat) := smpDescOk op d && !(touchesRick x (addr d 2) (128 * wf d 0 12 0))
    let reads := ctxOk s x (·.r) (addr d 2) (128 * wf d 0 12 0)
    let room := (smpOf s r).cmds.length < 8
    let accepted (s' : State) (op : Nat) : Prop := ∃ k', hartCore s' (.res u c) = some k' ∧ s'.mem = s.mem
      ∧ Claims.MvChanged k k' q e.seq (fun m => { m with kind := .sampler })
      ∧ smpOf s' r = { smpOf s r with cmds := (smpOf s r).cmds ++ [{ unit := u, ctx := c, q := q, ent := e, op := op, desc := d }] }
    (isSa 0 e.w = true → ¬ room → exec (.saDraw h q) s = .next s)
    ∧ (isSa 0 e.w = true → readable → room → sound 0 = false → exec (.saDraw h q) s = .next (faultEnt s (.res u c) fQueue e))
    ∧ (isSa 0 e.w = true → readable → room → sound 0 = true → reads = false → exec (.saDraw h q) s = .next (faultEnt s (.res u c) fExtent e))
    ∧ (isSa 0 e.w = true → readable → room → sound 0 = true → reads = true → ∃ s', exec (.saDraw h q) s = .next s' ∧ accepted s' 0)
    ∧ (isSa 1 e.w = true → ¬ room → exec (.saVerify h q) s = .next s)
    ∧ (isSa 1 e.w = true → readable → room → sound 1 = false → exec (.saVerify h q) s = .next (faultEnt s (.res u c) fQueue e))
    ∧ (isSa 1 e.w = true → readable → room → sound 1 = true → reads = false → exec (.saVerify h q) s = .next (faultEnt s (.res u c) fExtent e))
    ∧ (isSa 1 e.w = true → readable → room → sound 1 = true → reads = true → ∃ s', exec (.saVerify h q) s = .next s' ∧ accepted s' 1))
  ∧ (∀ (s : State) (r : Nat) (m : SmpCmd) (rest : List SmpCmd) (x : Ctx), (smpOf s r).cmds = m :: rest → ctxOf s m.ctx = some x → live s m.ctx = true →
      let ent := smpRead (s, false) x (addr m.desc 2 + 128 * m.row) 128
      let w := leWords 16 ent.2
      let ok := rowOk m.op (wf m.desc 1 20 0) (wf m.desc 0 55 52) w
      let rs := if ok = true then rowRanges m.op m.desc w else []
      let serves := rangesWait s x ((addr m.desc 2 + 128 * m.row, 128) :: rs) = false
      let out := wf w 10 22 0
      let size := if m.op = 0 then 16 else 160
      let a := shareAddr x m.unit out
      let y := if m.op = 0 then drawRow ent.1 x m.desc w else verifyRow ent.1 x m.desc w
      let next (s' : State) (bad : Nat) : Prop :=
        (m.row + 1 < wf m.desc 0 12 0 → (smpOf s' r).cmds = { m with row := m.row + 1, bad := bad } :: rest)
        ∧ (wf m.desc 0 12 0 ≤ m.row + 1 → (smpOf s' r).cmds = rest ∧ ∀ y, mvEntOf s (.res m.unit m.ctx) m.q m.ent.seq = some y →
            mvEntOf s' (.res m.unit m.ctx) m.q m.ent.seq = some { y with finished := true, code := if bad = 0 then 0 else 1, detail := bad })
      (¬ serves → exec (.samplerRow r) s = .next s)
      ∧ (serves → ent.1.2 = true → ∃ s1, exec (.samplerRow r) s = .next (faultEnt s1 (.res m.unit m.ctx) fPoison m.ent) ∧ s1.mem = ent.1.1.mem ∧ s1.ctxs = s.ctxs)
      ∧ (serves → ent.1.2 = false → rs.any (fun p => touchesRick x p.1 p.2) = true →
          ∃ s1, exec (.samplerRow r) s = .next (faultEnt s1 (.res m.unit m.ctx) fQueue m.ent) ∧ s1.mem = ent.1.1.mem ∧ s1.ctxs = s.ctxs)
      ∧ (serves → ent.1.2 = false → inShare x out size = true → rawPoison s a size = false → ok = false →
          ∃ s', exec (.samplerRow r) s = .next s'
            ∧ Claims.Stored ent.1.1 s' a (if m.op = 0 then drawBytes 3 false 0xFFFFF 0x7FC00000 0x7FC00000 0 else verifyBytes 3 false 0 [])
            ∧ (smpOf s' r).rows = (smpOf s r).rows + 1 ∧ (smpOf s' r).excl = (smpOf s r).excl + 1 ∧ next s' (m.bad + 1))
      ∧ (serves → ent.1.2 = false → inShare x out size = true → rawPoison s a size = false → ok = true → rs.any (fun p => touchesRick x p.1 p.2) = false →
          rs.all (fun p => ctxOk s x (·.r) p.1 p.2) = true → y.1.2 = false →
          ∃ s', exec (.samplerRow r) s = .next s' ∧ Claims.Stored y.1.1 s' a y.2.bytes ∧ (smpOf s' r).rows = (smpOf s r).rows + 1
            ∧ next s' (if 2 ≤ y.2.status then m.bad + 1 else m.bad)))

/-- R487: the token of a greedy row is allowed and finite, no allowed finite token has a greater logit, and none below it an equal one.
Where the spec leaves a point open it holds of the model's choices (log entry 42). -/
def Obligations.GreedyTokenIsGreatest : Prop :=
  ∀ (w : List W64) (z : List F32) (allow : List Bool) (t : Nat), isGreedy w = true → z.length = allow.length → (distOf w z allow).best = some t →
    let ok (u : Nat) : Prop := u < z.length ∧ allow.getD u false = true ∧ isFin (z.getD u f32Zero).1 = true
    ok t ∧ ∀ u, ok u → vLt (fN (z.getD t f32Zero)) (fN (z.getD u f32Zero)) = false ∧ (u < t → vLt (fN (z.getD u f32Zero)) (fN (z.getD t f32Zero)) = true)

/-- R508, Tables 13.14 and 13.15: an unarmed stream that waits for its first report is reported with reason 1 from TTFT minus MARGIN on, with
reason 0x11 from TTFT on, each once; nothing is reported earlier, or while DLM_CTL.EN is 0.
Where the spec leaves a point open it holds of the model's choices (log entry 43). -/
def Obligations.DeadlineMonitorResults : Prop :=
  ∀ (s : State) (t : W64) (n : Nat) (x : StreamSt), s.streams = [(n, x)] → (t - s.time.now).toNat < 2 ^ 63 → x.st = .waiting → x.reports = 0 → x.arm = false →
    (t - x.tAdm).toNat < 2 ^ 62 →
    let ns := (t - x.tAdm).toNat / 16
    let adv := advance s t
    let reported (reason : Nat) : Prop := ∃ s' ev, exec (.dlmExamine t) s = .next s' ∧ s'.evs = s.evs ++ [ev] ∧ ev.code = 0x0502 ∧ ev.cls = clsWarning
      ∧ ev.arg0 = BitVec.ofNat 32 (n * 2 ^ 18 + reason) ∧ ev.arg1 = x.tAdm + BitVec.ofNat 64 (x.ttft * 16000) ∧ ev.time = t
      ∧ (streamOf s' n).reported.contains reason = true ∧ (streamOf s' n).last = reason ∧ s'.mem = s.mem ∧ s'.diverts = s.diverts
    (s.dlmEn = false → exec (.dlmExamine t) s = .next adv)
    ∧ (s.dlmEn = true → ns < (x.ttft - x.margin) * 1000 → 0 < x.ttft → exec (.dlmExamine t) s = .next adv)
    ∧ (s.dlmEn = true → x.reported = [] → (x.ttft - x.margin) * 1000 ≤ ns → ns < x.ttft * 1000 → reported 1)
    ∧ (s.dlmEn = true → x.reported = [1] → x.ttft * 1000 ≤ ns → reported 0x11)


/-! ## Host commands: contexts, ricks, evaluation windows, weight sets, adapters, streams -/

/-- R198 to R204, R224, R402, R572: NOP completes; PARTITION moves units without residents; CTX_LOAD makes the context its descriptor gives,
Ready on every unit of its set; CTX_UNLOAD stops it; CTX_PREEMPT saves it where it runs; CTX_RESUME ends its waits for the host.
Where the spec leaves a point open it holds of the model's choices (log entries 44, 66). -/
def Obligations.ContextCommandResults : Prop :=
  ∀ (s : State) (h : HostCmd),
    (Claims.HostCur s 0x00 h → ∃ s', exec .nop s = .next s' ∧ Claims.HostEnds s s' h 0 0 0 ∧ s'.ctxs = s.ctxs ∧ s'.res = s.res ∧ s'.units = s.units)
    ∧ (Claims.HostCur s 0x01 h →
        let p : Option Nat := if hf h 2 6 6 = 1 then none else some (hf h 2 5 0)
        let named (u : Nat) : Bool := decide (u < 256) && bit (wd h.ws (4 + u / 64)) (u % 64)
        ((∃ u, named u = true ∧ (unitOf s u).part ≠ p ∧ residents s u ≠ []) → Claims.HostRejects s (exec .partition s) h 1)
        ∧ ((∀ u, named u = true → (unitOf s u).part ≠ p → residents s u = []) →
            ∃ s', exec .partition s = .next s' ∧ Claims.HostEnds s s' h 0 0 0 ∧ s'.res = s.res ∧ s'.ctxs = s.ctxs
              ∧ (∀ u, named u = true → (unitOf s' u).part = p) ∧ (∀ u, named u = false → unitOf s' u = unitOf s u)))
    ∧ (Claims.HostCur s 0x02 h →
        let c := wf (leWords 1 h.block) 0 63 52
        let x := ctxOfBlock h.block
        (∀ n, firstFail (loadChecks s h.block) = some n → Claims.HostRejects s (exec .ctxLoad s) h n)
        ∧ (firstFail (loadChecks s h.block) = none → ∃ s', exec .ctxLoad s = .next s' ∧ Claims.HostEnds s s' h 0 0 0 ∧ ctxOf s' c = some x
            ∧ (∀ u, u ∈ x.units → resOf s' u c = some { st := .ready, left := s.order, core := { pc := BitVec.ofNat 48 x.entryPc, xln := x.xln } })
            ∧ (∀ d, d ≠ c → ctxOf s' d = ctxOf s d)
            ∧ (s.host.cacheEn = false → ∀ u b, u ∈ x.units → b < ocSize x → memByte s' (ocAddr u (ocOff x + b)) = 0)))
    ∧ (Claims.HostCur s 0x03 h →
        let c := hf h 2 11 0
        (ctxOf s c = none → Claims.HostRejects s (exec .ctxUnload s) h 1)
        ∧ (∀ x, ctxOf s c = some x → ∃ s' y, exec .ctxUnload s = .next s' ∧ s'.host.cur = none ∧ ctxOf s' c = some y ∧ y.stopped = true
            ∧ y.unload = x.unload ++ [h.job]
            ∧ (x.stopped = false → ∀ u, u ∈ x.units → (unitOf s' u).running ≠ some c ∧ ∀ r, resOf s u c = some r → (resOf s' u c).map (·.st) = some .faulted)))
    ∧ (Claims.HostCur s 0x04 h →
        let c := hf h 2 11 0
        (live s c = false → Claims.HostRejects s (exec .ctxPreempt s) h 1)
        ∧ (∀ x, live s c = true → ctxOf s c = some x →
            ((∀ u r, u ∈ x.units → resOf s u c = some r → r.st ≠ .running ∧ r.st ≠ .saving) →
              ∃ s', exec .ctxPreempt s = .next s' ∧ Claims.HostEnds s s' h 0 0 0 ∧ s'.res = s.res ∧ s'.ctxs = s.ctxs)
            ∧ (∀ u r, u ∈ x.units → resOf s u c = some r → r.st = .running →
              ∃ s' r' y, exec .ctxPreempt s = .next s' ∧ s'.host.cur = none ∧ resOf s' u c = some r' ∧ r'.st = .saving ∧ Claims.CoreKept r.core r'.core
                ∧ ctxOf s' c = some y ∧ y.preempt = x.preempt ++ [h.job] ∧ u ∈ y.preemptU ∧ s'.host.rings = s.host.rings)))
    ∧ (Claims.HostCur s 0x05 h →
        let c := hf h 2 11 0
        (live s c = false → Claims.HostRejects s (exec .ctxResume s) h 1)
        ∧ (∀ x, live s c = true → ctxOf s c = some x → ∃ s', exec .ctxResume s = .next s' ∧ Claims.HostEnds s s' h 0 0 0
            ∧ ∀ u r, u ∈ x.units → resOf s u c = some r → r.core.wait = .halt → (resOf s' u c).map (·.core) = some { r.core with wait := .none }))

/-- R220 to R224, R329: a raised fault is reported with its kind, place and PC, and the context stops on every unit; once stopped, and with no
command of its own at an engine, it is scrubbed, its residences are free and the removal is reported.
Where the spec leaves a point open it holds of the model's choices (log entries 46, 47, 96). -/
def Obligations.TeardownResults : Prop :=
  ∀ (s : State) (c : Nat), c < 4096 →
    (ctxOf s c = none → exec (.contextFault c) s = .next s ∧ exec (.scrubComplete c) s = .next s)
    ∧ (∀ x, ctxOf s c = some x →
      ((x.faulted = false ∨ x.faultEv = true) → exec (.contextFault c) s = .next s)
      ∧ (x.faulted = true → x.faultEv = false → x.stopped = false → ∃ s' e l y, exec (.contextFault c) s = .next s' ∧ s'.evs = s.evs ++ e :: l
          ∧ e.code = 0x0101 ∧ e.cls = clsError ∧ e.time = s.time.now
          ∧ e.arg0 = BitVec.ofNat 32 (c * 2 ^ 20 + x.flun * 2 ^ 12 + x.fkind % 16 * 2 ^ 8 + (if x.fstack.isSome then 2 ^ 7 else 0) + x.fmore)
          ∧ e.arg1 = BitVec.ofNat 64 (x.fpc + x.fstack.getD 0 * 2 ^ 48)
          ∧ ctxOf s' c = some y ∧ y.stopped = true ∧ y.faultEv = true ∧ live s' c = false
          ∧ (∀ u, u ∈ x.units → (unitOf s' u).running ≠ some c ∧ ∀ r, resOf s u c = some r → (resOf s' u c).map (·.st) = some .faulted)
          ∧ (∀ st m, m ∈ (seOf s' st).cmds → m.ctx = some c → m.op ≠ 0 ∧ (m.running = true ∨ m.done = true)))
      ∧ ((x.stopped = false ∨ (x.faulted = true ∧ x.faultEv = false) ∨ enginesClear s c = false) → exec (.scrubComplete c) s = .next s)
      ∧ (x.stopped = true → (x.faulted = false ∨ x.faultEv = true) → enginesClear s c = true →
          ∃ s' e, exec (.scrubComplete c) s = .next s' ∧ ctxOf s' c = none ∧ (∀ d, d ≠ c → ctxOf s' d = ctxOf s d)
            ∧ (∀ u, u ∈ x.units → resOf s' u c = none)
            ∧ s'.evs.getLast? = some e ∧ e.code = 0x0102 ∧ e.arg0 = BitVec.ofNat 32 (c * 2 ^ 20 + (if x.faulted then 0 else 1))
            ∧ (s.host.cacheEn = false → ∀ u b, u ∈ x.units → (unitOf s u).quar = .inService → b < shareSize x → memByte s' (shareAddr x u b) = 0)))

/-- R421, R422, R444 to R446, Table 11.8: RICK binds or frees a context's rick with every pointer 0; EVAL_OPEN makes a window Quiescing, which
opens, and lets its contexts go on, once no weight write of another context is left; EVAL_CLOSE closes it when they have halted again.
Where the spec leaves a point open it holds of the model's choices (log entries 41, 45). -/
def Obligations.RickAndEvaluationCommands : Prop :=
  ∀ (s : State),
    (∀ h, Claims.HostCur s 0x06 h →
      let d := blockWords h
      let c := wf d 0 63 52
      let en := wf d 0 51 51 == 1
      (ctxOf s c = none → Claims.HostRejects s (exec .rick s) h 1)
      ∧ (∀ x, ctxOf s c = some x →
          let checks := (1, !(live s c) || rickBusy s c x) :: (if en then rickBindChecks x d else rickFreeChecks d)
          (∀ n, firstFail checks = some n → Claims.HostRejects s (exec .rick s) h n)
          ∧ (firstFail checks = none → ∃ s', exec .rick s = .next s' ∧ Claims.HostEnds s s' h 0 0 0
              ∧ ctxOf s' c = some { x with rick := if en then some (rickOfBlock d) else none }
              ∧ ∀ u r, u ∈ x.units → resOf s u c = some r → resOf s' u c = some { r with rick := {} })))
    ∧ (∀ h, Claims.HostCur s 0x07 h →
        let p := hf h 2 5 0
        let checks := [(1, (evalOf s p).st != .closed), (2, (evalNames h).any (fun c => ctxPart s c != some p)), (3, (evalNames h).any (fun c => !(haltedAll s c)))]
        (∀ n, firstFail checks = some n → Claims.HostRejects s (exec .evalOpen s) h n)
        ∧ (firstFail checks = none → ∃ s', exec .evalOpen s = .next s' ∧ Claims.HostEnds s s' h 0 0 0 ∧ (evalOf s' p).st = .quiescing
            ∧ (∀ c, c ∈ (evalOf s' p).ctxs ↔ c ∈ evalNames h) ∧ ∀ q, q ≠ p → evalOf s' q = evalOf s q))
    ∧ (∀ p, (((evalOf s p).st ≠ .quiescing ∨ writesLeft s p = true) → exec (.evalWindowOpen p) s = .next s)
        ∧ ((evalOf s p).st = .quiescing → writesLeft s p = false → (∀ c, c ∈ (evalOf s p).ctxs → c < 4096) →
            ∃ s' e, exec (.evalWindowOpen p) s = .next s' ∧ evalOf s' p = { evalOf s p with st := .opened } ∧ s'.evs = s.evs ++ [e] ∧ e.code = 0x0107
              ∧ e.arg0 = BitVec.ofNat 32 p ∧ s'.mem = s.mem
              ∧ ∀ c x u r, c ∈ (evalOf s p).ctxs → ctxOf s c = some x → u ∈ x.units → resOf s u c = some r → r.core.wait = .halt →
                  (resOf s' u c).map (·.core) = some { r.core with wait := .none }))
    ∧ (∀ h, Claims.HostCur s 0x08 h →
        let p := hf h 2 5 0
        ((evalOf s p).st = .closed → ∃ s', exec .evalClose s = .next s' ∧ Claims.HostEnds s s' h 0 0 0 ∧ s'.eval = s.eval)
        ∧ ((evalOf s p).st = .quiescing → ∃ s', exec .evalClose s = .next s' ∧ Claims.HostEnds s s' h 0 0 0 ∧ (evalOf s' p).st = .closed ∧ s'.evs = s.evs)
        ∧ ((evalOf s p).st = .opened →
            (∀ c, evalRuns s p = some c → ∃ s', exec .evalClose s = .next s' ∧ Claims.HostEnds s s' h 1 1 (BitVec.ofNat 64 c) ∧ s'.eval = s.eval)
            ∧ (evalRuns s p = none → ∃ s' e, exec .evalClose s = .next s' ∧ Claims.HostEnds s s' h 0 0 0 ∧ (evalOf s' p).st = .closed
                ∧ s'.evs = s.evs ++ [e] ∧ e.code = 0x0108 ∧ e.arg0 = BitVec.ofNat 32 p)))

/-- R449 to R458, R499, Table 12.4: weight sets are defined, admitted to, switched, released, received into and removed by the states of
Table 12.4; a command that fails a check changes nothing.
Where the spec leaves a point open it holds of the model's choices (log entry 48). -/
def Obligations.WeightSetCommands : Prop :=
  ∀ (s : State) (h : HostCmd),
    (Claims.HostCur s 0x10 h →
      let d := blockWords h
      (∀ n, firstFail (setDefineChecks s d) = some n → Claims.HostRejects s (exec .setDefine s) h n)
      ∧ (firstFail (setDefineChecks s d) = none → ∃ s', exec .setDefine s = .next s' ∧ Claims.HostEnds s s' h 0 0 0 ∧ setOf s' (wf d 0 63 56) = setOfDesc d
          ∧ (setOf s' (wf d 0 63 56)).st = .empty ∧ ∀ n, n ≠ wf d 0 63 56 → setOf s' n = setOf s n))
    ∧ (Claims.HostCur s 0x11 h →
        let n := hf h 2 7 0
        let gone := (setOf s n).st = .undefined ∨ (setOf s n).st = .live ∨ (setOf s n).st = .draining
        (gone → Claims.HostRejects s (exec .setRemove s) h 1)
        ∧ (¬ gone → loading s n = true → exec .setRemove s = .next (stopLoads s n))
        ∧ (¬ gone → loading s n = false → ∃ s', exec .setRemove s = .next s' ∧ Claims.HostEnds s s' h 0 0 0 ∧ setOf s' n = {}
            ∧ ∀ v, v ≠ n → setOf s' v = setOf s v))
    ∧ (Claims.HostCur s 0x12 h →
        let n := hf h 2 63 58
        let c := hf h 2 57 46
        let off := hf h 2 22 0
        (∀ k, admitCheck s n c off = some k → Claims.HostRejects s (exec .slotAdmit s) h k)
        ∧ (∀ v x, admitCheck s n c off = none → liveIn s n = some v → ctxOf s c = some x → shareOff x + shareSize x ≤ 2 ^ 23 →
            ∃ s', exec .slotAdmit s = .next s' ∧ Claims.HostEnds s s' h 0 0 (BitVec.ofNat 64 ((setOf s v).inflight + 1))
              ∧ setOf s' v = { setOf s v with inflight := (setOf s v).inflight + 1 }
              ∧ (s.host.cacheEn = false → ∀ u, u ∈ x.units → rawPoison s (shareAddr x u off) 32 = false →
                  memBytes s' (shareAddr x u off) 32 = [hf h 3 31 0 * 2 ^ 32 + (setOf s v).epoch.toNat * 2 ^ 16 + v,
                    (setOf s v).layout * 2 ^ 60 + (setOf s v).fmt * 2 ^ 56 + (setOf s v).offset, (setOf s v).stackSet, stampNow s].flatMap (leBytes 8))))
    ∧ (Claims.HostCur s 0x13 h →
        let n := hf h 2 63 58
        let v := hf h 2 7 0
        let force := hf h 2 57 57 == 1
        (∀ k, switchCheck s n v force = some k → Claims.HostRejects s (exec .slotSwitch s) h k)
        ∧ (switchCheck s n v force = none → ∃ s', exec .slotSwitch s = .next s' ∧ Claims.HostEnds s s' h 0 0 0 ∧ liveIn s' n = some v
            ∧ (∀ m, m ≠ n → liveIn s' m = liveIn s m) ∧ (setOf s' v).st = .live ∧ (setOf s' v).slot = some n
            ∧ ∀ o, liveIn s n = some o → o ≠ v → (setOf s' o).st = if (setOf s o).inflight = 0 then .complete else .draining))
    ∧ (Claims.HostCur s 0x14 h →
        let v := hf h 2 7 0
        let n := hf h 2 31 16
        (n = 0 → Claims.HostRejects s (exec .slotRelease s) h 0)
        ∧ (n ≠ 0 → (setOf s v).inflight < n → Claims.HostRejects s (exec .slotRelease s) h 1)
        ∧ (n ≠ 0 → n ≤ (setOf s v).inflight → ∃ s', exec .slotRelease s = .next s' ∧ Claims.HostEnds s s' h 0 0 0 ∧ (setOf s' v).inflight = (setOf s v).inflight - n
            ∧ (n = (setOf s v).inflight → (setOf s v).st = .draining → (setOf s' v).st = .complete ∧ (setOf s' v).slot = none ∧ ∃ e, s'.evs = s.evs ++ [e] ∧ e.code = 0x0401)
            ∧ ((n ≠ (setOf s v).inflight ∨ (setOf s v).st ≠ .draining) → (setOf s' v).st = (setOf s v).st ∧ s'.evs = s.evs)))
    ∧ (Claims.HostCur s 0x15 h →
        let v := hf h 2 7 0
        let x := setOf s v
        let ep : BitVec 16 := BitVec.ofNat 16 (hf h 2 23 8)
        let checks := [(0, !(within 1 4096 (hf h 3 44 32))), (1, !(x.st == .empty || x.st == .complete)), (2, targeted s v || sending s v),
          (3, hf h 2 24 24 == 1 && (match liveIn s (hf h 2 31 26) with
            | none => false
            | some o => !(newer ep (setOf s o).epoch)))]
        (hf h 2 25 25 = 1 → ∃ s', exec .setReceive s = .next s' ∧ Claims.HostEnds s s' h 0 0 0 ∧ setOf s' v = { x with rxOpen := false })
        ∧ (∀ k, hf h 2 25 25 = 0 → firstFail checks = some k → Claims.HostRejects s (exec .setReceive s) h k)
        ∧ (hf h 2 25 25 = 0 → firstFail checks = none → ∃ s', exec .setReceive s = .next s' ∧ Claims.HostEnds s s' h 0 0 0 ∧ (setOf s' v).st = .filling
            ∧ (setOf s' v).epoch = ep ∧ (setOf s' v).rxOpen = true ∧ (setOf s' v).rxDev = hf h 3 19 0 ∧ (setOf s' v).rxTags = hf h 3 44 32 ∧ (setOf s' v).rxGot = []))

/-- R501 to R506, Table 13.11: adapter generations are defined, admitted to, released and removed, a replaced one retiring with its last
batch; a stream of the deadline monitor opens Waiting and closes.
Where the spec leaves a point open it holds of the model's choices (log entries 43, 66). -/
def Obligations.AdapterAndStreamCommands : Prop :=
  ∀ (s : State) (h : HostCmd),
    (Claims.HostCur s 0x18 h →
      let a := hf h 2 63 52
      (∀ n, firstFail (adpDefineChecks s h) = some n → Claims.HostRejects s (exec .adpDefine s) h n)
      ∧ (firstFail (adpDefineChecks s h) = none → ∃ s', exec .adpDefine s = .next s' ∧ Claims.HostEnds s s' h 0 0 0 ∧ (adpOf s' a).cur = some (genOf h)
          ∧ ((adpOf s a).cur = none → (adpOf s' a).ret = none)
          ∧ (∀ g, (adpOf s a).cur = some g → (g.inflight = 0 → (adpOf s' a).ret = none) ∧ (g.inflight ≠ 0 → ∃ w, (adpOf s' a).ret = some { g with warned := w }))))
    ∧ (Claims.HostCur s 0x19 h →
        let a := hf h 2 63 52
        ((adpOf s a).cur = none → Claims.HostRejects s (exec .adpRemove s) h 1)
        ∧ (∀ g, (adpOf s a).cur = some g →
            ((adpOf s a).ret ≠ none → Claims.HostRejects s (exec .adpRemove s) h 2)
            ∧ ((adpOf s a).ret = none → ∃ s', exec .adpRemove s = .next s' ∧ Claims.HostEnds s s' h 0 0 0 ∧ (adpOf s' a).cur = none
                ∧ (adpOf s' a).ret = (if g.inflight = 0 then none else some g)
                ∧ (g.inflight = 0 → ∃ e, s'.evs = s.evs ++ [e] ∧ e.code = 0x0501 ∧ e.arg0 = BitVec.ofNat 32 (g.gen.toNat * 2 ^ 12 + a)))))
    ∧ (Claims.HostCur s 0x1A h →
        let a := hf h 2 63 52
        let c := hf h 2 51 40
        ((adpOf s a).cur = none → Claims.HostRejects s (exec .adpAdmit s) h 1)
        ∧ (∀ g, (adpOf s a).cur = some g →
            let checks := [(2, !(isLoaded s c)), (3, !(recordOk s c (hf h 2 22 0))), (4, decide (65535 ≤ g.inflight))]
            (∀ n, firstFail checks = some n → Claims.HostRejects s (exec .adpAdmit s) h n)
            ∧ (firstFail checks = none → ∃ s', exec .adpAdmit s = .next s' ∧ Claims.HostEnds s s' h 0 0 (BitVec.ofNat 64 (g.inflight + 1))
                ∧ adpOf s' a = { adpOf s a with cur := some { g with inflight := g.inflight + 1 } } ∧ s'.evs = s.evs)))
    ∧ (Claims.HostCur s 0x1B h →
        let a := hf h 2 63 52
        let n := hf h 2 15 0
        let gen : BitVec 16 := BitVec.ofNat 16 (hf h 2 51 36)
        (n = 0 → Claims.HostRejects s (exec .adpRelease s) h 0)
        ∧ (n ≠ 0 → (∀ g, ((adpOf s a).cur = some g ∨ (adpOf s a).ret = some g) → g.gen ≠ gen) → Claims.HostRejects s (exec .adpRelease s) h 1)
        ∧ (∀ g, n ≠ 0 → (adpOf s a).cur = some g → g.gen = gen → (adpOf s a).ret = none →
            (g.inflight < n → Claims.HostRejects s (exec .adpRelease s) h 2)
            ∧ (n ≤ g.inflight → ∃ s', exec .adpRelease s = .next s' ∧ Claims.HostEnds s s' h 0 0 0
                ∧ adpOf s' a = { cur := some { g with inflight := g.inflight - n }, ret := none } ∧ s'.evs = s.evs))
        ∧ (∀ g, n ≠ 0 → (∀ q, (adpOf s a).cur = some q → q.gen ≠ gen) → (adpOf s a).ret = some g → g.gen = gen →
            (g.inflight < n → Claims.HostRejects s (exec .adpRelease s) h 2)
            ∧ (n ≤ g.inflight → ∃ s', exec .adpRelease s = .next s' ∧ Claims.HostEnds s s' h 0 0 0
                ∧ (adpOf s' a).ret = (if g.inflight = n then none else some { g with inflight := g.inflight - n }) ∧ (adpOf s' a).cur = (adpOf s a).cur
                ∧ (g.inflight = n → ∃ e, s'.evs = s.evs ++ [e] ∧ e.code = 0x0501))))
    ∧ (Claims.HostCur s 0x1C h →
        let d := blockWords h
        let n := wf d 0 63 50
        (strReserved d = true → Claims.HostRejects s (exec .stream s) h 0)
        ∧ (strReserved d = false → wf d 0 49 49 = 0 → ∃ s', exec .stream s = .next s' ∧ Claims.HostEnds s s' h 0 0 0 ∧ (streamOf s' n).st = .closed)
        ∧ (∀ k, strReserved d = false → wf d 0 49 49 = 1 → firstFail (strOpenChecks s d) = some k → Claims.HostRejects s (exec .stream s) h k)
        ∧ (strReserved d = false → wf d 0 49 49 = 1 → firstFail (strOpenChecks s d) = none → ∃ s', exec .stream s = .next s' ∧ Claims.HostEnds s s' h 0 0 0
            ∧ (streamOf s' n).st = .waiting ∧ (streamOf s' n).ttft = wf d 1 63 32 ∧ (streamOf s' n).itl = wf d 1 31 0 ∧ (streamOf s' n).margin = wf d 2 63 32
            ∧ (streamOf s' n).tAdm = s.time.now ∧ (streamOf s' n).reports = 0 ∧ (streamOf s' n).arm = (wf d 0 48 48 == 1)))


/-! ## The host's digests, shards, keys and reports -/

/-- R356, R613 to R621, R642, R643, Table 16.13: digests the host asks for wait at their engine; a shard load makes its set Filling and its
range unverified, and when it completes a plain shard stands in HBM as its source and is verified; a reload heals the lines it kept. -/
def Sys2Proof.Claims.ShardCommands : Prop :=
  ∀ (s : State),
    (∀ h, Claims.HostCur s 0x22 h →
      let st := hf h 2 4 0
      let p := parseHostDigest (blockWords h)
      let ok := p.ok && p.ops.all (fun o => onOneStack st o.a o.n)
      let wr := opRanges hostView p.ops (fun o => o.w)
      let waits := engineFull s st || (liveSetMeets s wr).isSome || (adpMeets s wr).isSome
      (ok = false → Claims.HostRejects s (exec .seHost s) h 1)
      ∧ (ok = true → waits = true → exec .seHost s = .next s)
      ∧ (ok = true → waits = false → (seOf s st).failed = true → ∃ s', exec .seHost s = .next s' ∧ Claims.HostEnds s s' h 2 0 0)
      ∧ (ok = true → waits = false → (seOf s st).failed = false → ∃ s' m, exec .seHost s = .next s' ∧ s'.host.cur = none ∧ s'.host.rings = s.host.rings
          ∧ (seOf s' st).cmds = (seOf s st).cmds ++ [m] ∧ m.op = 6 ∧ m.ctx = none ∧ m.job = some h.job ∧ m.desc = blockWords h ∧ m.running = false))
    ∧ (∀ h, Claims.HostCur s 0x30 h →
        let d := blockWords h
        let l := loadOf s h
        (∀ k, firstFail (shardLoadChecks s d l) = some k → Claims.HostRejects s (exec .shardLoad s) h k)
        ∧ (firstFail (shardLoadChecks s d l) = none → 4 ≤ s.trust.loads.length → exec .shardLoad s = .next s)
        ∧ (firstFail (shardLoadChecks s d l) = none → s.trust.loads.length < 4 → ∃ s', exec .shardLoad s = .next s' ∧ s'.host.cur = none
            ∧ s'.host.rings = s.host.rings ∧ s'.trust.loads = s.trust.loads ++ [l] ∧ l.job = h.job ∧ s'.mem = s.mem
            ∧ (l.mode = 2 → s'.sets = s.sets)
            ∧ (l.mode ≠ 2 → (setOf s' l.set).st = .filling ∧ (setOf s' l.set).epoch = BitVec.ofNat 16 (wf d 0 55 40)
                ∧ ∀ i, l.first ≤ i → i < l.first + l.count → verifiedCode (shardCode (setOf s' l.set) i) = false)))
    ∧ (∀ k fin l, s.trust.loads[k]? = some l →
        (s.host.cacheEn = false → exec (.shardLoadComplete k fin) s = .next s)
        ∧ (s.host.cacheEn = true → l.mode = 0 → l.fdig = false → l.stop = false → l.count = 1 → l.job.nores = true → isHost l.stat = true → s.lines = [] →
            let p := spanOf s l.set l.first
            p.1 % 128 = 0 → p.2 % 128 = 0 → p.2 ≤ 2 ^ 26 → isHbm (p.1 + p.2) = true → stackOf (p.1 + p.2) = stackOf p.1 → addrFailed s p.1 = false → addrWaits s p.1 = false →
            hostWin ≤ l.src → (∀ i, i < p.2 → poisoned s (l.src + i) = false) →
            ∃ s', exec (.shardLoadComplete k fin) s = .next s' ∧ s'.trust.loads = s.trust.loads.eraseIdx k
              ∧ shardCode (setOf s' l.set) l.first = 0 ∧ ∀ i, i < p.2 → viewByte s' (p.1 + i) = memByte s (l.src + i)))
    ∧ (∀ h, Claims.HostCur s 0x38 h → s.lines = [] →
        let d := blockWords h
        let l := reloadOf s h
        let ls := poisonLines s (spanOf s l.set l.index)
        let verified := verifiedCode (shardCode (setOf s l.set) l.index)
        (∀ k, firstFail (reloadChecks s d l) = some k → Claims.HostRejects s (exec .reloadShard s) h k)
        ∧ (firstFail (reloadChecks s d l) = none → ls = [] → verified = true → ∃ s', exec .reloadShard s = .next s' ∧ Claims.HostEnds s s' h 0 0 0 ∧ s'.trust = s.trust)
        ∧ (firstFail (reloadChecks s d l) = none → (ls ≠ [] ∨ verified = false) → ∃ s', exec .reloadShard s = .next s' ∧ s'.host.cur = none
            ∧ s'.trust.reloads = s.trust.reloads ++ [{ l with lines := ls }] ∧ s'.mem = s.mem ∧ s'.host.rings = s.host.rings))
    ∧ (∀ k l, s.trust.reloads[k]? = some l → s.host.cacheEn = true → addrWaits s (spanOf s l.set l.index).1 = false →
        ((l.stop = true ∨ reloadPasses s l (spanOf s l.set l.index).2 = false) → ∃ s', exec (.reloadShardComplete k) s = .next s' ∧ Claims.JobEnds s s' l.job 2 0 0
            ∧ s'.trust.reloads = s.trust.reloads.eraseIdx k ∧ s'.sets = s.sets)
        ∧ (l.stop = false → l.mode = 0 → l.lines ≠ [] → s.lines = [] → l.job.nores = true → reloadPasses s l (spanOf s l.set l.index).2 = true →
            let p := spanOf s l.set l.index
            (∀ a, a ∈ l.lines → a % 128 = 0 ∧ p.1 ≤ a ∧ a + 128 ≤ p.1 + p.2 ∧ isHbm a = true ∧ addrFailed s a = false) →
            ∃ s', exec (.reloadShardComplete k) s = .next s' ∧ s'.trust.reloads = s.trust.reloads.eraseIdx k ∧ shardCode (setOf s' l.set) l.index = 0
              ∧ ∀ a, a ∈ l.lines → poisoned s' a = false ∧ memBytes s' a 128 = memBytes s (l.src + (a - p.1)) 128))

/-- R599, R608 to R612: a content key that unwraps is installed under its KEY_ID, one that does not is rejected under CHECK 5 with an event; a
report takes one signature and stands at OUT; a device whose supply is cut between the write of the index and the release starts again
with that index used up. -/
def Sys2Proof.Claims.KeysAndReports : Prop :=
  ∀ (s : State) (h : HostCmd) (cut : Bool),
    (Claims.HostCur s 0x31 h →
      let d := blockWords h
      let n := wf d 0 63 56
      let keyId := wf d 0 31 0
      let checks := [(1, wf d 0 54 48 != 0 || !(zeroWords d [1, 2, 3, 4, 5, 6, 7])), (2, !s.trust.identOk),
        (3, wf d 0 47 32 != s.trust.kemGen.toNat % 2 ^ 16), (4, slotUsed s n || s.trust.keys.any (fun p => p.1 != n && p.2.keyId == keyId))]
      (∀ k, firstFail checks = some k → Claims.HostRejects s (exec .keyDeliver s) h k)
      ∧ (firstFail checks = none → wf d 0 55 55 = 0 → ∃ s', exec .keyDeliver s = .next s' ∧ Claims.HostEnds s s' h 0 0 0 ∧ slotKey s' n = none
          ∧ ∀ m, m ≠ n → slotKey s' m = slotKey s m)
      ∧ (firstFail checks = none → wf d 0 55 55 = 1 →
          (unwrapKey s h.block keyId n = none → ∃ s' e, exec .keyDeliver s = .next s' ∧ Claims.HostEnds s s' h 1 5 0 ∧ s'.trust = s.trust
            ∧ s'.evs = s.evs ++ [e] ∧ e.code = 0x0801 ∧ e.arg0 = 3)
          ∧ (∀ key, unwrapKey s h.block keyId n = some key → ∃ s', exec .keyDeliver s = .next s' ∧ Claims.HostEnds s s' h 0 0 0
              ∧ slotKey s' n = some { keyId := keyId, key := key } ∧ ∀ m, m ≠ n → slotKey s' m = slotKey s m)))
    ∧ (Claims.HostCur s 0x32 h →
        let out := hf h 2 47 0
        let cert := hf h 2 48 48 == 1
        let n := if cert then (certBytes s.trust).length else 7060
        let checks := [(0, out % 64 != 0), (1, hf h 2 63 49 != 0 || wd h.ws 7 != 0), (2, !(inHost out n)), (3, !s.trust.identOk), (4, sigsLeft s == 0)]
        (s.host.cacheEn = false → exec (.attest cut) s = .next s)
        ∧ (∀ k, s.host.cacheEn = true → firstFail checks = some k → Claims.HostRejects s (exec (.attest cut) s) h k)
        ∧ (s.host.cacheEn = true → firstFail checks = none → (cert = true ∨ cut = false) →
            ∃ s', exec (.attest cut) s = .next s' ∧ Claims.HostEnds s s' h 0 0 (BitVec.ofNat 64 n)
            ∧ s'.trust.sigNext = s.trust.sigNext + (if cert then 0 else 1)
            ∧ (h.job.nores = true → memBytes s' out n = if cert then certBytes s.trust else report s h))
        ∧ (s.host.cacheEn = true → firstFail checks = none → cert = false → cut = true →
            ∃ s', exec (.attest cut) s = .next s' ∧ s'.trust.sigNext = s.trust.sigNext + 1 ∧ s'.trust.phase = 0 ∧ s'.host.cur = none ∧ s'.ctxs = []
              ∧ ∀ a, isHost a = true → memByte s' a = memByte s a))

/-! ## Power, clocks, temperatures -/

/-- R672 to R674, R678 to R682: THROTTLE sets the level of its dies and completes when their running islands have relocked; POWER_STATE takes
the package to the state it names, Standby losing all that the compute dies and stacks held. -/
def Sys2Proof.Claims.PowerCommands : Prop :=
  ∀ (s : State),
    (∀ h, Claims.HostCur s 0x3C h →
      let dies := hf h 2 7 0
      let lvl := hf h 2 9 8
      let checks := [(1, hf h 2 63 10 != 0 || [3, 4, 5, 6, 7].any (fun i => wd h.ws i != 0)), (2, dies == 0), (3, (bitList 8 dies).any (dieOutOf s))]
      (∀ k, firstFail checks = some k → Claims.HostRejects s (exec .throttle s) h k)
      ∧ (firstFail checks = none → ∃ s', exec .throttle s = .next s' ∧ s'.host.cur = none
          ∧ (∀ d, cmdLevelOf s' d = if d < 8 ∧ dies.testBit d = true then lvl else cmdLevelOf s d)
          ∧ (∀ d cl, d < 8 → cl ∈ s.pwr.islands → islandDie cl = d → appliedLevel s' d ≠ appliedLevel s d → cl ∈ s'.pwr.relock)
          ∧ (s.pwr.throttle = [] → s.pwr.relock = [] → s.pwr.islands = [] → Claims.HostEnds s s' h 0 0 0)))
    ∧ (∀ cl, (cl ∉ s.pwr.relock → exec (.levelChangeRelock cl) s = .next s)
        ∧ (cl ∈ s.pwr.relock → ∃ s', exec (.levelChangeRelock cl) s = .next s' ∧ (∀ c, c ∈ s'.pwr.relock ↔ c ∈ s.pwr.relock ∧ c ≠ cl)
            ∧ ∀ dies j, s.pwr.throttle = [(dies, j)] → s.pwr.relock = [cl] → s'.pwr.throttle = [] ∧ Claims.JobEnds s s' j 0 0 0))
    ∧ (∀ h, Claims.HostCur s 0x3D h →
        let v := hf h 2 1 0
        let checks := [(1, v == 3 || hf h 2 63 2 != 0 || [3, 4, 5, 6, 7].any (fun i => wd h.ws i != 0)), (2, v == 2 && standbyBlocked s), (3, s.pwr.job.isSome)]
        (∀ k, firstFail checks = some k → Claims.HostRejects s (exec .powerState s) h k)
        ∧ (firstFail checks = none →
            (v = 2 → ∃ s', exec .powerState s = .next s' ∧ Claims.HostEnds s s' h 0 0 0 ∧ s'.pwr.st = .standby ∧ s'.pwr.islands = [] ∧ s'.lines = []
              ∧ (h.job.nores = true → ∀ a, isHost a = false → memByte s' a = 0) ∧ (h.job.nores = true → ∀ a, isHost a = true → memByte s' a = memByte s a))
            ∧ (v ≠ 2 → s.pwr.st = .standby → ∃ s', exec .powerState s = .next s' ∧ s'.host.cur = none ∧ s'.host.rings = s.host.rings ∧ s'.pwr.job = some h.job
                ∧ s'.pwr.jobTo = powerSt v ∧ s'.pwr.st = .standby)
            ∧ (v ≠ 2 → s.pwr.st ≠ .standby → ∃ s', exec .powerState s = .next s' ∧ Claims.HostEnds s s' h 0 0 0 ∧ s'.pwr.st = powerSt v)))
    ∧ (s.pwr.job = none → exec .standbyReturnComplete s = .next s)
    ∧ (∀ j, s.pwr.job = some j → ∃ s', exec .standbyReturnComplete s = .next s' ∧ s'.pwr.st = s.pwr.jobTo ∧ s'.pwr.job = none ∧ Claims.JobEnds s s' j 0 0 0)

/-- R29, R34, R36, R667 to R671: islands start in regions that have power and a clock, and stop when no unit of theirs runs, has a wake
pending or is reached by a store access; a region is gated only in Saving, with nothing in it, and wakes with its stores zero; a stack
sleeps in Saving with no command. -/
def Sys2Proof.Claims.IslandsAndSleep : Prop :=
  ∀ (s : State),
    (∀ cl, let stays := s.pwr.islands.contains cl || s.pwr.gated.contains (islandRegion cl) || !(powered s) || !s.pwr.refclk || dieOutOf s (islandDie cl)
      (stays = true → exec (.islandStart cl) s = .next s)
      ∧ (stays = false → ∃ s', exec (.islandStart cl) s = .next s' ∧ (∀ c, c ∈ s'.pwr.islands ↔ c ∈ s.pwr.islands ∨ c = cl)
          ∧ s'.pwr.starts = s.pwr.starts + 1 ∧ cl ∉ s'.flt.clkFault ∧ s'.mem = s.mem ∧ s'.res = s.res))
    ∧ (∀ cl, ((∃ u, u ∈ islandUnits s cl ∧ needsClock s u = true) → exec (.islandStop cl) s = .next s)
        ∧ ((∀ u, u ∈ islandUnits s cl → needsClock s u = false) → ∃ s', exec (.islandStop cl) s = .next s' ∧ (∀ c, c ∈ s'.pwr.islands ↔ c ∈ s.pwr.islands ∧ c ≠ cl)
            ∧ cl ∉ s'.pwr.relock ∧ s'.res = s.res ∧ s'.units = s.units)
        ∧ (∀ u, u ∈ islandUnits s cl ↔ regionOf u = islandRegion cl ∧ islandOf s u = cl)
        ∧ ∀ u, (needsClock s u = true ↔ (unitOf s u).running ≠ none ∨ (∃ p, p ∈ residents s u ∧ wakePends s u p.1 p.2 = true) ∨ storeAccess s u = true))
    ∧ (∀ r, r < 16 → ((s.pwr.st ≠ .saving ∨ mayGate s r = false ∨ r ∈ s.pwr.gated) → exec (.regionGate r) s = .next s)
        ∧ (s.pwr.st = .saving → mayGate s r = true → r ∉ s.pwr.gated → ∃ s', exec (.regionGate r) s = .next s' ∧ r ∈ s'.pwr.gated
            ∧ (∀ c, islandRegion c = r → c ∉ s'.pwr.islands) ∧ (∀ c, islandRegion c ≠ r → (c ∈ s'.pwr.islands ↔ c ∈ s.pwr.islands)) ∧ s'.units = s.units))
    ∧ (∀ r, ((r ∉ s.pwr.gated ∨ dieOutOf s (r / 2) = true) → exec (.regionWake r) s = .next s)
        ∧ (r ∈ s.pwr.gated → dieOutOf s (r / 2) = false → ∃ s', exec (.regionWake r) s = .next s' ∧ r ∉ s'.pwr.gated ∧ (∀ c, c / 4 = r → c ∈ s'.pwr.islands ∧ c ∉ s'.flt.clkFault)
            ∧ s'.pwr.starts = s.pwr.starts + 4
            ∧ (∀ u b, u / 16 = r → b < 0x800000 → memByte s' (usAddr u b) = 0) ∧ (∀ u b, u / 16 = r → b < 0x100000 → memByte s' (ocAddr u b) = 0)))
    ∧ (∀ st, let sleeps := s.pwr.st == .saving && (seOf s st).cmds.isEmpty && (seOf s st).copying.isNone && !(seOf s st).failed
        (sleeps = false → exec (.stackSelfRefresh st) s = .next s)
        ∧ (sleeps = true → ∃ s', exec (.stackSelfRefresh st) s = .next s' ∧ seOf s' st = { seOf s st with selfRef := true } ∧ s'.mem = s.mem)
        ∧ ∃ s', exec (.stackSrExit st) s = .next s' ∧ seOf s' st = { seOf s st with selfRef := false } ∧ s'.mem = s.mem)

/-- R315, R316, R679, R684, R685: thresholds only tighten within their bounds; a reading takes each sensor's value, raises a stack's refresh
rate, holds a stack above HOLD_C until 3 °C below it, and two readings running at a trip threshold drop the whole package.
Where the spec leaves a point open it holds of the model's choices (log entries 85, 86). -/
def Obligations.TemperatureResults : Prop :=
  ∀ (s : State),
    (∀ v : W64,
      let t2 := if 85 < fld v 7 0 then s.host.t2 else fld v 7 0
      let t4 := if 95 < fld v 15 8 then s.host.t4 else fld v 15 8
      let hc := if 105 < fld v 23 16 then s.host.holdC else fld v 23 16
      (¬ (t2 < t4 ∧ t4 < hc) → exec (.refThr v) s = .next s)
      ∧ (t2 < t4 → t4 < hc → exec (.refThr v) s = .next { s with host := { s.host with t2 := t2, t4 := t4, holdC := hc } })
      ∧ exec (.thTrip v) s = .next { s with pwr := { s.pwr with
          tripDieC := if 110 ≤ fld v 15 8 ∧ fld v 15 8 ≤ s.pwr.tripDieC then fld v 15 8 else s.pwr.tripDieC,
          tripStackC := if 106 ≤ fld v 7 0 ∧ fld v 7 0 ≤ s.pwr.tripStackC then fld v 7 0 else s.pwr.tripStackC } }
      ∧ ∃ s', exec (.thArm v) s = .next s' ∧ s'.pwr.level = fld v 1 0 ∧ s'.pwr.tC = (if 60 ≤ fld v 23 16 ∧ fld v 23 16 ≤ 105 then fld v 23 16 else s.pwr.tC)
          ∧ ∀ d, d < 8 →
            (s'.pwr.armedOn.contains d = if s.pwr.armedOn.contains d then decide (s'.pwr.tC < dieTempOf s d + 5) else decide (s'.pwr.tC ≤ dieTempOf s d)))
    ∧ (∀ ts : List Nat,
        (∀ i, tripSensor s ts = some i → s.pwr.thermtrip = false → ∃ s', exec (.sensorRead ts) s = .next s' ∧ s'.pwr.thermtrip = true ∧ s'.pwr.tripped = true
          ∧ s'.pwr.tripDie = (if sensorDie i < 10 then sensorDie i else 31) ∧ s'.pwr.tripStack = (if sensorDie i < 10 then 31 else sensorDie i - 10)
          ∧ s'.pwr.st = .off ∧ s'.ctxs = [] ∧ s'.res = [] ∧ s'.host.cacheEn = false ∧ (∀ a, isHost a = false → memByte s' a = 0))
        ∧ (tripSensor s ts = none → ∃ s', exec (.sensorRead ts) s = .next s' ∧ s'.pwr.sensors = (List.range 160).map (fun i => ts.getD i 0)
            ∧ (∀ i, i < 136 → ts.getD i 0 ≤ dieTempOf s' (sensorDie i)) ∧ (∀ d, Tbl.get 0 s.pwr.dieMax d ≤ Tbl.get 0 s'.pwr.dieMax d)
            ∧ ∀ st, st < 24 →
                let t := ts.getD (136 + st) 0
                (seOf s' st).temp = t
                ∧ (seOf s' st).rate = (if repairsWait s then (seOf s st).rate else nextRate s.host (seOf s st).rate t)
                ∧ (seOf s' st).held = (if (seOf s st).held then decide (s.host.holdC < t + 3) else decide (s.host.holdC < t))))


/-! ## Errors and repair -/

/-- R272, R309, R312, R357, R358, R621: a corrected error is counted and nothing else; an uncorrectable one poisons its line or words, is
counted and reported, and faults the owners; a registered range that no longer has its digest is reported. -/
def Sys2Proof.Claims.MemoryErrorResults : Prop :=
  ∀ (s : State),
    (∀ a eng, (∀ corr, (isHbm a = false ∨ poisoned s (a / 128 * 128) = true) → exec (.hbmReadError a corr eng) s = .next s)
      ∧ (isHbm a = true → poisoned s (a / 128 * 128) = false →
          (∃ s', exec (.hbmReadError a true eng) s = .next s' ∧ s'.mem = s.mem ∧ s'.poison = s.poison ∧ s'.evs = s.evs
            ∧ seOf s' (stackOf a) = { seOf s (stackOf a) with hbmCe := (seOf s (stackOf a)).hbmCe + 1, ce := (seOf s (stackOf a)).ce + (if eng then 1 else 0) })
          ∧ (∃ s' e l, exec (.hbmReadError a false eng) s = .next s' ∧ s'.mem = s.mem ∧ poisoned s' (a / 128 * 128) = true
            ∧ (seOf s' (stackOf a)).hbmUe = (seOf s (stackOf a)).hbmUe + 1 ∧ s'.evs = s.evs ++ e :: l ∧ e.code = 0x0202 ∧ e.arg1 = BitVec.ofNat 64 (a / 128 * 128)
            ∧ ∀ x, lineOf s' (a / 128) = some x → x.dirty = true)))
    ∧ (∀ st, (∀ err, stackServes (seOf s st) = false → exec (.sePatrolScrub st err) s = .next s)
        ∧ (stackServes (seOf s st) = true →
            (∃ s', exec (.sePatrolScrub st 0) s = .next s' ∧ seOf s' st = { seOf s st with scrubPos := ((seOf s st).scrubPos + 128) % 2 ^ 37 } ∧ s'.evs = s.evs ∧ s'.poison = s.poison)
            ∧ (st < 24 → (seOf s st).scrubPos < 2 ^ 37 → poisoned s ((stackBase st + (seOf s st).scrubPos) / 128 * 128) = false →
                ∃ s', exec (.sePatrolScrub st 1) s = .next s' ∧ s'.evs = s.evs ∧ s'.poison = s.poison
                  ∧ seOf s' st = { seOf s st with scrubPos := ((seOf s st).scrubPos + 128) % 2 ^ 37, hbmCe := (seOf s st).hbmCe + 1, ce := (seOf s st).ce + 1 })))
    ∧ (∀ st k r, (seOf s st).regns[k]? = some r →
        (((seOf s st).digestInt = 0 ∨ stackServes (seOf s st) = false ∨ rawPoison s r.src r.len = true) → exec (.digestReverify st k) s = .next s)
        ∧ (sha256 (memBytes s r.src r.len) = r.digest → exec (.digestReverify st k) s = .next s)
        ∧ ((seOf s st).digestInt ≠ 0 → stackServes (seOf s st) = true → rawPoison s r.src r.len = false → sha256 (memBytes s r.src r.len) ≠ r.digest →
            ∃ s' e, exec (.digestReverify st k) s = .next s' ∧ (seOf s' st).digestFail = (seOf s st).digestFail + 1 ∧ s'.evs = s.evs ++ [e] ∧ e.code = 0x0301
              ∧ e.arg1 = BitVec.ofNat 64 r.src ∧ s'.mem = s.mem))
    ∧ (∀ r tag ls,
        let ds := dirtyAt s r (if tag then setLines s (ls.headD 0) else ls)
        (ls = [] → exec (.scUncorrectable r tag ls) s = .next s)
        ∧ (ls ≠ [] → tag = false → ds = [] → exec (.scUncorrectable r tag ls) s = .next (setSc s r { scOf s r with ce := (scOf s r).ce + 1 }))
        ∧ (ls ≠ [] → tag = true → ds = [] → ∃ s', exec (.scUncorrectable r tag ls) s = .next s' ∧ scOf s' r = { scOf s r with ue := (scOf s r).ue + 1 } ∧ s'.lines = s.lines
            ∧ s'.mem = s.mem ∧ ∀ p, p ∈ s.ctxs → mappedTo p.2 r = true → ∃ e, e ∈ s'.evs ∧ e.code = 0x0206 ∧ e.arg0 = BitVec.ofNat 32 (p.1 * 2 ^ 20 + r))
        ∧ (ls ≠ [] → ds ≠ [] → ∃ s', exec (.scUncorrectable r tag ls) s = .next s' ∧ (scOf s' r).ue = (scOf s r).ue + 1 ∧ s'.mem = s.mem
            ∧ (∀ p, p ∈ ds → (lineOf s' (p.1 / 128)).map (·.poison) = some true)
            ∧ ∀ d p, d ∈ ds → p ∈ s.ctxs → mappedTo p.2 r = true → ∃ e, e ∈ s'.evs ∧ e.code = 0x0206 ∧ e.arg0 = BitVec.ofNat 32 (p.1 * 2 ^ 20 + r)
                ∧ e.arg1 = BitVec.ofNat 64 (d.1 / 128 * 128)))
    ∧ (∀ r ce, exec (.scPatrolScrub r ce) s = .next (setSc s r { scOf s r with ce := (scOf s r).ce + BitVec.ofNat 64 ce }))
    ∧ (∀ u ce us oc, (regionOf u ∈ s.pwr.gated → exec (.usPatrolScrub u ce us oc) s = .next s)
        ∧ (u < 256 → regionOf u ∉ s.pwr.gated → (∀ o, o ∈ us → o < 0x800000) → (∀ o, o ∈ oc → o < 0x100000) →
            ∃ s', exec (.usPatrolScrub u ce us oc) s = .next s' ∧ s'.mem = s.mem ∧ s'.flt.usCe = s.flt.usCe + BitVec.ofNat 64 ce
              ∧ s'.flt.usUe = s.flt.usUe + BitVec.ofNat 64 (us.length + oc.length)
              ∧ (∀ o, o ∈ us → poisoned s' (usAddr u o) = true) ∧ (∀ o, o ∈ oc → poisoned s' (ocAddr u o) = true)
              ∧ ∀ c, c ∈ wordOwners s u us oc → live s' c = false))

/-- R283, R284, R286, Table 7.4: a flush writes every dirty line of its region back and leaves none of the region's lines; a reservation that
leaves fewer than 4 ways, or gives a way twice, is refused with RSV_ERR, and one that is taken moves no line; a way that becomes a drove way
loses the line it holds, a dirty one to memory. -/
def Sys2Proof.Claims.SharedCacheControl : Prop :=
  ∀ (s : State) (r : Nat),
    exec (.scFlush r) s = .next (setSc s r { scOf s r with busy := true })
    ∧ (((scOf s r).busy = false ∨ ∃ p, p ∈ s.lines ∧ homeRegion (p.1 * 128) = r ∧ p.2.dirty = true ∧ addrWaits s (p.1 * 128) = true) →
        exec (.scFlushComplete r) s = .next s)
    ∧ ((scOf s r).busy = true → (∀ p, p ∈ s.lines → homeRegion (p.1 * 128) = r → p.2.dirty = true → addrWaits s (p.1 * 128) = false) →
        Tbl.sorted s.lines = true → (∀ p, p ∈ s.lines → p.2.data.length = 128) →
        ∃ s', exec (.scFlushComplete r) s = .next s' ∧ (scOf s' r).busy = false
          ∧ (∀ k, homeRegion (k * 128) = r → lineOf s' k = none) ∧ (∀ k, homeRegion (k * 128) ≠ r → lineOf s' k = lineOf s k)
          ∧ (∀ k l, lineOf s k = some l → homeRegion (k * 128) = r → l.dirty = true → memBytes s' (k * 128) 128 = l.data ∧ poisoned s' (k * 128) = (l.poison || addrFailed s (k * 128)))
          ∧ (∀ a, (∀ l, lineOf s (a / 128) = some l → homeRegion (a / 128 * 128) = r → l.dirty = false) → memByte s' a = memByte s a))
    ∧ (∀ v : W64,
        let n := fld v 3 0
        ((8 < n ∨ waysOk (scOf s r).wayRsv n = false) → exec (.scWayRsv r 0x1018 v) s = .next (setSc s r { scOf s r with rsvErr := true }))
        ∧ (n ≤ 8 → waysOk (scOf s r).wayRsv n = true →
            let leaves (p : Nat × ScLine) : Bool := homeRegion (p.1 * 128) == r && decide (24 - n ≤ p.2.way)
            ((∃ p, p ∈ s.lines ∧ leaves p = true ∧ p.2.dirty = true ∧ stackWaits s (p.1 * 128) = true) → exec (.scWayRsv r 0x1018 v) s = .next s)
            ∧ ((∀ p, p ∈ s.lines → leaves p = true → p.2.dirty = true → stackWaits s (p.1 * 128) = false) → Tbl.sorted s.lines = true →
                (∀ p, p ∈ s.lines → p.2.data.length = 128) →
                ∃ s', exec (.scWayRsv r 0x1018 v) s = .next s' ∧ scOf s' r = { scOf s r with droveWays := n }
                  ∧ (∀ k, lineOf s' k = (lineOf s k).filter (fun l => !(leaves (k, l))))
                  ∧ (∀ k l, lineOf s k = some l → leaves (k, l) = true → l.dirty = true → memBytes s' (k * 128) 128 = l.data)
                  ∧ (∀ a, (∀ l, lineOf s (a / 128) = some l → leaves (a / 128, l) = true → l.dirty = false) → memByte s' a = memByte s a)))
        ∧ ∀ p, p < 64 →
            let w := Tbl.set 0 (scOf s r).wayRsv p (BitVec.ofNat 24 (fld v 23 0))
            (waysOk w (scOf s r).droveWays = false → exec (.scWayRsv r (0x1100 + 8 * p) v) s = .next (setSc s r { scOf s r with rsvErr := true }))
            ∧ (waysOk w (scOf s r).droveWays = true → exec (.scWayRsv r (0x1100 + 8 * p) v) s = .next (setSc s r { scOf s r with wayRsv := w })))

/-- R28, R41, R632 to R638: a unit with an error is out of service, reported, its running context faulted and its other residents held; a
substitution puts the spare site in its place, or marks the spare failed, and its report carries the time from the quarantine or the command on;
a retest returns the unit, with the stale event where its state is not the record's; no unit of a die out of service is enabled by either; SPARE
begins either, or retires the unit. -/
def Sys2Proof.Claims.UnitRepairResults : Prop :=
  ∀ (s : State) (u : Nat),
    (((unitOf s u).en = false ∨ (unitOf s u).quar ≠ .inService) → exec (.unitLogicError u) s = .next s)
    ∧ ((unitOf s u).en = true → (unitOf s u).quar = .inService → ∃ s' e, exec (.unitLogicError u) s = .next s' ∧ (unitOf s' u).en = false
        ∧ (unitOf s' u).quar = (if s.flt.arm.getLsbD 0 && spareFree s u && !(unitOf s u).spareIn then .substituting else .quarantined)
        ∧ s'.flt.parity = s.flt.parity + 1 ∧ s'.evs = s.evs ++ [e] ∧ e.code = 0x0901 ∧ e.cls = clsError ∧ s'.mem = s.mem
        ∧ (∀ c, (unitOf s u).running = some c → live s' c = false) ∧ (∀ c r, c < 4096 → resOf s u c = some r → (resOf s' u c).map (·.held) = some true))
    ∧ (∀ pass readable t, ((unitOf s u).quar ≠ .substituting ∨ s.flt.down1 = true) → exec (.spareSubstitute u pass readable t) s = .next (advance s t))
    ∧ (∀ readable t, (unitOf s u).quar = .substituting → s.flt.down1 = false →
        let us := ((advance s t).time.now - (unitOf s u).spareFrom).toNat / 16000
        (∃ s', exec (.spareSubstitute u false readable t) s = .next s' ∧ (unitOf s' u).quar = .quarantined ∧ s'.flt.spareFail = s.flt.spareFail ||| BitVec.ofNat 16 (2 ^ regionOf u)
          ∧ ∀ j, (unitOf s u).spareJob = some j → Claims.JobEnds (advance s t) s' j 2 0 (BitVec.ofNat 64 us))
        ∧ (∃ s' e, exec (.spareSubstitute u true readable t) s = .next s' ∧ (unitOf s' u).quar = .inService
          ∧ (unitOf s' u).en = (!(dieOutOf s (dieOf u)) || (unitOf s u).en) ∧ (unitOf s' u).spareIn = true
          ∧ s'.flt.spareUsed = s.flt.spareUsed ||| BitVec.ofNat 16 (2 ^ regionOf u) ∧ (s.trust.supp.length < suppRoom → s'.trust.suppSeq = s.trust.suppSeq + 1)
          ∧ s'.evs = s.evs ++ [e] ∧ e.code = 0x0902 ∧ e.arg1 = BitVec.ofNat 64 us ∧ (∀ j, (unitOf s u).spareJob = some j → Claims.JobEnds (advance s t) s' j 0 0 (BitVec.ofNat 64 us))))
    ∧ (∀ pass t, ((unitOf s u).quar ≠ .retesting ∨ s.flt.down1 = true) → exec (.unitReturn u pass t) s = .next (advance s t))
    ∧ (∀ t, (unitOf s u).quar = .retesting → s.flt.down1 = false →
        let us := ((advance s t).time.now - (unitOf s u).spareFrom).toNat / 16000
        (∃ s', exec (.unitReturn u false t) s = .next s' ∧ (unitOf s' u).quar = .quarantined ∧ (s.trust.supp.length < suppRoom → s'.trust.suppSeq = s.trust.suppSeq + 1)
          ∧ ∀ j, (unitOf s u).spareJob = some j → Claims.JobEnds (advance s t) s' j 2 0 (BitVec.ofNat 64 us))
        ∧ ((unitOf s u).epoch = (unitOf s u).recEpoch → ∃ s', exec (.unitReturn u true t) s = .next s' ∧ (unitOf s' u).quar = .inService
            ∧ (unitOf s' u).en = (!(dieOutOf s (dieOf u)) || (unitOf s u).en)
            ∧ s'.evs = s.evs ∧ ∀ j, (unitOf s u).spareJob = some j → Claims.JobEnds (advance s t) s' j 0 0 (BitVec.ofNat 64 us))
        ∧ ((unitOf s u).epoch ≠ (unitOf s u).recEpoch → residents s u ≠ [] → ∃ s' e, exec (.unitReturn u true t) s = .next s' ∧ (unitOf s' u).quar = .stale
            ∧ s'.evs = s.evs ++ [e] ∧ e.code = 0x0903))
    ∧ (∀ h, Claims.HostCur s 0x39 h → hf h 2 7 0 = u →
        (∀ k, firstFail (spareChecks s h) = some k → Claims.HostRejects s (exec .spare s) h k)
        ∧ (firstFail (spareChecks s h) = none →
            (hf h 2 9 8 = 0 → ∃ s', exec .spare s = .next s' ∧ s'.host.cur = none ∧ s'.host.rings = s.host.rings
                ∧ unitOf s' u = { unitOf s u with quar := .substituting, spareJob := some h.job, spareFrom := h.since })
            ∧ (hf h 2 9 8 = 1 → ∃ s', exec .spare s = .next s' ∧ s'.host.cur = none ∧ s'.host.rings = s.host.rings
                ∧ unitOf s' u = { unitOf s u with quar := .retesting, spareJob := some h.job, spareFrom := h.since })
            ∧ (hf h 2 9 8 = 2 → residents s u = [] → ∃ s', exec .spare s = .next s' ∧ Claims.HostEnds s s' h 0 0 (BitVec.ofNat 64 ((s.time.now - h.since).toNat / 16000))
                ∧ (unitOf s' u).quar = .retired ∧ (unitOf s' u).en = false ∧ (s.trust.supp.length < suppRoom → s'.trust.suppSeq = s.trust.suppSeq + 1))))

/-- R31, R40 to R42, R639, R640, R647, R648: faults of a cluster's clock, a stack, a die and the package take what depends on them out of
service and are reported; HBM spares are taken while their condition and their arm bit hold; a steward controller that stops is reset, and
held, with the device, at its third reset within an hour. -/
def Sys2Proof.Claims.FaultAndSparingResults : Prop :=
  ∀ (s : State),
    (∀ v : W64, exec (.fltArm v) s = .next { s with flt := { s.flt with arm := BitVec.ofNat 5 (fld v 4 0) } })
    ∧ (∀ cl spare, let i := if spare then 64 + cl / 4 else cl
        ∃ s' e, exec (.clusterClockFault cl spare) s = .next s' ∧ s'.flt.clock = s.flt.clock + 1 ∧ s'.evs = s.evs ++ [e] ∧ e.code = 0x0904
        ∧ e.arg0 = BitVec.ofNat 32 cl ∧ i ∉ s'.pwr.islands ∧ i ∈ s'.flt.clkFault
        ∧ ∀ c x v, ctxOf s c = some x → v ∈ x.units → v / 4 = cl → (spare = true → (unitOf s v).spareIn = true) → live s' c = false)
    ∧ (∀ st, ((seOf s st).failed = true → exec (.stackFail st) s = .next s)
        ∧ ((seOf s st).failed = false → ∃ s' e, exec (.stackFail st) s = .next s' ∧ (seOf s' st).failed = true ∧ (seOf s' st).cmds = [] ∧ (seOf s' st).inst = []
            ∧ s'.evs = s.evs ++ [e] ∧ e.code = 0x0302 ∧ e.cls = clsCritical ∧ (∀ c x, ctxOf s c = some x → onStack x st = true → live s' c = false)))
    ∧ (∀ d, d < 8 → (s.flt.dieOut.getLsbD d = true → exec (.regulatorFault d) s = .next s)
        ∧ (s.flt.dieOut.getLsbD d = false → ∃ s' e, exec (.regulatorFault d) s = .next s' ∧ s'.flt.dieOut.getLsbD d = true ∧ s'.evs = s.evs ++ [e] ∧ e.code = 0x0905
            ∧ (∀ v, v / 32 = d → (unitOf s' v).en = false) ∧ (∀ c, islandDie c = d → c ∉ s'.pwr.islands) ∧ ∀ st, st / 3 = d → (seOf s' st).failed = true))
    ∧ (∀ src, ∃ s' e, exec (.packageFault src) s = .next s' ∧ src ∈ s'.flt.pkgHold ∧ s'.evs = s.evs ++ [e] ∧ e.code = 0x0907 ∧ e.arg0 = BitVec.ofNat 32 src
        ∧ s'.mem = s.mem ∧ s'.res = s.res)
    ∧ (∀ a, let st := stackOf a
        let y := seOf s st
        let taken (s' : State) (kind : Nat) : Prop := (s.trust.supp.length < suppRoom → s'.trust.suppSeq = s.trust.suppSeq + 1) ∧ (∃ e, s'.evs = s.evs ++ [e]
          ∧ e.code = 0x0908 ∧ e.arg0 = BitVec.ofNat 32 (kind * 2 ^ 8 + st) ∧ e.arg1 = BitVec.ofNat 64 a) ∧ s'.mem = s.mem
        (mayRepair s a = false → exec (.hbmRowSpare a) s = .next s ∧ exec (.hbmBankSpare a) s = .next s ∧ exec (.hbmPcSpare a) s = .next s)
        ∧ (mayRepair s a = true →
            (s.flt.arm.getLsbD 1 = true → Tbl.get 0 y.rowSpares (hbmBank a) < 4 →
                ∃ s', exec (.hbmRowSpare a) s = .next s' ∧ taken s' 0 ∧ (seOf s' st).blocked = [hbmBank a] ∧ (seOf s' st).rowsSpared = y.rowsSpared + 1)
            ∧ ((s.flt.arm.getLsbD 1 = false ∨ 4 ≤ Tbl.get 0 y.rowSpares (hbmBank a)) → exec (.hbmRowSpare a) s = .next s)
            ∧ (∀ r, s.flt.arm.getLsbD 2 = true → bankReserve y = some r → Tbl.find? y.bankSpares (hbmBank a) = none →
                ∃ s', exec (.hbmBankSpare a) s = .next s' ∧ taken s' 1 ∧ (seOf s' st).copying = some (1, a)
                  ∧ Tbl.find? (seOf s' st).bankSpares (hbmBank a) = some (r * 64 + bankUse y r))
            ∧ (∀ r, s.flt.arm.getLsbD 3 = true → pcReserve y = some r →
                ∃ s', exec (.hbmPcSpare a) s = .next s' ∧ taken s' 2 ∧ (seOf s' st).copying = some (2, a) ∧ Tbl.find? (seOf s' st).pcSpares (hbmPc a) = some r)
            ∧ (s.flt.arm.getLsbD 3 = true → pcReserve y = none → ∃ s', exec (.hbmPcSpare a) s = .next s' ∧ (seOf s' st).failed = true)))
    ∧ (∀ st, (∃ s', exec (.hbmRowRepairDone st) s = .next s' ∧ seOf s' st = { seOf s st with blocked := [] } ∧ s'.mem = s.mem)
        ∧ ∃ s', exec (.hbmSpareCopyDone st) s = .next s' ∧ seOf s' st = { seOf s st with copying := none } ∧ s'.mem = s.mem)
    ∧ (∀ n, n < 2 →
        let down := if n = 0 then s.flt.down0 else s.flt.down1
        let reset (s' : State) : Prop := stewardDown s' n = true ∧ (∃ e, s'.evs = s.evs ++ [e] ∧ e.code = 0x0907 ∧ e.arg0 = BitVec.ofNat 32 (4 + n))
          ∧ s'.flt.resetAt = s.flt.resetAt ++ [(n, s.time.now)] ∧ (2 ≤ recentResets s n → n ∈ s'.flt.heldDown ∧ (4 + n) ∈ s'.flt.pkgHold)
          ∧ (recentResets s n < 2 → s'.flt.heldDown = s.flt.heldDown)
        (down = true → exec (.stewardWatchdog n) s = .next s ∧ exec (.stewardMemoryUe n) s = .next s ∧ exec (.stewardBeat n) s = .next s)
        ∧ (down = false → (∃ s', exec (.stewardWatchdog n) s = .next s' ∧ reset s') ∧ (∃ s', exec (.stewardMemoryUe n) s = .next s' ∧ reset s')
            ∧ ∃ s', exec (.stewardBeat n) s = .next s' ∧ (if n = 0 then s'.flt.beat0 = s.flt.beat0 + 1 else s'.flt.beat1 = s.flt.beat1 + 1) ∧ s'.evs = s.evs)
        ∧ (n ∈ s.flt.heldDown → exec (.stewardResume n) s = .next s)
        ∧ (n ∉ s.flt.heldDown → ∃ s', exec (.stewardResume n) s = .next s' ∧ stewardDown s' n = false ∧ s'.evs = s.evs))


/-! ## Rhoef ports -/

/-- R515, R516, R518, R519, R527, R644, R645, Table 14.3: a port comes Up on its neighbour's IDENT with sequences and credits new; silence
takes it Down with what it held counted as dropped; training sends IDENT; a failed lane is spared once, while ARM.LANE is 1.
Where the spec leaves a point open it holds of the model's choices (log entries 53, 54, 106, 107). -/
def Obligations.PortStateResults : Prop :=
  ∀ (s : State) (p : Nat),
    let x := portOf s p
    let identWord : LinkWord := { kind := 0, args := [s.fab.devId, p, 0xB0] }
    (∀ dev port,
      ((x.st ≠ .training ∨ x.secondLane = true) → exec (.ident p dev port) s = .next s)
      ∧ (x.st = .training → x.secondLane = false → ∃ s', exec (.ident p dev port) s = .next s'
          ∧ portOf s' p = { x with st := .up, nbDev := dev, nbPort := port, lseq := 0, rxSeq := 0, credits := [], kaCount := 0, nbStratum := 255 }
          ∧ (∀ q, q ≠ p → portOf s' q = portOf s q) ∧ { s' with ports := s.ports, evs := s.evs, fab := s.fab } = s
          ∧ (∀ t, t < 12 →
              let odd := (trunkPorts s t).contains p && (trunkPorts s t).any (fun q => q != p && isUp s q && (portOf s q).nbDev != dev)
              (odd = true → s'.fab.trunkErr = true ∧ trunkPorts s' t = (trunkPorts s t).filter (fun q => q != p))
              ∧ (odd = false → trunkPorts s' t = trunkPorts s t))
          ∧ ((∀ t, t < 12 → p ∉ trunkPorts s t) → s'.fab = s.fab ∧ Claims.OneEvent s s' 0x0601 0 p (port * 2 ^ 20 + dev))))
    ∧ (x.st ≠ .up → exec (.linkSilence p) s = .next s)
    ∧ (x.st = .up → ∃ s', exec (.linkSilence p) s = .next s' ∧ Claims.PortLeft s s' p
        ∧ Claims.OneEvent s s' 0x0603 2 p (x.txq.length + x.replayBuf.length) ∧ (portOf s' p).st = .down ∧ (portOf s' p).txq = []
        ∧ (portOf s' p).replayBuf = [] ∧ (portOf s' p).drops = x.drops + BitVec.ofNat 64 (x.txq.length + x.replayBuf.length)
        ∧ (portOf s' p).credits = x.credits ∧ (portOf s' p).nbDev = x.nbDev ∧ (portOf s' p).txBytes = x.txBytes)
    ∧ (x.st ≠ .training → exec (.trainingTimeout p) s = .next s)
    ∧ (x.st = .training → ∃ s', exec (.trainingTimeout p) s = .next s' ∧ Claims.OnlyPort s s' p ∧ (portOf s' p).st = .training
        ∧ (portOf s' p).words = [identWord]
        ∧ (x.trainWarn = none → Claims.OneEvent s s' 0x0602 1 p 0 ∧ (portOf s' p).trainWarn = some s.time.now)
        ∧ (∀ t, x.trainWarn = some t → (s.time.now - t).toNat < 160000000000 → s'.evs = s.evs ∧ (portOf s' p).trainWarn = some t))
    ∧ (x.st ≠ .down → exec (.portRetrain p) s = .next s)
    ∧ (x.st = .down → ∃ s', exec (.portRetrain p) s = .next s' ∧ Claims.OnlyPort s s' p ∧ s'.evs = s.evs
        ∧ portOf s' p = { x with st := .training, words := [identWord], spareIn := x.spareIn || x.laneFail != 15 })
    ∧ (∀ v : W64,
        (12 ≤ p → exec (.portCtl p v) s = .next s)
        ∧ (p < 12 → ∃ s', exec (.portCtl p v) s = .next s' ∧ (bit v 0 = true → Claims.OnlyPort s s' p) ∧ (bit v 0 = false → Claims.PortLeft s s' p)
            ∧ s'.evs = s.evs ∧ (portOf s' p).en = bit v 0
            ∧ (bit v 0 = true → x.st = .disabled → s.fab.devId ≠ 0xFFFFF → (portOf s' p).st = .training ∧ (portOf s' p).words = [identWord])
            ∧ (bit v 0 = true → (x.st ≠ .disabled ∨ s.fab.devId = 0xFFFFF) → portOf s' p = { x with en := true })
            ∧ (bit v 0 = false → (portOf s' p).st = .disabled)
            ∧ (bit v 0 = false → x.st ≠ .disabled → (portOf s' p).txq = [] ∧ (portOf s' p).replayBuf = []
                ∧ (portOf s' p).drops = x.drops + BitVec.ofNat 64 (x.txq.length + x.replayBuf.length))))
    ∧ (∀ lane,
        ((x.st = .disabled ∨ laneUsed x lane = false) → exec (.laneFail p lane) s = .next s)
        ∧ (x.st ≠ .disabled → laneUsed x lane = true → x.spareIn = true → ∃ s', exec (.laneFail p lane) s = .next s' ∧ Claims.PortLeft s s' p
            ∧ s'.evs = s.evs ∧ (portOf s' p).st = .disabled ∧ (portOf s' p).en = false ∧ (portOf s' p).secondLane = true ∧ (portOf s' p).laneFail = x.laneFail)
        ∧ (x.st ≠ .disabled → laneUsed x lane = true → x.spareIn = false → s.flt.arm.getLsbD 4 = false → ∃ s', exec (.laneFail p lane) s = .next s'
            ∧ Claims.PortLeft s s' p ∧ s'.evs = s.evs ∧ (portOf s' p).st = .disabled ∧ (portOf s' p).en = false ∧ (portOf s' p).laneFail = lane
            ∧ (portOf s' p).spareIn = false)
        ∧ (x.st ≠ .disabled → laneUsed x lane = true → x.spareIn = false → s.flt.arm.getLsbD 4 = true → s.flt.down1 = true → exec (.laneFail p lane) s = .next s)
        ∧ (x.st ≠ .disabled → laneUsed x lane = true → x.spareIn = false → s.flt.arm.getLsbD 4 = true → s.flt.down1 = false → ∃ s' e, exec (.laneFail p lane) s = .next s'
            ∧ (portOf s' p).st = .down ∧ (portOf s' p).en = x.en ∧ (portOf s' p).laneFail = lane ∧ (portOf s' p).spareIn = true ∧ (∀ q, q ≠ p → portOf s' q = portOf s q)
            ∧ s'.evs.getLast? = some e ∧ e.code = 0x0909 ∧ e.arg0 = BitVec.ofNat 32 (lane * 16 + p)
            ∧ (s.trust.supp.length < suppRoom → s'.trust.suppSeq = s.trust.suppSeq + 1 ∧ s'.trust.supp = s.trust.supp ++ [nextSupp s.trust 3 (p * 16 + lane)])
            ∧ (suppRoom ≤ s.trust.supp.length → s'.trust = s.trust)))

/-- R514, R517, R518, R523, Table 14.2: KEEPALIVE is answered with its count; credits return and what waited for them goes; ACKSEQ frees
the packets it covers; REPLAY sends the rest again, and a sixteenth replay of one packet takes the port down; a bad packet asks for replay once,
a copy that the neighbour ended with an inverted CRC does not, and a bad packet being forwarded goes out with an inverted CRC. -/
def Sys2Proof.Claims.LinkWordResults : Prop :=
  ∀ (s : State) (p : Nat),
    let x := portOf s p
    (x.st ≠ .up →
      (∀ n ce, exec (.keepalive p n ce) s = .next s) ∧ exec (.keepaliveSend p) s = .next s ∧ (∀ n, exec (.answer p n) s = .next s)
      ∧ (∀ c v n, exec (.credit p c v n) s = .next s) ∧ (∀ q, exec (.ackseq p q) s = .next s) ∧ (∀ q, exec (.replay p q) s = .next s)
      ∧ (∀ q b inv cut ord typ dst n, exec (.packetCrcError p q b inv cut ord typ dst n) s = .next s))
    ∧ (x.st = .up →
        (∀ n ce, ∃ s', exec (.keepalive p n ce) s = .next s' ∧ Claims.OnlyPort s s' p ∧ s'.evs = s.evs
          ∧ portOf s' p = { x with words := x.words ++ [{ kind := 2, args := [n % 65536] }], fecCe := x.fecCe + BitVec.ofNat 64 ce })
        ∧ (s.fab.rxWait = [] → ∃ s', exec (.keepaliveSend p) s = .next s' ∧ Claims.OnlyPort s s' p ∧ s'.evs = s.evs ∧ (portOf s' p).kaCount = (x.kaCount + 1) % 65536
            ∧ (portOf s' p).unacked = 0
            ∧ (portOf s' p).words = x.words ++ (if x.unacked = 0 then [] else [{ kind := 5, args := [(x.rxSeq + 65535) % 65536] }]) ++ [{ kind := 1, args := [x.kaCount] }])
        ∧ (∀ n, ∃ s', exec (.answer p n) s = .next s' ∧ Claims.OnlyPort s s' p ∧ s'.evs = s.evs ∧ portOf s' p = { x with ansCount := n % 65536 })
        ∧ (∀ c v n, ∃ s', exec (.credit p c v n) s = .next s' ∧ Claims.OnlyPort s s' p ∧ s'.evs = s.evs
            ∧ (x.txq = [] → portOf s' p = { x with credits := (portOf s' p).credits }
                ∧ Tbl.get 0 (portOf s' p).credits (c * 2 + v) = Tbl.get 0 x.credits (c * 2 + v) + n
                ∧ ∀ j, j ≠ c * 2 + v → Tbl.get 0 (portOf s' p).credits j = Tbl.get 0 x.credits j)
            ∧ (∀ k, x.txq = [k] → pktKey k = c * 2 + v → Tbl.get 0 x.credits (c * 2 + v) = 0 → 0 < n → listBytes x.replayBuf + pktBytes k ≤ 262144 →
                (portOf s' p).txq = [] ∧ (portOf s' p).replayBuf = x.replayBuf ++ [{ k with lseq := x.lseq }] ∧ (portOf s' p).lseq = (x.lseq + 1) % 65536
                ∧ Tbl.get 0 (portOf s' p).credits (c * 2 + v) = n - 1 ∧ (portOf s' p).txBytes = x.txBytes + BitVec.ofNat 64 (pktBytes k)))
        ∧ (∀ q, ∃ s', exec (.ackseq p q) s = .next s' ∧ Claims.OnlyPort s s' p ∧ s'.evs = s.evs
            ∧ (x.txq = [] → portOf s' p = { x with replayBuf := x.replayBuf.filter (fun k => !(seqCovered q k.lseq)), replays := x.replays.filter (fun r => !(seqCovered q r.1)) }))
        ∧ (∀ q,
            let again := x.replayBuf.filter (fun k => seqCovered k.lseq q)
            ∃ s', exec (.replay p q) s = .next s' ∧ (∀ r, r ≠ p → portOf s' r = portOf s r) ∧ { s' with ports := s.ports, evs := s.evs, fab := s.fab } = s
              ∧ (portOf s' p).replayC = x.replayC + BitVec.ofNat 64 again.length ∧ (portOf s' p).txBytes = x.txBytes + BitVec.ofNat 64 (listBytes again)
              ∧ (again = [] → (∀ r, r ∈ x.replays → r.2 < 16) → portOf s' p = x ∧ s'.evs = s.evs ∧ s'.fab = s.fab)
              ∧ ((∀ r, r ∈ x.replays → r.2 < 15) → (again.map (·.lseq)).Nodup → (portOf s' p).st = .up ∧ (portOf s' p).replayBuf = x.replayBuf ∧ s'.evs = s.evs ∧ s'.fab = s.fab
                  ∧ ∀ k, k ∈ again → Tbl.get 0 (portOf s' p).replays k.lseq = Tbl.get 0 x.replays k.lseq + 1)
              ∧ ((∃ k, k ∈ again ∧ Tbl.get 0 x.replays k.lseq = 15) → (again.map (·.lseq)).Nodup → (portOf s' p).st = .down ∧ (portOf s' p).replayBuf = []
                  ∧ Claims.PortLeft s s' p ∧ Claims.OneEvent s s' 0x0603 2 p (x.txq.length + x.replayBuf.length)))
        ∧ (∀ q fec cut ord typ dst n, exec (.packetCrcError p q fec true cut ord typ dst n) s = .next s)
        ∧ (∀ q fec cut ord typ dst n, ∃ s', exec (.packetCrcError p q fec false cut ord typ dst n) s = .next s' ∧ { s' with ports := s.ports } = s ∧ (portOf s' p).rxSeq = x.rxSeq
            ∧ (portOf s' p).fecUe = (if fec = true then x.fecUe + 1 else x.fecUe)
            ∧ ((x.rxBad = false ∨ q % 65536 = x.rxSeq) → (portOf s' p).rxBad = true ∧ (portOf s' p).words = x.words ++ [{ kind := 6, args := [x.rxSeq] }])
            ∧ (x.rxBad = true → q % 65536 ≠ x.rxSeq → (portOf s' p).words = x.words ∧ (portOf s' p).rxBad = true)
            ∧ (∀ r, r ≠ p → { portOf s' r with txBytes := (portOf s r).txBytes } = portOf s r)
            ∧ ∀ r, (portOf s' r).txBytes = (portOf s r).txBytes
                + (if cut = true ∧ dst ≠ s.fab.devId ∧ outPort s ord typ dst = some r then BitVec.ofNat 64 (32 + 16 * ((n + 15) / 16)) else 0)))

/-- R516, R525, R531, R532, R534, R535, R559: DEV_ID is written while every port is Disabled and no context is loaded; MODE while the traffic
is quiet; a receive window left enabled must lie within HBM or the unit-store windows, clear of sets and generations. -/
def Sys2Proof.Claims.FabricRegisterResults : Prop :=
  ∀ (s : State),
    (∀ v : W64, let may := s.ports.all (fun p => p.2.st == .disabled) && s.ctxs.isEmpty
      (may = true → exec (.devId v) s = .next { s with fab := { s.fab with devId := v.toNat % 2 ^ 20 } })
      ∧ (may = false → exec (.devId v) s = .next s))
    ∧ (∀ v : W64, ∃ s', exec (.routeCtl v) s = .next s' ∧ { s' with fab := s.fab } = s ∧ { s'.fab with mode := s.fab.mode, modeErr := s.fab.modeErr, hold := s.fab.hold } = s.fab
        ∧ s'.fab.hold = v.getLsbD 1
        ∧ (lquiet s = true → s'.fab.mode = v.getLsbD 0 ∧ (s'.fab.modeErr = true ↔ s.fab.modeErr = true ∧ v.getLsbD 2 = false))
        ∧ (lquiet s = false → s'.fab.mode = s.fab.mode ∧ (v.getLsbD 0 ≠ s.fab.mode → s'.fab.modeErr = true)))
    ∧ (∀ e path (v : W64),
        (256 ≤ e → exec (.rtRange e path v) s = .next s)
        ∧ (e < 256 → ∃ s', exec (.rtRange e path v) s = .next s' ∧ { s' with fab := s.fab } = s ∧ { s'.fab with rtRange := s.fab.rtRange, rtPath := s.fab.rtPath } = s.fab
            ∧ rangeWord s' e = (if path = true then rangeWord s e else rangeMask v) ∧ pathWord s' e = (if path = true then pathMask v else pathWord s e)
            ∧ ∀ f, f ≠ e → rangeWord s' f = rangeWord s f ∧ pathWord s' f = pathWord s f))
    ∧ (∀ w field (v : W64),
        let a := if field = 0 then winA v else Tbl.get 0 s.fab.winA w
        let z := if field = 1 then winS v else Tbl.get 0 s.fab.winS w
        let r := if field = 2 then winR v else Tbl.get 0 s.fab.winR w
        let bad := a.getLsbD 63 && !(winLegal s (fld a 47 12 * 4096) (fld z 29 0 * 4096))
        (64 ≤ w → exec (.rxWin w field v) s = .next s)
        ∧ (w < 64 → bad = true → exec (.rxWin w field v) s = .next { s with fab := { s.fab with winErr := true } })
        ∧ (w < 64 → bad = false → ∃ s', exec (.rxWin w field v) s = .next s' ∧ { s' with fab := s.fab } = s ∧ s'.fab.winErr = s.fab.winErr
            ∧ Tbl.get 0 s'.fab.winA w = a ∧ Tbl.get 0 s'.fab.winS w = z ∧ Tbl.get 0 s'.fab.winR w = r
            ∧ ∀ u, u ≠ w → Tbl.get 0 s'.fab.winA u = Tbl.get 0 s.fab.winA u ∧ Tbl.get 0 s'.fab.winS u = Tbl.get 0 s.fab.winS u ∧ Tbl.get 0 s'.fab.winR u = Tbl.get 0 s.fab.winR u))


/-! ## Packets -/

/-- R517, R527, R530: a packet that is not the next of its link is discarded; one with ORD = 1 ahead of its trunk's order is held, and comes in
with the one before it; a request whose store cannot be reached waits, and those of its source with ORD = 1 wait behind it until it is performed. -/
def Sys2Proof.Claims.PacketOrder : Prop :=
  ∀ (s : State) (l : LinkHdr) (src a tag n : Nat) (data : List Byte) (value : W64),
    let t := rxTrunk s l.port
    let e := rxExpect s t
    let flag := exec (.flagReceived l src a tag value) s
    let mine : RxPkt := { c := .flagReceived l src a tag value, hdr := l, typ := 2, n := 8, src := src, dst := s.fab.devId, key := t, ok := admitted s 61 src a 8 }
    let same (s' : State) : Prop := s'.mem = s.mem ∧ s'.poison = s.poison ∧ s'.lines = s.lines ∧ s'.res = s.res ∧ s'.evs = s.evs
    let blocked := addrWaits s a || addrWaits s (a + 7)
    (linkOk s l = true ↔ (portOf s l.port).st = .up ∧ l.lseq % 65536 = (portOf s l.port).rxSeq)
    ∧ (linkOk s l = false → flag = .next s ∧ exec (.writeReceived l src a tag data) s = .next s ∧ (∀ tr m, exec (.reshardReceived l src a tag tr m data) s = .next s)
        ∧ exec (.ackReceived l src [tag] [n]) s = .next s ∧ exec (.nackReceived l src tag n) s = .next s
        ∧ (∀ typ hops dst b, exec (.packetForward l typ hops dst src a b data) s = .next s))
    ∧ (linkOk s l = true → s.fab.rxWait = [] →
        (l.ord = true → e < 65536 → l.tseq % 65536 ≠ e → (l.tseq + 65536 - e) % 65536 < 32768 →
          ∃ s', flag = .next s' ∧ s'.fab = { s.fab with rxHold := s.fab.rxHold ++ [mine] } ∧ Claims.TookIn s s' l 2 8 false ∧ same s')
        ∧ (l.ord = false → blocked = true → ∃ s', flag = .next s' ∧ s'.fab = { s.fab with rxWait := [mine] } ∧ Claims.TookIn s s' l 2 8 false ∧ same s'))
    ∧ (Claims.Arrives s l → blocked = true →
        ∃ s', flag = .next s' ∧ s'.fab.rxWait = [mine] ∧ s'.fab.rxHold = s.fab.rxHold ∧ s'.fab.rxRefused = s.fab.rxRefused ∧ Claims.TookIn s s' l 2 8 false ∧ same s')
    ∧ (∀ r, linkOk s l = true → s.fab.rxWait = [r] → s.fab.rxHold = [] → rxBlocked s r.c = true → r.hdr.ord = true → l.ord = true → r.src = src → r.dst = s.fab.devId →
        e = l.tseq % 65536 → ∃ s', flag = .next s' ∧ s'.fab.rxWait = [r, mine] ∧ Claims.TookIn s s' l 2 8 false ∧ same s')
    ∧ (∀ r q, s.fab.rxWait = [r] → rxBlocked s r.c = false → r.c = .flagReceived r.hdr src a tag value → r.ok = true → isUp s q = true → targetPoison s a 8 = false →
        Claims.LinesWf s → (a + 8 ≤ hbmEnd ∨ (usWin ≤ a ∧ a + 8 ≤ usWinEnd)) →
        ∃ s', exec (.keepaliveSend q) s = .next s' ∧ s'.fab.rxWait = [] ∧ ∀ i, i < 8 → viewByte s' (a + i) = (leBytes 8 value.toNat).getD i 0)
    ∧ (∀ r, linkOk s l = true → s.fab.rxWait = [] → s.fab.rxHold = [r] → r.key = t → l.ord = true → e = l.tseq % 65536 → r.hdr.tseq % 65536 = (e + 1) % 65536 →
        r.hdr.ord = true → rxBlocked s r.c = true → rxBlocked s (.flagReceived l src a tag value) = true →
        ∃ s', flag = .next s' ∧ s'.fab.rxHold = [] ∧ s'.fab.rxWait = [mine, r] ∧ rxExpect s' t = (e + 2) % 65536 ∧ same s')

/-- R464, R499, R533 to R536, Table 14.5: a WRITE or FLAG that no window admits is refused with NACK 1, one onto poison with NACK 2, each counted
and writing nothing; an admitted one is performed whole and acknowledged; a re-shard write is performed for an open set only, and its tag counts it. -/
def Sys2Proof.Claims.RequestsReceived : Prop :=
  ∀ (s : State) (l : LinkHdr) (src a tag : Nat) (data : List Byte) (value : W64), Claims.Arrives s l →
    let w := exec (.writeReceived l src a tag data) s
    let f := exec (.flagReceived l src a tag value) s
    let refusal (s1 : State) (typ n : Nat) : Prop := Claims.TookIn s s1 l typ n true ∧ { s1 with ports := s.ports, fab := s.fab } = s
      ∧ Claims.SameFab { s.fab with rxRefused := s.fab.rxRefused + 1 } s1.fab
    let done (s1 : State) (typ : Nat) (bs : List Byte) : Prop := Claims.TookIn s s1 l typ bs.length true ∧ Claims.SameFab s.fab s1.fab ∧ s1.evs = s.evs ∧ s1.res = s.res
      ∧ (∀ i, i < bs.length → viewByte s1 (a + i) = bs.getD i 0)
      ∧ ∀ b, (b < a ∨ a + bs.length ≤ b) → Claims.Coherent s b → viewByte s1 b = viewByte s b
    let inPlace (n : Nat) : Prop := Claims.LinesWf s ∧ (a + n ≤ hbmEnd ∨ (usWin ≤ a ∧ a + n ≤ usWinEnd))
    let n := data.length
    ((addrWaits s a || addrWaits s (a + 7)) = false →
        ((∀ i, i < 64 → winAdmits s 61 src i = false) → ∃ s1, f = .next (originate s1 (nackPkt src tag 1)) ∧ refusal s1 2 8)
        ∧ (∀ i, i < 64 → winAdmits s 61 src i = true → (winRange s i).1 ≤ a → a + 8 ≤ (winRange s i).1 + (winRange s i).2 → windowGuard s a 8 = true →
            (targetPoison s a 8 = true → ∃ s1, f = .next (originate s1 (nackPkt src tag 2)) ∧ refusal s1 2 8)
            ∧ (targetPoison s a 8 = false → inPlace 8 →
                ∃ s1, exec (.flagReceived l src a tag value) s = .next (originate s1 (ackPkt src tag 8)) ∧ done s1 2 (leBytes 8 value.toNat))))
    ∧ ((addrWaits s a || addrWaits s (a + n - 1)) = false →
        ((∀ i, i < 64 → winAdmits s 62 src i = false) → data ≠ [] → admitted s 62 src a n = false)
        ∧ (∀ i, i < 64 → winAdmits s 62 src i = true → (winRange s i).1 ≤ a → a + n ≤ (winRange s i).1 + (winRange s i).2 → windowGuard s a n = true → admitted s 62 src a n = true)
        ∧ (admitted s 62 src a n = false → ∃ s1, w = .next (originate s1 (nackPkt src tag 1)) ∧ refusal s1 1 n)
        ∧ (admitted s 62 src a n = true → targetPoison s a n = true → ∃ s1, w = .next (originate s1 (nackPkt src tag 2)) ∧ refusal s1 1 n)
        ∧ (admitted s 62 src a n = true → targetPoison s a n = false → inPlace n →
            ∃ s1, exec (.writeReceived l src a tag data) s = .next (originate s1 (ackPkt src tag n)) ∧ done s1 1 data))
    ∧ ∀ trans len,
        let r := exec (.reshardReceived l src a tag trans len data) s
        let nacked : Prop := ∃ s1, r = .next (originate s1 (nackPkt src tag 3)) ∧ Claims.TookIn s s1 l 3 n true ∧ Claims.SameFab s.fab s1.fab ∧ { s1 with ports := s.ports, fab := s.fab } = s
        (addrWaits s a = false → setHolding s (a, n) = none → nacked)
        ∧ (∀ v, addrWaits s a = false → setHolding s (a, n) = some v → openTo s src v = false → nacked)
        ∧ (∀ v pt t, setHolding s (a, n) = some v → openTo s src v = true → addrWaits s a = false →
            s.turns.find? (fun q => (q.2.st == .emitting || q.2.st == .gathering) && q.2.tgtSet == v) = some (pt, t) → turnOf s pt = t →
            ∃ s1, exec (.reshardReceived l src a tag trans len data) s = .next (originate s1 (ackPkt src tag n)) ∧ Claims.TookIn s s1 l 3 n true ∧ Claims.SameFab s.fab s1.fab
              ∧ s1.evs = s.evs ∧ (tagWhole t.tags tag = true → s1.mem = s.mem ∧ turnOf s1 pt = t)
              ∧ (tagWhole t.tags tag = false → rawPoison s a n = false → a + n ≤ hbmEnd → Claims.Stored s s1 a data
                  ∧ turnOf s1 pt = { t with tags := tagGot t.tags tag trans len n, rxBytes := t.rxBytes + BitVec.ofNat 64 n }))

/-- R373, R374, R463, R464, R500, R536: an acknowledgement takes its bytes off the tag's count and moves the entry, the plan's turn or the
set-send it belongs to; the last one ends a set-send; a refusal fails the mover entry with the bytes acknowledged, or holds the turn. -/
def Sys2Proof.Claims.AcknowledgementsReceived : Prop :=
  ∀ (s : State) (l : LinkHdr) (src tag n reason : Nat),
    let o := exec (.ackReceived l src [tag] [n]) s
    let r := exec (.nackReceived l src tag reason) s
    (linkOk s l = false → o = .next s ∧ r = .next s)
    ∧ (linkOk s l = true → 4096 ≤ tag →
        (tagEntry s src tag = none → ∃ s', o = .next s' ∧ { s' with ports := s.ports, fab := s.fab } = s
          ∧ Tbl.get 0 s'.fab.unacked tag = Tbl.get 0 s.fab.unacked tag - n ∧ ∀ z, z ≠ tag → Tbl.get 0 s'.fab.unacked z = Tbl.get 0 s.fab.unacked z)
        ∧ (∀ t q e k, tagEntry s src tag = some (t, q, e) → hartCore s t = some k → ∃ s' k', exec (.ackReceived l src [tag] [n]) s = .next s' ∧ hartCore s' t = some k'
            ∧ Claims.MvChanged k k' q e.ent.seq (ackEntry n) ∧ Tbl.get 0 s'.fab.unacked tag = Tbl.get 0 s.fab.unacked tag - n ∧ s'.mem = s.mem))
    ∧ (linkOk s l = true → tag < 4096 →
        (s.sends = [] → ∃ s', o = .next s' ∧ s'.sends = [] ∧ s'.evs = s.evs ∧ s'.mem = s.mem
          ∧ Tbl.get 0 s'.fab.unacked (reshardKey src tag) = Tbl.get 0 s.fab.unacked (reshardKey src tag) - n
          ∧ ∀ pt, let t := turnOf s pt
              turnOf s' pt = if t.plan.any (ackMatches src tag) = true then { t with plan := t.plan.map (ackEnt src tag n), txAck := t.txAck + BitVec.ofNat 64 n } else t)
        ∧ (∀ x, s.sends = [x] →
            let y := x.plan.map (ackEnt src tag n)
            (unackedEnts y ≠ [] → ∃ s', o = .next s' ∧ s'.sends = [{ x with plan := y }] ∧ s'.evs = s.evs ∧ s'.host = s.host)
            ∧ (unackedEnts y = [] → ∃ s', o = .next s' ∧ s'.sends = [] ∧ Claims.OneEvent s s' 0x0407 0 x.set 0 ∧ Claims.JobEnds s s' x.job 0 0 0)))
    ∧ (linkOk s l = true →
        (∀ pt, reason = 3 → planOwner s src tag = some (.turn pt) → ∃ s', r = .next s' ∧ turnOf s' pt = { turnOf s pt with st := .held, cause := 3, armEmit := false }
          ∧ Claims.OneEvent s s' 0x0404 0 (3 * 2 ^ 16 + 4 * 2 ^ 8 + pt) 0 ∧ s'.sends = s.sends ∧ s'.mem = s.mem)
        ∧ (reason = 3 → (∀ pt, planOwner s src tag ≠ some (.turn pt)) → ∃ s', r = .next s' ∧ { s' with ports := s.ports } = s)
        ∧ (reason ≠ 3 → tagEntry s src tag = none → ∃ s', r = .next s' ∧ { s' with ports := s.ports } = s)
        ∧ (∀ t q e k, reason ≠ 3 → q < 8 → tagEntry s src tag = some (t, q, e) → hartCore s t = some k → (e.kind = .remote ∨ e.kind = .flag) →
            (e.cancel = true → ∃ s', r = .next s' ∧ hartCore s' t = some k ∧ tagOf s' tag = none ∧ Tbl.get 0 s'.fab.unacked tag = 0)
            ∧ (e.cancel = false → ∃ s', exec (.nackReceived l src tag reason) s = .next s' ∧ Claims.MvEnds s' t k q e.ent e.flags (statusWord 1 e.acked) ∧ s'.mem = s.mem
                ∧ tagOf s' tag = none ∧ Tbl.get 0 s'.fab.unacked tag = 0)))

/-- R521, R523, R526 to R529, R531, R533, R646: a packet for another device takes the route of its range with HOPS one higher: over its trunk in
trunk sequence with ORD = 1, by the least queued port without; one with no route, beyond the hop budget or of a reserved type is dropped and counted.
Where the spec leaves a point open it holds of the model's choices (log entries 56, 57, 106). -/
def Obligations.RoutingResults : Prop :=
  ∀ (s : State) (k : Pkt) (l : LinkHdr),
    let o := exec (.packetForward l k.typ k.hops k.dst k.src k.a k.b k.data) s
    let leaves (s' : State) (q : Nat) (m : Pkt) : Prop := ∃ z, z ∈ (portOf s' q).txq ++ (portOf s' q).replayBuf ∧ { z with lseq := 0 } = { m with lseq := 0 }
    let vc (e : Nat) (v : Bool) : Bool := if bit (rangeWord s e) 62 then true else v
    (linkOk s l = false → o = .next s)
    ∧ (Claims.Arrives s l → (k.typ = 0 ∨ 6 < k.typ) → ∃ s', o = .next s' ∧ Claims.SameFab { s.fab with rtMiss := s.fab.rtMiss + 1 } s'.fab
        ∧ Claims.TookIn s s' l k.typ k.data.length true ∧ { s' with ports := s.ports, fab := s.fab } = s)
    ∧ (1 ≤ k.typ → k.typ ≤ 6 → k.dst = s.fab.devId → o = .next s)
    ∧ (Claims.Arrives s l → k.ord = l.ord → k.vc1 = l.vc1 → 1 ≤ k.typ → k.typ ≤ 6 → k.dst ≠ s.fab.devId →
        (routeOf s k.dst = none → ∃ s', o = .next s' ∧ s'.fab.rtMiss = s.fab.rtMiss + 1 ∧ s'.fab.hopDrop = s.fab.hopDrop ∧ s'.mem = s.mem
          ∧ (msPassed s s.fab.missAt = true → Claims.OneEvent s s' 0x0604 1 0 k.dst ∧ s'.fab.missAt = some s.time.now)
          ∧ (msPassed s s.fab.missAt = false → s'.evs = s.evs))
        ∧ (∀ e, routeOf s k.dst = some e →
            let t := fld (pathWord s e) 63 60
            let m : Pkt := { k with hops := k.hops + 1, vc1 := vc e k.vc1, tseq := 0 }
            (s.fab.hopBudget < k.hops + 1 → ∃ s', o = .next s' ∧ s'.fab.hopDrop = s.fab.hopDrop + 1 ∧ s'.fab.rtMiss = s.fab.rtMiss ∧ s'.mem = s.mem
              ∧ (msPassed s s.fab.hopAt = true → Claims.OneEvent s s' 0x0606 1 0 (k.dst * 2 ^ 20 + k.src) ∧ s'.fab.hopAt = some s.time.now)
              ∧ (msPassed s s.fab.hopAt = false → s'.evs = s.evs))
            ∧ (k.hops + 1 ≤ s.fab.hopBudget → k.ord = true →
                (∀ q, t ≠ 15 → trunkPort s t { m with tseq := 0, lseq := 0 } = some q → ∃ s', exec (.packetForward l k.typ k.hops k.dst k.src k.a k.b k.data) s = .next s' ∧ leaves s' q { m with tseq := Tbl.get 0 s.fab.trunkSeq t }
                  ∧ Tbl.get 0 s'.fab.trunkSeq t = (Tbl.get 0 s.fab.trunkSeq t + 1) % 65536 ∧ s'.fab.rtMiss = s.fab.rtMiss ∧ s'.mem = s.mem ∧ s'.evs = s.evs)
                ∧ ((t = 15 ∨ (trunkPorts s t).all (fun q => !(isUp s q)) = true) → ∃ s', o = .next s' ∧ Claims.SameFab { s.fab with rtMiss := s.fab.rtMiss + 1 } s'.fab
                    ∧ { s' with ports := s.ports, fab := s.fab } = s))
            ∧ (k.hops + 1 ≤ s.fab.hopBudget → k.ord = false →
                (∀ q, leastQueued s (pathPorts s e) = some q → ∃ s', exec (.packetForward l k.typ k.hops k.dst k.src k.a k.b k.data) s = .next s' ∧ leaves s' q m ∧ s'.fab = s.fab ∧ { s' with ports := s.ports } = s)
                ∧ (leastQueued s (pathPorts s e) = none → ∃ s', o = .next s' ∧ s'.fab.rtMiss = s.fab.rtMiss + 1 ∧ s'.mem = s.mem))))
    ∧ (∀ e q, routeOf s k.dst = some e →
        let m : Pkt := { k with src := s.fab.devId, hops := 0, vc1 := vc e false, ord := typClass k.typ == 0 && !s.fab.mode, tseq := 0 }
        (m.ord = false → leastQueued s (pathPorts s e) = some q → leaves (originate s k) q m ∧ { originate s k with ports := s.ports } = s))


/-! ## Turns, set-sends, droves -/

/-- R459 to R461, R464, R564, Tables 12.6 to 12.8: an arm that passes its checks opens the target under its epoch with the plan copied, one that
fails is refused with its event, one that has a plan to read waits for host memory; an abort drops the plan; a resend starts what is
unacknowledged again; a complete Gathering makes the target Complete and, armed so, switches the slot; a tag's bytes count for its newest
transmission. -/
def Sys2Proof.Claims.TurnResults : Prop :=
  ∀ (s : State) (pt : Nat),
    let t := turnOf s pt
    let turnEv (s' : State) (cause st : Nat) : Prop := ∃ e, e ∈ s'.evs ∧ e.code = 0x0404 ∧ e.cls = 0 ∧ e.arg0 = BitVec.ofNat 32 (cause * 2 ^ 16 + st * 2 ^ 8 + pt)
    (∀ v : W64, 64 ≤ pt → exec (.turnArm pt v) s = .next s)
    ∧ (∀ v : W64, pt < 64 → v.getLsbD 4 = false → v.getLsbD 5 = false →
        ((v.getLsbD 0 = false ∨ (t.st ≠ .idle ∧ t.st ≠ .done)) → ∃ s', exec (.turnArm pt v) s = .next s' ∧ { s' with turns := s.turns } = s
          ∧ turnOf s' pt = { t with armSend := v.getLsbD 1, armSwitch := v.getLsbD 2 } ∧ ∀ q, q ≠ pt → turnOf s' q = turnOf s q)
        ∧ (v.getLsbD 0 = true → (t.st = .idle ∨ t.st = .done) →
            (t.planN ≠ 0 → s.host.cacheEn = false → ∃ s', exec (.turnArm pt v) s = .next s' ∧ { s' with turns := s.turns } = s
                ∧ turnOf s' pt = { t with armSend := v.getLsbD 1, armSwitch := v.getLsbD 2, armPend := true } ∧ ∀ q, q ≠ pt → turnOf s' q = turnOf s q)
            ∧ ((t.planN = 0 ∨ s.host.cacheEn = true) →
                (∀ c, armCheck s pt = some c → ∃ s', exec (.turnArm pt v) s = .next s' ∧ Claims.OneEvent s s' 0x0405 1 pt c
                  ∧ turnOf s' pt = { t with armSend := v.getLsbD 1, armSwitch := v.getLsbD 2, armErr := true, armEmit := false } ∧ s'.sets = s.sets)
                ∧ (∀ l, armCheck s pt = none → readPlan s t = some l → ∃ s', exec (.turnArm pt v) s = .next s'
                    ∧ (setOf s' t.tgtSet).st = .filling ∧ (setOf s' t.tgtSet).epoch = t.tgtEpoch ∧ (turnOf s' pt).plan = l ∧ (turnOf s' pt).armErr = false
                    ∧ (turnOf s' pt).armSend = v.getLsbD 1 ∧ (turnOf s' pt).armSwitch = v.getLsbD 2 ∧ (turnOf s' pt).emitDone = 0 ∧ (turnOf s' pt).txAck = 0
                    ∧ (turnOf s' pt).rxBytes = 0 ∧ (turnOf s' pt).tags = [] ∧ turnEv s' 0 1
                    ∧ (t.emitExp ≠ 0 → (turnOf s' pt).st = .emitting ∧ (turnOf s' pt).armEmit = true)
                    ∧ (t.emitExp = 0 → emitRunning s pt = false → (turnOf s' pt).st = .gathering ∧ (turnOf s' pt).armEmit = false ∧ turnEv s' 0 2)
                    ∧ s'.mem = s.mem ∧ ∀ q, q ≠ pt → turnOf s' q = turnOf s q))))
    ∧ (t.st = .idle → ∃ s', exec (.turnAbort pt) s = .next s' ∧ { s' with turns := s.turns } = s ∧ turnOf s' pt = { t with armPend := false }
        ∧ ∀ q, q ≠ pt → turnOf s' q = turnOf s q)
    ∧ (t.st ≠ .idle → ∃ s', exec (.turnAbort pt) s = .next s' ∧ turnOf s' pt = { t with st := .idle, cause := 0, armEmit := false, armPend := false, plan := [] } ∧ s'.sets = s.sets
        ∧ Claims.OneEvent s s' 0x0404 0 pt 0 ∧ s'.mem = s.mem ∧ ∀ q, q ≠ pt → turnOf s' q = turnOf s q)
    ∧ ((t.st ≠ .held ∨ (t.cause ≠ 2 ∧ t.cause ≠ 3)) → exec (.turnResend pt) s = .next s)
    ∧ (t.st = .held → (t.cause = 2 ∨ t.cause = 3) → ∃ s', exec (.turnResend pt) s = .next s' ∧ (turnOf s' pt).st = .gathering ∧ (turnOf s' pt).cause = 0
        ∧ (turnOf s' pt).plan = t.plan.map (fun e => if e.acked < e.len then { e with sent := 0, acked := 0, running := false, stuck := false, trans := e.trans + 1 } else e)
        ∧ Claims.OneEvent s s' 0x0404 0 (2 * 2 ^ 8 + pt) 0 ∧ s'.sets = s.sets ∧ s'.mem = s.mem)
    ∧ (let whole := (!t.armSend || (unackedEnts t.plan).isEmpty) && wholeTags t == t.rxExp
       ((t.st ≠ .gathering ∨ whole = false) → exec (.turnDone pt) s = .next s)
       ∧ (t.st = .gathering → whole = true → ∃ s', exec (.turnDone pt) s = .next s' ∧ (turnOf s' pt).st = .done ∧ turnEv s' 0 3
           ∧ (t.armSwitch = false → (setOf s' t.tgtSet).st = .complete ∧ s'.slots = s.slots)
           ∧ (t.armSwitch = true → setFailed (setOf s t.tgtSet) = true → (setOf s' t.tgtSet).st = .complete ∧ s'.slots = s.slots
               ∧ ∃ e, s'.evs.getLast? = some e ∧ e.code = 0x0406 ∧ e.arg0 = BitVec.ofNat 32 (t.tgtSlot * 2 ^ 8 + pt))
           ∧ (t.armSwitch = true → setFailed (setOf s t.tgtSet) = false → (∀ q, q ∈ s.slots → q.2 = t.tgtSet → q.1 = t.tgtSlot) → liveIn s t.tgtSlot = none →
               (setOf s' t.tgtSet).st = .live ∧ (setOf s' t.tgtSet).slot = some t.tgtSlot ∧ liveIn s' t.tgtSlot = some t.tgtSet)))
    ∧ (∀ (l : List (Nat × TagRx)) (tag trans len n : Nat),
        let fresh : TagRx := { trans := trans % 16, bytes := n, len := len, whole := decide (len ≤ n) }
        (Tbl.find? l tag = none → Tbl.find? (tagGot l tag trans len n) tag = some fresh)
        ∧ (∀ o, Tbl.find? l tag = some o → o.whole = true → tagGot l tag trans len n = l)
        ∧ (∀ o, Tbl.find? l tag = some o → o.whole = false → o.trans = trans % 16 →
            Tbl.find? (tagGot l tag trans len n) tag = some { o with bytes := o.bytes + n, whole := decide (len ≤ o.bytes + n) })
        ∧ (∀ o, Tbl.find? l tag = some o → o.whole = false → o.trans ≠ trans % 16 →
            (trans + 16 - o.trans % 16) % 16 < 8 → Tbl.find? (tagGot l tag trans len n) tag = some fresh)
        ∧ (∀ o, Tbl.find? l tag = some o → o.whole = false → o.trans ≠ trans % 16 → 8 ≤ (trans + 16 - o.trans % 16) % 16 → tagGot l tag trans len n = l))

/-- R463, R464, R500, Table 12.9: a stack's engine sends its plan entries in order, a packet at a time; an entry whose fields or ranges are not
allowed, or that is not acknowledged in time, holds the turn or stops the set-send with its event. -/
def Sys2Proof.Claims.PlanResults : Prop :=
  ∀ (s : State),
    (∀ st, let o := exec (.planEntrySend st) s
      ((stackServes (seOf s st) = false ∨ nextEnt s st = none) → o = .next s)
      ∧ (∀ r i e, stackServes (seOf s st) = true → nextEnt s st = some (r, i, e) →
          let ok := e.running || planEntOk s (planSet s r) e
          let n := min (8192 - (e.dst + e.sent) % 8192) (e.len - e.sent)
          (∀ pt, ok = false → r = .turn pt → ∃ s', o = .next s' ∧ (turnOf s' pt).st = .held ∧ (turnOf s' pt).cause = 3 ∧ s'.mem = s.mem ∧ s'.sends = s.sends)
          ∧ (∀ k x, ok = false → r = .send k → s.sends[k]? = some x → ∃ s', o = .next s' ∧ s'.sends = s.sends.eraseIdx k ∧ Claims.JobEnds s s' x.job 2 0 0)
          ∧ (ok = true → rawPoison s (e.src + e.sent) n = true → ∃ s', o = .next s' ∧ planOf s' r = (planOf s r).set i { e with running := true, stuck := true }
              ∧ s'.ports = s.ports ∧ s'.fab = s.fab ∧ s'.mem = s.mem)
          ∧ (ok = true → rawPoison s (e.src + e.sent) n = false → ∃ s1,
              exec (.planEntrySend st) s = .next (originate s1 {
                typ := 3, dst := e.dev, a := e.dst + e.sent, b := BitVec.ofNat 64 (e.tag * 2 ^ 52 + e.trans % 16 * 2 ^ 48 + e.len),
                data := memBytes s (e.src + e.sent) n })
              ∧ planOf s1 r = (planOf s r).set i { e with running := true, sent := e.sent + n } ∧ s1.ports = s.ports ∧ s1.mem = s.mem
              ∧ Tbl.get 0 s1.fab.unacked (reshardKey e.dev e.tag) = Tbl.get 0 s.fab.unacked (reshardKey e.dev e.tag) + n)))
    ∧ (∀ job tag, let o := exec (.planAckTimeout job tag) s
        let late (e : PlanEnt) : Bool := e.tag == tag && e.running && decide (e.acked < e.len)
        (job < 64 → ((turnOf s job).st ≠ .gathering ∨ (turnOf s job).plan.any late = false) → o = .next s)
        ∧ (job < 64 → (turnOf s job).st = .gathering → (turnOf s job).plan.any late = true → ∃ s', exec (.planAckTimeout job tag) s = .next s'
            ∧ turnOf s' job = { turnOf s job with st := .held, cause := 2, armEmit := false } ∧ Claims.OneEvent s s' 0x0404 0 (2 * 2 ^ 16 + 4 * 2 ^ 8 + job) 0 ∧ s'.sets = s.sets)
        ∧ (64 ≤ job → (∀ x, x ∈ s.sends → x.set + 64 ≠ job ∨ x.plan.any late = false) → o = .next s)
        ∧ (∀ x, 64 ≤ job → s.sends = [x] → x.set + 64 = job → x.plan.any late = true → ∃ s' e, o = .next s' ∧ s'.sends = [] ∧ Claims.JobEnds s s' x.job 2 0 0
            ∧ s'.evs = s.evs ++ [e] ∧ e.code = 0x0408 ∧ e.cls = 2 ∧ e.arg0 = BitVec.ofNat 32 ((unackedEnts x.plan).length * 2 ^ 20 + x.set)))
    ∧ (∀ h, Claims.HostCur s 0x16 h →
        let v := hf h 2 7 0
        let l := planEnts (hf h 2 44 32) h.block
        let may := (setOf s v).st == .complete || (setOf s v).st == .live || (setOf s v).st == .draining
        (may = false → Claims.HostRejects s (exec .setSend s) h 1)
        ∧ (may = true → 1 ≤ hf h 2 44 32 → (∀ x, x ∈ s.sends → unackedEnts x.plan ≠ []) → ∃ s', exec .setSend s = .next s' ∧ s'.host.cur = none
            ∧ s'.host.rings = s.host.rings ∧ s'.sends = s.sends ++ [{ set := v, plan := l, job := h.job }] ∧ s'.sets = s.sets ∧ s'.evs = s.evs))

/-- R465 to R472, R475, R476, R478, Tables 12.11 to 12.14: an open that passes its checks leaves an empty channel; a close ends it at once when forced
or empty, and else when transit has drained, and every close accepted by then completes; a send's entries enter transit as credit and space allow,
and wait else, each wait with one event and the time counted; each delivered entry stands in its ring slot.
Where the spec leaves a point open it holds of the model's choices (log entries 51, 52, 104). -/
def Obligations.DroveResults : Prop :=
  (∀ (s : State) (h : HostCmd), Claims.HostCur s 0x20 h →
      let d := blockWords h
      let c := wf d 0 63 58
      let y := drvOf s c
      let x := drvOfBlock ((ctxOf s (wf d 1 51 40)).getD {}) d
      (wf d 0 57 57 = 1 → (∀ k, firstFail (drvOpenChecks s d) = some k → Claims.HostRejects s (exec .drove s) h k)
        ∧ (firstFail (drvOpenChecks s d) = none → ∃ s', exec .drove s = .next s' ∧ Claims.HostEnds s s' h 0 0 0 ∧ drvOf s' c = x
            ∧ (∀ e, e ≠ c → drvOf s' e = drvOf s e)
            ∧ ∀ r u, h.job.nores = true → ctxOf s x.rctx = some r → u ∈ x.rcvUnits → u < 256 → x.ctlOff % 32 = 0 → shareOff r + x.ctlOff + 16 ≤ 0x800000 →
                rawPoison s (shareAddr r u x.ctlOff) 16 = false → memBytes s' (shareAddr r u x.ctlOff) 16 = zeros 16))
      ∧ (wf d 0 57 57 = 0 → y.st = .closed → ∃ s', exec .drove s = .next s' ∧ Claims.HostEnds s s' h 0 0 0 ∧ s'.drv = s.drv)
      ∧ (wf d 0 57 57 = 0 → y.st ≠ .closed → (wf d 0 56 56 = 1 ∨ y.transit = []) → ∃ s', exec .drove s = .next s' ∧ s'.host.cur = none
          ∧ (drvOf s' c).st = .closed ∧ (drvOf s' c).transit = [] ∧ (drvOf s' c).waits = [] ∧ (drvOf s' c).jobs = [] ∧ (∀ e, e ≠ c → drvOf s' e = drvOf s e)
          ∧ (y.jobs = [] → Claims.HostEnds s s' h 0 0 0) ∧ ∀ j, y.jobs = [j] → j.ring ≠ h.job.ring → Claims.JobEnds s s' j 0 0 0 ∧ Claims.HostEnds s s' h 0 0 0)
      ∧ (wf d 0 57 57 = 0 → y.st ≠ .closed → wf d 0 56 56 = 0 → y.transit ≠ [] → ∃ s', exec .drove s = .next s' ∧ s'.host.cur = none ∧ s'.host.rings = s.host.rings
          ∧ drvOf s' c = { y with st := .closing, jobs := y.jobs ++ [h.job] } ∧ s'.mem = s.mem))
  ∧ (∀ (s : State) (c : Nat), let x := drvOf s c
      ((x.st ≠ .closing ∨ x.transit ≠ []) → exec (.droveCloseDrained c) s = .next s)
      ∧ (x.st = .closing → x.transit = [] → ∃ s', exec (.droveCloseDrained c) s = .next s' ∧ (drvOf s' c).st = .closed ∧ (drvOf s' c).jobs = []
          ∧ (∀ j, x.jobs = [j] → Claims.JobEnds s s' j 0 0 0) ∧ ∀ i j, x.jobs = [i, j] → i.ring ≠ j.ring → Claims.JobEnds s s' i 0 0 0 ∧ Claims.JobEnds s s' j 0 0 0)
      ∧ (let gone := (x.st = .opened ∨ x.st = .closing) ∧ (ctxGone s x.sctx || ctxGone s x.rctx) = true
         (¬ gone → exec (.droveBreak c) s = .next s)
         ∧ (gone → ∃ s' e, exec (.droveBreak c) s = .next s' ∧ (drvOf s' c).transit = [] ∧ e ∈ s'.evs ∧ e.code = 0x0411 ∧ e.arg0 = BitVec.ofNat 32 c
             ∧ (x.st = .opened → (drvOf s' c).st = .broken) ∧ (x.st = .closing → (drvOf s' c).st = .closed)))
      ∧ ((x.st ≠ .opened ∨ ∀ z, z ∈ x.waits → z.stalled = true) → exec (.droveStall c) s = .next s)
      ∧ (∀ before z after, x.st = .opened → x.waits = before ++ z :: after → (∀ y, y ∈ before → y.stalled = true) → z.stalled = false →
          ∃ s', exec (.droveStall c) s = .next s' ∧ drvOf s' c = { x with waits := before ++ { z with stalled := true } :: after }
          ∧ Claims.OneEvent s s' 0x0410 1 (x.sctx * 2 ^ 20 + c) 0 ∧ { s' with drv := s.drv, evs := s.evs } = s))
  ∧ (∀ (s : State) (c rcv : Nat) (r : Ctx), let x := drvOf s c
      let u := x.rcvUnits.getD rcv 0
      let a := shareAddr r u (x.ctlOff + 8)
      let w := drvW x
      let v := leNat (memBytes s a 8)
      let y := rcvOf x rcv
      let bad := 2 ^ w ≤ v ∨ 2 ^ (w - 1) ≤ subMod w v y.release ∨ 2 ^ (w - 1) ≤ subMod w y.fill v
      let o := exec (.droveRelease c rcv) s
      ((x.st = .closed ∨ x.rcvUnits.length ≤ rcv) → o = .next s)
      ∧ (x.st ≠ .closed → rcv < x.rcvUnits.length → ctxOf s x.rctx = some r → r.faulted = false →
          (rawPoison s a 8 = true → ∃ s' r', o = .next s' ∧ ctxOf s' x.rctx = some r' ∧ r'.faulted = true ∧ r'.fkind = fPoison ∧ s'.drv = s.drv)
          ∧ (rawPoison s a 8 = false → bad → ∃ s' r', o = .next s' ∧ ctxOf s' x.rctx = some r' ∧ r'.faulted = true ∧ r'.fkind = fQueue ∧ s'.drv = s.drv)
          ∧ (rawPoison s a 8 = false → ¬ bad → ∃ s', exec (.droveRelease c rcv) s = .next s' ∧ { s' with drv := s.drv } = s
              ∧ drvOf s' c = { x with rcv := Tbl.put x.rcv rcv { y with release := v } } ∧ ∀ e, e ≠ c → drvOf s' e = drvOf s e)))
  ∧ (∀ (s : State) (c : Nat) (z : DrvEnt) (l : List DrvEnt) (r : Ctx), let x := drvOf s c
      let u := x.rcvUnits.getD z.rcv 0
      let a := shareAddr r u (x.ringOff + z.l % drvSlots x * drvE x)
      let y := rcvOf x z.rcv
      let o := exec (.droveEntryDeliver c) s
      ((x.st ≠ .opened ∧ x.st ≠ .closing) → o = .next s) ∧ (x.transit = [] → o = .next s)
      ∧ ((x.st = .opened ∨ x.st = .closing) → x.transit = z :: l → ctxOf s x.rctx = some r → rawPoison s a z.bytes.length = false →
          rawPoison s (shareAddr r u x.ctlOff) 8 = false → isUs a = true → isUs (shareAddr r u x.ctlOff + 7) = true → isUs (a + z.bytes.length) = true →
          (a + z.bytes.length ≤ shareAddr r u x.ctlOff ∨ shareAddr r u x.ctlOff + 8 ≤ a) →
          ∃ s', exec (.droveEntryDeliver c) s = .next s' ∧ (drvOf s' c).transit = l ∧ (drvOf s' c).delivered = x.delivered + 1 ∧ memBytes s' a z.bytes.length = z.bytes
            ∧ (y.ahead = [] → z.l = y.fill → (rcvOf (drvOf s' c) z.rcv).fill = (y.fill + 1) % 2 ^ drvW x ∧ (rcvOf (drvOf s' c) z.rcv).ahead = []
                ∧ (drvW x ≠ 0 → memBytes s' (shareAddr r u x.ctlOff) 8 = leBytes 8 ((y.fill + 1) % 2 ^ drvW x)))
            ∧ (y.ahead = [] → z.l ≠ y.fill → (rcvOf (drvOf s' c) z.rcv).fill = y.fill ∧ (rcvOf (drvOf s' c) z.rcv).ahead = [z.l])))
  ∧ (∀ (s : State) (h q : Nat) (t : Hart) (k : Core) (x : Ctx) (e : QEnt) (c : Nat), Claims.Begins s h q t k x e → issueEnt (mqOf k q) = none →
      isSend s t e = true → isPush t x e = false → droveOf s (hartCtx s t) (cap e (iQB e.w)) = some c →
      let y := drvOf s c
      let a := (cap e (iQA e.w)).toNat
      let n := (cap e (iQC e.w)).toNat
      let bad := regionOf (hartUnit s t) ≠ y.sreg ∨ n = 0 ∨ n % drvE y ≠ 0 ∨ a % 16 ≠ 0 ∨ 2 ^ 32 ≤ n
      let o := exec (.droveSend h q) s
      (bad → o = .next (faultEnt s t fQueue e))
      ∧ (¬ bad → shareSize x < a + n → o = .next (faultEnt s t fExtent e))
      ∧ (¬ bad → a + n ≤ shareSize x → Claims.MvSets s o t k q e.seq (fun m => { m with
          kind := .droveSend, sp := .share, src := a, rowBytes := drvE y, rows := n / drvE y, total := n, elem := c, row := 0, off := 0 })))
  ∧ (∀ (s : State) (h q : Nat) (t : Hart) (k : Core) (x : Ctx) (e : MvEnt), Claims.At s h t k x → issues s t = true → issueEnt (mqOf k q) = some e →
      e.kind = .droveSend → (mqOf k q).cancel = none → (drvOf s e.elem).st = .opened →
      let y := drvOf s e.elem
      let a := localAddr s t x (e.src + e.row * e.rowBytes)
      let bs := memBytes s a e.rowBytes
      let p := drvPlace y (leNat (bs.take 4))
      let mine (z : DrvWait) : Bool := z.unit == hartUnit s t && z.q == q && z.seq == e.ent.seq
      let others := y.waits.filter (fun z => !(mine z))
      let o := exec (.droveSend h q) s
      (rawPoison s a e.rowBytes = true → o = .next (faultEnt s t fPoison e.ent))
      ∧ (rawPoison s a e.rowBytes = false → (entryOk y.k bs = false ∨ leaveOf y p.1 p.2 = .bad) → ∃ s' x', o = .next s' ∧ ctxOf s' (hartCtx s t) = some x'
          ∧ x'.faulted = true ∧ s'.drv = s.drv)
      ∧ (rawPoison s a e.rowBytes = false → entryOk y.k bs = true → leaveOf y p.1 p.2 = .wait →
          (y.waits.any mine = true → o = .next s)
          ∧ (y.waits.any mine = false → o = .next (putDrv s e.elem { y with
              waits := y.waits ++ [{ unit := hartUnit s t, q := q, seq := e.ent.seq }], waitFrom := some (y.waitFrom.getD s.time.now) })))
      ∧ (rawPoison s a e.rowBytes = false → entryOk y.k bs = true → leaveOf y p.1 p.2 = .go → ∃ s' k', exec (.droveSend h q) s = .next s' ∧ hartCore s' t = some k'
          ∧ Claims.MvChanged k k' q e.ent.seq (fun m => { m with row := m.row + 1 }) ∧ s'.mem = s.mem
          ∧ (drvOf s' e.elem).transit = y.transit ++ [{ rcv := p.1, l := p.2, bytes := bs, unit := hartUnit s t, q := q, seq := e.ent.seq }]
          ∧ (drvOf s' e.elem).waits = others ∧ (drvOf s' e.elem).waitFrom = (if others = [] then none else y.waitFrom) ∧ (drvOf s' e.elem).delivered = y.delivered
          ∧ (drvOf s' e.elem).waitNs = (if others = [] then y.waitNs + (y.waitFrom.map (fun w => (s.time.now - w) / 16)).getD 0 else y.waitNs)))


/-! ## Collectives -/

/-- R539 to R545, R550, Tables 14.8, 14.9: a launch with a bad descriptor faults; else the member is launched, the root opens the tree and a member
waits for OPEN, or takes one that came before; JOINs are merged toward the root; the root's verdict is GO when every member has joined with its
signature, which starts the data, and ends the collective with CODE 0x02 where they differ.
Where the spec leaves a point open it holds of the model's choices (log entries 60, 61, 108). -/
def Obligations.CollectiveLaunchAndVerdict : Prop :=
  (∀ (s : State) (h u cx op : Nat) (k : Core) (x : Ctx) (e : QEnt) (d : List W64), Claims.Runs s h (.res u cx) k x →
      cqHead s u cx k = some e → iClass e.w = 0xB → iOp e.w = op → op < 2 → (readDesc s (.res u cx) x e).2 = some d →
      let o := if op = 0 then exec (.clBcast h) s else exec (.clReduce h) s
      let g := wf d 0 30 21
      let y := grpOf s g
      let atRoot := y.rank == cRoot d
      let fields := y.defined && y.ctx == cx && collFieldsOk op d y.nmemb atRoot && collApart d atRoot
        && !(cSf d == 0xE && allowed x (·.r) (addr d 3) (srcSize d atRoot) && !(inKind x false (addr d 3) (srcSize d atRoot)))
        && !((collRanges d atRoot).any (fun p => touchesRick x p.1 p.2))
      let waits := s.fab.hold || collActive y || decide (64 ≤ (s.groups.filter (fun p => collActive p.2)).length)
      let c : CollSt := { phase := .launched, unit := u, ent := e, desc := d, launch := s.time.now, heard := s.time.now, seq := cSeq d }
      let opened : CollSt := { c with opened := true, rootSig := collSig d }
      let held := y.opens.filter (fun p => p.1 != cSeq d)
      let away := awayOf y (cRoot d)
      let launched (s1 : State) (c1 : CollSt) : Prop := collOf s1 g = c1 ∧ (grpOf s1 g).opens = held ∧ { s1 with groups := s.groups } = s ∧ ∀ z, z ≠ g → grpOf s1 z = grpOf s z
      (fields = false → o = .next (faultEnt s (.res u cx) fQueue e))
      ∧ (fields = true → collOpsOk s x d atRoot = false → o = .next (faultEnt s (.res u cx) fExtent e))
      ∧ (fields = true → collOpsOk s x d atRoot = true → waits = true → o = .next s)
      ∧ (fields = true → collOpsOk s x d atRoot = true → waits = false →
          ∃ s', (op = 0 → exec (.clBcast h) s = .next s') ∧ (op = 1 → exec (.clReduce h) s = .next s')
            ∧ (∀ n, toward y (cRoot d) = some n → y.opens = [] → launched s' c ∧ (grpOf s' g).tombs.contains (cSeq d) = false)
            ∧ (toward y (cRoot d) = none → away ≠ [] → ∃ s1, s' = collSend s1 g kOpen 0 away (words64 [(collSig d).toNat]) ∧ launched s1 opened)
            ∧ (∀ n sig, toward y (cRoot d) = some n → y.opens = [(cSeq d, sig)] → away ≠ [] →
                ∃ s1, s' = collSend s1 g kOpen 0 away (words64 [sig.toNat]) ∧ launched s1 { opened with rootSig := sig })
            ∧ (∀ n sig, toward y (cRoot d) = some n → y.opens = [(cSeq d, sig)] → away = [] →
                ∃ s1, s' = collSend s1 g kJoin 0 [n] (joinBytes (ownJoin y { opened with rootSig := sig })) ∧ launched s1 { opened with rootSig := sig, phase := .joined })
            ∧ (toward y (cRoot d) = none → neighbours y = [] →
                ∃ s1, launched s1 { opened with slow := y.rank } ∧ (y.nmemb = 1 → s' = startData s1 g) ∧ (y.nmemb ≠ 1 → Claims.CollEnds s1 s' g 2))))
  ∧ (∀ (s : State) (l : LinkHdr) (g src seq : Nat) (sig : W64), Claims.Arrives s l → collWaits s g = false →
      let x := grpOf s g
      let c := collOf s g
      let o := exec (.collOpen l g src seq sig) s
      let away := awayOf x (cRoot c.desc)
      let took : CollSt := { c with opened := true, rootSig := sig, seq := seq, heard := s.time.now }
      let known := x.defined && (neighbours x).contains src
      (known = false → ∃ s', o = .next s' ∧ Claims.OneEvent s s' 0x0607 1 g src ∧ (∃ n, Claims.TookIn s s' l 6 n true) ∧ Claims.SameFab s.fab s'.fab
        ∧ { s' with ports := s.ports, fab := s.fab, evs := s.evs } = s)
      ∧ (known = true → x.tombs.contains seq = true →
          ∃ s1, o = .next (originate s1 (collPkt g kLeave 0 seq 0 src (words64 [x.rank, 0]))) ∧ Claims.OnlyReceipt s s1 l)
      ∧ (known = true → x.tombs.contains seq = false →
          (collActive x = false ∨ c.opened = true ∧ c.seq ≠ seq → ∃ s', o = .next s' ∧ Claims.OnlyGroup s s' l g
            ∧ grpOf s' g = { x with opens := x.opens.filter (fun p => p.1 != seq) ++ [(seq, sig)] })
          ∧ (collActive x = true → c.opened = true → c.seq = seq → ∃ s', o = .next s' ∧ Claims.OnlyReceipt s s' l)
          ∧ (collActive x = true → c.opened = false → (∃ n, n ∈ away ∧ Tbl.find? c.joins n = none) → ∃ s1,
              exec (.collOpen l g src seq sig) s = .next (collSend s1 g kOpen 0 away (words64 [sig.toNat])) ∧ grpOf s1 g = { x with active := some took } ∧ Claims.OnlyGroup s s1 l g)
          ∧ (∀ n, x.active = some c → c.phase = .launched → c.opened = false → c.joins = [] → away = [] → toward x (cRoot c.desc) = some n → ∃ s1,
              exec (.collOpen l g src seq sig) s = .next (collSend s1 g kJoin 0 [n] (joinBytes (ownJoin x took)))
              ∧ grpOf s1 g = { x with active := some { took with phase := .joined } } ∧ Claims.OnlyGroup s s1 l g)))
  ∧ (∀ (s : State) (l : LinkHdr) (g src seq : Nat) (x : GroupSt) (c : CollSt) (j : JoinInfo), Claims.CollGets s l g src seq x c →
      let o := exec (.collJoin l g src seq j.same j.diff j.ranks j.early j.earlyRank j.late j.lateRank) s
      let c1 : CollSt := { c with heard := s.time.now, joins := Tbl.put c.joins src j }
      let all := c.phase == .launched && c.opened && (awayOf x (cRoot c.desc)).all (fun n => (Tbl.find? c1.joins n).isSome)
      let m := (c1.joins.map (·.2)).foldl joinMerge (ownJoin x c)
      ((Tbl.find? c.joins src).isSome = true → ∃ s', o = .next s' ∧ Claims.OnlyReceipt s s' l)
      ∧ (Tbl.find? c.joins src = none → all = false →
          ∃ s', exec (.collJoin l g src seq j.same j.diff j.ranks j.early j.earlyRank j.late j.lateRank) s = .next s' ∧ collOf s' g = c1 ∧ Claims.OnlyGroup s s' l g)
      ∧ (∀ n, Tbl.find? c.joins src = none → all = true → toward x (cRoot c.desc) = some n → ∃ s1, o = .next (collSend s1 g kJoin 0 [n] (joinBytes m))
          ∧ collOf s1 g = { c1 with phase := .joined } ∧ Claims.OnlyGroup s s1 l g)
      ∧ (Tbl.find? c.joins src = none → all = true → toward x (cRoot c.desc) = none → m.diff = 0 → m.same = x.nmemb → ∃ s1,
          o = .next (startData (collSend s1 g kVerdict 0 (neighbours x) []) g)
          ∧ collOf s1 g = { c1 with slow := m.lateRank, lag := min ((m.late - m.early).toNat / 16) (2 ^ 32 - 1) } ∧ Claims.OnlyGroup s s1 l g)
      ∧ (Tbl.find? c.joins src = none → all = true → toward x (cRoot c.desc) = none → (m.diff ≠ 0 ∨ m.same ≠ x.nmemb) → ∃ s', o = .next s' ∧ Claims.CollEnds s s' g 2))
  ∧ (∀ (a b : JoinInfo), a.early ≠ b.early → a.late ≠ b.late →
      ((joinMerge a b).early = if (a.early - b.early).toNat < 2 ^ 63 then b.early else a.early)
      ∧ ((joinMerge a b).late = if (b.late - a.late).toNat < 2 ^ 63 then b.late else a.late) ∧ (joinMerge a b).same = a.same + b.same ∧ (joinMerge a b).diff = a.diff + b.diff)
  ∧ (∀ (s : State) (l : LinkHdr) (g src seq kind count : Nat) (ranks : List Nat) (x : GroupSt) (c : CollSt), Claims.CollGets s l g src seq x c →
      let o := exec (.collVerdict l g src seq kind count ranks) s
      let away := awayOf x (cRoot c.desc)
      ((toward x (cRoot c.desc) ≠ some src ∨ c.phase = .going ∨ c.phase = .final) → ∃ s', o = .next s' ∧ Claims.OnlyReceipt s s' l)
      ∧ (toward x (cRoot c.desc) = some src → c.phase ≠ .going → c.phase ≠ .final →
          (kind = 0 → ∃ s1, o = .next (c.early.foldl onEarly (startData (collSend s1 g kVerdict 0 away []) g)) ∧ collOf s1 g = { c with heard := s.time.now, early := [] }
            ∧ Claims.OnlyGroup s s1 l g)
          ∧ (kind = 0 → cOp c.desc = 0 → c.early = [] → ∃ s', exec (.collVerdict l g src seq kind count ranks) s = .next s'
              ∧ collOf s' g = { c with heard := s.time.now, phase := .going, progress := s.time.now } ∧ s'.mem = s.mem)
          ∧ (kind ≠ 0 → ∃ s', o = .next s' ∧ Claims.CollEnds s s' g (if kind = 1 then 2 else 1))))

/-- R528, R546 to R550, Table 14.9: what comes before GO is kept for it; a chunk of a reduction adds to the sums of its elements once, one of a
broadcast is written once to its place; a stream that has come whole is checked against its trailer, a mismatch being reported toward the root;
DONE from all ends a broadcast with CODE 0. -/
def Sys2Proof.Claims.CollectiveDataResults : Prop :=
  ∀ (s : State) (l : LinkHdr) (g src seq : Nat) (x : GroupSt) (c : CollSt), Claims.CollGets s l g src seq x c →
    let away := awayOf x (cRoot c.desc)
    let now := s.time.now
    let early (o : Out) (i : Instr) : Prop := ∃ s', o = .next s' ∧ collOf s' g = { c with heard := now, early := c.early ++ [i] } ∧ Claims.OnlyGroup s s' l g
    let nothing (o : Out) : Prop := ∃ s', o = .next s' ∧ Claims.OnlyReceipt s s' l
    let reported (o : Out) (f : Nat) : Prop := (toward x (cRoot c.desc) = none → ∃ s', o = .next s' ∧ Claims.CollEnds s s' g 1)
      ∧ ∀ n, toward x (cRoot c.desc) = some n → ∃ s1, o = .next (collSend s1 g kLeave f [n] (words64 [x.rank, f])) ∧ (collOf s1 g).phase = .final ∧ s1.mem = s.mem
    (∀ chunk idx ws ns, let o := exec (.collData l g src seq chunk idx ws ns) s
      ((c.phase = .launched ∨ c.phase = .joined) → early o (.collData {} g src seq chunk idx ws ns))
      ∧ (c.phase = .final → nothing o)
      ∧ (c.phase = .going → cOp c.desc = 1 → (away.contains src = false ∨ hasChunk c src chunk = true ∨ chunkCount c.desc ≤ chunk) → nothing o)
      ∧ (∀ i w n, c.phase = .going → cOp c.desc = 1 → away.contains src = true → hasChunk c src chunk = false → chunk < chunkCount c.desc → cSf c.desc = 0xE →
          idx = [] → ws = [w] → ns = [n] → (chunkElems c.desc chunk).head? = some i → 2 ^ 31 < Tbl.get 0 c.counts i + n → reported o fCount)
      ∧ (c.phase = .going → cOp c.desc = 1 → away.contains src = true → hasChunk c src chunk = false → chunk < chunkCount c.desc → cSf c.desc ≠ 0xE →
          hasTrailer c src = false → idx = [] → ∃ s', exec (.collData l g src seq chunk idx ws ns) s = .next s' ∧ hasChunk (collOf s' g) src chunk = true
            ∧ ∀ i, i < ws.length → i < (chunkElems c.desc chunk).length → Tbl.get 0 (collOf s' g).sums (chunk * chunkLen c.desc + i)
                = Tbl.get 0 c.sums (chunk * chunkLen c.desc + i) + dataWord c.desc ns.isEmpty (ws.getD i 0))
      ∧ (c.phase = .going → cOp c.desc ≠ 1 → toward x (cRoot c.desc) ≠ some src → nothing o)
      ∧ (c.phase = .going → cOp c.desc ≠ 1 → toward x (cRoot c.desc) = some src → chunk ∈ c.finished → ∃ s', o = .next s' ∧ collOf s' g = { c with heard := now }
          ∧ Claims.OnlyGroup s s' l g)
      ∧ (c.phase = .going → cOp c.desc ≠ 1 → toward x (cRoot c.desc) = some src → chunk ∉ c.finished → ∃ s', exec (.collData l g src seq chunk idx ws ns) s = .next s'
          ∧ (collOf s' g).finished = NSet.ins c.finished chunk ∧ (collOf s' g).bytes = c.bytes + 16 * ws.length
          ∧ ∀ a, devPieces (collCtx s g) (addr c.desc 4 + chunk * 8192) (16 * ws.length) = [(a, 16 * ws.length)] → a + 16 * ws.length ≤ hbmEnd →
              targetPoison s a (16 * ws.length) = false → Claims.LinesWf s →
              (∀ i, i < 16 * ws.length → viewByte s' (a + i) = (ws.flatMap (fun w => leBytes 16 w.toNat)).getD i 0)
              ∧ ∀ b, (b < a ∨ a + 16 * ws.length ≤ b) → Claims.Coherent s b → viewByte s' b = viewByte s b))
    ∧ (∀ sum wsum hash nwovf wovf nwnan wnan, let o := exec (.collTrailer l g src seq sum wsum hash nwovf wovf nwnan wnan) s
        let i : CollIn := (c.ins.find? (fun y => y.src == src)).getD { src := src }
        ((c.phase = .launched ∨ c.phase = .joined) → early o (.collTrailer {} g src seq sum wsum hash nwovf wovf nwnan wnan))
        ∧ ((c.phase = .final ∨ (c.phase = .going ∧ i.trailer = true)) → nothing o)
        ∧ (c.phase = .going → i.trailer = false → cOp c.desc = 1 → away.contains src = false → nothing o)
        ∧ (c.phase = .going → i.trailer = false → cOp c.desc = 1 → away.contains src = true →
            (i.chunks.length = chunkCount c.desc → i.hash ≠ hash → reported o fIndex)
            ∧ ((i.chunks.length ≠ chunkCount c.desc ∨ i.hash = hash) → (∃ n, n ∈ away ∧ n ≠ src ∧ hasTrailer c n = false) →
                ∃ s', exec (.collTrailer l g src seq sum wsum hash nwovf wovf nwnan wnan) s = .next s' ∧ hasTrailer (collOf s' g) src = true
                ∧ (collOf s' g).nwovf = c.nwovf + nwovf ∧ (collOf s' g).nwnan = c.nwnan + nwnan ∧ (collOf s' g).sums = c.sums))
        ∧ (c.phase = .going → i.trailer = false → cOp c.desc ≠ 1 → toward x (cRoot c.desc) ≠ some src → nothing o)
        ∧ (c.phase = .going → i.trailer = false → cOp c.desc ≠ 1 → toward x (cRoot c.desc) = some src →
            let whole := decide (c.finished.length = (cCount c.desc + 511) / 512)
            let same := decide (c.outSum.toNat % 2 ^ 64 = sum.toNat % 2 ^ 64)
            let last := away.all (fun n => c.done.contains n)
            (whole = true → same = false → ∃ s1, o = .next (collSend s1 g kLeave fCsum [src] (words64 [x.rank, fCsum])) ∧ (collOf s1 g).phase = .final ∧ s1.mem = s.mem)
            ∧ (whole = true → same = true → last = true → ∃ s1, o = .next (collSend s1 g kDone 0 [src] []) ∧ (collOf s1 g).phase = .final ∧ s1.mem = s.mem)
            ∧ (whole = false ∨ (same = true ∧ last = false) → ∃ s1, exec (.collTrailer l g src seq sum wsum hash nwovf wovf nwnan wnan) s
                  = .next (collSend s1 g kTrailer 0 away (words64 [sum.toNat % 2 ^ 64]))
                ∧ hasTrailer (collOf s1 g) src = true ∧ (collOf s1 g).phase = .going ∧ Claims.OnlyGroup s s1 l g)))
    ∧ (let o := exec (.collDone l g src seq) s
       let takes := cOp c.desc == 0 && away.contains src && c.phase == .going
       (takes = false → nothing o)
       ∧ (takes = true → (∃ n, n ∈ away ∧ n ≠ src ∧ n ∉ c.done) → (∀ n, toward x (cRoot c.desc) = some n → bcastWhole c n = false ∨ bcastSumOk c = true) →
           ∃ s', exec (.collDone l g src seq) s = .next s' ∧ collOf s' g = { c with heard := now, done := NSet.ins c.done src, progress := now } ∧ Claims.OnlyGroup s s' l g)
       ∧ (takes = true → (∀ n, n ∈ away → n = src ∨ n ∈ c.done) → toward x (cRoot c.desc) = none → ∃ s', exec (.collDone l g src seq) s = .next s' ∧ Claims.CollEnds s s' g 0)
       ∧ (∀ n, takes = true → (∀ n, n ∈ away → n = src ∨ n ∈ c.done) → toward x (cRoot c.desc) = some n → bcastWhole c n = true → bcastSumOk c = true →
           ∃ s1, exec (.collDone l g src seq) s = .next (collSend s1 g kDone 0 [n] []) ∧ (collOf s1 g).phase = .final ∧ Claims.OnlyGroup s s1 l g))

/-- R537, R538, R551 to R555: FINAL ends the member with the code it brings; LEAVE goes on to the root, which aborts with CODE 0x01; the time-outs end
root and members; a member that left a collective answers its later messages with LEAVE; a message from no neighbour is reported; the group block
defines a group, aborts its collective or removes it. -/
def Sys2Proof.Claims.CollectiveEnds : Prop :=
  (∀ (s : State) (l : LinkHdr) (g src seq a b : Nat) (m : List Nat) (w : W64) (y z : BitVec 128) (ws : List (BitVec 128)) (c : Instr),
      c ∈ [Instr.collJoin l g src seq a b m w a w b, .collVerdict l g src seq a b m, .collData l g src seq a m ws m, .collTrailer l g src seq y z w a m b m,
        .collDone l g src seq, .collFinal l g src seq a b a b a m b m a b, .collLeave l g src seq a b] →
      let x := grpOf s g
      let known := x.defined && (neighbours x).contains src
      (linkOk s l = false → exec c s = .next s)
      ∧ (Claims.Arrives s l → collWaits s g = true → ∃ s' r, exec c s = .next s' ∧ s'.fab.rxWait = [r] ∧ r.c = c ∧ r.hdr = l ∧ (∃ n, Claims.TookIn s s' l 6 n false)
          ∧ { s' with ports := s.ports, fab := s.fab } = s)
      ∧ (Claims.Arrives s l → collWaits s g = false →
          (known = false → ∃ s', exec c s = .next s' ∧ Claims.OneEvent s s' 0x0607 1 g src ∧ (∃ n, Claims.TookIn s s' l 6 n true) ∧ Claims.SameFab s.fab s'.fab
            ∧ { s' with ports := s.ports, fab := s.fab, evs := s.evs } = s)
          ∧ (known = true → x.tombs.contains seq = true →
              ∃ s1, exec c s = .next (originate s1 (collPkt g kLeave 0 seq 0 src (words64 [x.rank, 0]))) ∧ Claims.OnlyReceipt s s1 l)
          ∧ (known = true → x.tombs.contains seq = false → (collActive x = false ∨ (collOf s g).seq ≠ seq) → ∃ s', exec c s = .next s' ∧ Claims.OnlyReceipt s s' l)))
  ∧ (∀ (s : State) (l : LinkHdr) (g src seq : Nat) (x : GroupSt) (c : CollSt), Claims.CollGets s l g src seq x c →
      (∀ code flags lag slow nn named nv wv nw w0, let o := exec (.collFinal l g src seq code flags lag slow nn named nv wv nw w0) s
        (toward x (cRoot c.desc) ≠ some src → ∃ s', o = .next s' ∧ Claims.OnlyReceipt s s' l)
        ∧ (toward x (cRoot c.desc) = some src → ∃ s', exec (.collFinal l g src seq code flags lag slow nn named nv wv nw w0) s = .next s' ∧ Claims.CollEnds s s' g code
            ∧ (grpOf s' g).lastSlow = slow ∧ (grpOf s' g).lastNamed = nn ∧ (grpOf s' g).lastLag = lag))
      ∧ (∀ rank flags, let o := exec (.collLeave l g src seq rank flags) s
          (toward x (cRoot c.desc) = some src → ∃ s', o = .next s' ∧ Claims.OnlyReceipt s s' l)
          ∧ (∀ n, toward x (cRoot c.desc) = some n → n ≠ src → ∃ s1, exec (.collLeave l g src seq rank flags) s = .next (collSend s1 g kLeave flags [n] (words64 [rank, flags]))
              ∧ collOf s1 g = { c with heard := s.time.now } ∧ Claims.OnlyGroup s s1 l g)
          ∧ (toward x (cRoot c.desc) = none → ∃ s', exec (.collLeave l g src seq rank flags) s = .next s' ∧ Claims.CollEnds s s' g 1)))
  ∧ (∀ (s : State) (g : Nat) (t : W64),
      let s1 := advance s t
      let x := grpOf s1 g
      let c := collOf s1 g
      let since := if c.phase == .going then c.progress else c.launch
      let rootDue := collActive x && x.rank == cRoot c.desc && !(collWaits s1 g) && decide (collTmo s1 c * 16000 ≤ (s1.time.now - since).toNat)
      let due := collActive x && x.rank != cRoot c.desc && !(collWaits s1 g)
        && decide (collTmo s1 c * 16000 + s1.fab.hopBudget * 8000 ≤ (s1.time.now - c.heard).toNat)
      (rootDue = false → exec (.collRootTimeout g t) s = .next s1)
      ∧ (rootDue = true → ∃ s', exec (.collRootTimeout g t) s = .next s' ∧ Claims.CollEnds s1 s' g 1 ∧ (grpOf s' g).lastNamed = rankCount ((missing x c).flatMap (beyond x)))
      ∧ (due = false → exec (.collMemberTimeout g t) s = .next s1)
      ∧ (due = true → ∃ s', exec (.collMemberTimeout g t) s = .next s' ∧ Claims.CollEnds s1 s' g 1
          ∧ (toward x (cRoot c.desc) ≠ none → (grpOf s' g).tombs.contains c.seq = true)))
  ∧ (∀ (s : State) (h : HostCmd), Claims.HostCur s 0x21 h →
      let d := blockWords h
      let g := wf d 0 63 54
      let x := grpOf s g
      let o := exec .group s
      (wf d 0 52 52 = 1 → ∃ s', exec .group s = .next s' ∧ Claims.HostEnds s s' h 0 0 0 ∧ (collActive x = false → grpOf s' g = x)
          ∧ (collActive x = true → Claims.CollEnds s s' g 3))
      ∧ (wf d 0 52 52 = 0 → wf d 0 53 53 = 0 → (grpBits d = true → Claims.HostRejects s o h 1) ∧ (grpBits d = false → collActive x = true → Claims.HostRejects s o h 2)
          ∧ (grpBits d = false → collActive x = false →
              ∃ s', exec .group s = .next s' ∧ Claims.HostEnds s s' h 0 0 0 ∧ grpOf s' g = {} ∧ ∀ z, z ≠ g → grpOf s' z = grpOf s z))
      ∧ (wf d 0 52 52 = 0 → wf d 0 53 53 = 1 → (∀ k, firstFail (grpChecks s d) = some k → Claims.HostRejects s o h k)
          ∧ (firstFail (grpChecks s d) = none → ∃ s', exec .group s = .next s' ∧ Claims.HostEnds s s' h 0 0 0 ∧ grpOf s' g = grpOfBlock d ∧ ∀ z, z ≠ g → grpOf s' z = grpOf s z)))


/-! ## The host interface -/

/-- R565 to R568, R571, R574 to R576, R584, Tables 15.3, 15.8: enabling a ring zeroes its stamps and restarts it; a doorbell or head write out of
place is refused with its error bit; an accepted descriptor is rejected under the first check that fails or becomes the command carried out next; a
result's words stand before its stamp.
Where the spec leaves a point open it holds of the model's choices (log entries 63, 65, 66, 67, 111). -/
def Obligations.RingResults : Prop :=
  (∀ (s : State) (r : Nat) (v : W64),
    let x := ringOf s r
    let n := v.toNat % 2 ^ 32
    let y : RingSt := { x with vec := fld v 21 16, intEn := bit v 15, log2n := if x.en then x.log2n else log2Field 4 16 x.log2n (fld v 12 8) }
    let on : RingSt := { y with
      en := true, off := false, stopped := false, tail := 0, head := 0, resHead := 0, resSeq := 0, done := x.done.map (fun d => { d with body := false }) }
    (16 ≤ r → exec (.sqrCtl r v) s = .next s ∧ exec (.sqrDb r v) s = .next s ∧ exec (.resHead r v) s = .next s)
    ∧ (r < 16 →
        (v.getLsbD 0 = false → ∃ s', exec (.sqrCtl r v) s = .next s' ∧ Claims.OnlyRing s s' r ∧ ringOf s' r = { y with en := false, off := true, zeroPend := false } ∧ s'.mem = s.mem)
        ∧ (v.getLsbD 0 = true → x.en = true → ∃ s', exec (.sqrCtl r v) s = .next s' ∧ Claims.OnlyRing s s' r ∧ ringOf s' r = y ∧ s'.mem = s.mem)
        ∧ (v.getLsbD 0 = true → x.en = false → ringBasesOk y = false → ∃ s', exec (.sqrCtl r v) s = .next s' ∧ Claims.OnlyRing s s' r
            ∧ ringOf s' r = { y with errBase := true } ∧ s'.mem = s.mem)
        ∧ (v.getLsbD 0 = true → x.en = false → s.host.cacheEn = false → ringBasesOk y = true → ∃ s', exec (.sqrCtl r v) s = .next s' ∧ Claims.OnlyRing s s' r
            ∧ ringOf s' r = { on with zeroPend := true } ∧ s'.mem = s.mem)
        ∧ (v.getLsbD 0 = true → x.en = false → s.host.cacheEn = true → ringBasesOk y = true → ∃ s', exec (.sqrCtl r v) s = .next s' ∧ Claims.OnlyRing s s' r
            ∧ ringOf s' r = { on with zeroPend := false }
            ∧ (∀ q, q < 2 ^ y.log2n → memBytes s' (y.resBase + q * 32 + 24) 8 = zeros 8)
            ∧ ∀ b, (∀ q, q < 2 ^ y.log2n → b < y.resBase + q * 32 + 24 ∨ y.resBase + q * 32 + 32 ≤ b) → memByte s' b = memByte s b)
        ∧ (x.en = false → ∃ s', exec (.sqrDb r v) s = .next s' ∧ Claims.OnlyRing s s' r ∧ ringOf s' r = { x with errDis := true } ∧ s'.evs = s.evs)
        ∧ (x.en = true → badDoorbell x n = true → ∃ s', exec (.sqrDb r v) s = .next s' ∧ Claims.OnlyRing s s' r ∧ ringOf s' r = { x with errDb := true, stopped := true }
            ∧ Claims.OneEvent s s' 0x0702 2 r n)
        ∧ (x.en = true → badDoorbell x n = false → ∃ s', exec (.sqrDb r v) s = .next s' ∧ Claims.OnlyRing s s' r ∧ ringOf s' r = { x with tail := BitVec.ofNat 32 n }
            ∧ s'.evs = s.evs)
        ∧ (∃ s', exec (.resHead r v) s = .next s' ∧ Claims.OnlyRing s s' r ∧ s'.evs = s.evs
            ∧ (badHead x.resHead.toNat x.resSeq.toNat n = true → ringOf s' r = { x with errHead := true })
            ∧ (badHead x.resHead.toNat x.resSeq.toNat n = false → ringOf s' r = { x with resHead := BitVec.ofNat 32 n }))))
  ∧ (∀ (s : State), (acceptsCmds s = false ∨ nextRing s = none) → exec .descriptorAccept s = .next s)
  ∧ (∀ (s : State) (r : Nat), acceptsCmds s = true → nextRing s = some r →
      let x := ringOf s r
      let took (s' : State) (j : Job) : Prop := exec .descriptorAccept s = .next s' ∧ (ringOf s' r).head = x.head + 1 ∧ s'.host.rr = r ∧ s'.evs = s.evs ∧ j.ring = r
      (nextDesc s x = none → ∃ s' j, took s' j ∧ j.opc = 0xFF ∧ j.tag = 2 ^ 32 - 1 ∧ j.nores = false ∧ Claims.JobEnds s s' j 1 0xFE 0 ∧ s'.host.cur = none)
      ∧ (∀ ws, nextDesc s x = some ws →
          let a := wf ws 1 47 0
          let job (j : Job) : Prop := j.opc = wf ws 0 63 56 ∧ j.tag = wf ws 0 31 0 ∧ (j.nores = true ↔ wf ws 0 54 54 = 1)
          let rejects (c : Nat) : Prop := ∃ s' j, took s' j ∧ job j ∧ Claims.JobEnds s s' j 1 c 0 ∧ s'.host.cur = none
          let takes (bs : List Byte) : Prop := ∃ s' j, took s' j ∧ job j ∧ s'.host.cur = some { job := j, ws := ws, block := bs, since := s.time.now }
            ∧ (ringOf s' r).owed = x.owed ++ [j] ∧ (ringOf s' r).done = x.done ∧ s'.mem = s.mem
          (descBad ws = true → rejects 0)
          ∧ (descBad ws = false → blockLen ws = none → takes [])
          ∧ (∀ n, descBad ws = false → blockLen ws = some n →
              (inHost a n = false → rejects 0xFF)
              ∧ (inHost a n = true → rawPoison s a n = true → rejects 0xFE)
              ∧ (inHost a n = true → rawPoison s a n = false → takes (memBytes s a n)))))
  ∧ (∀ (s : State) (r : Nat),
      let x := ringOf s r
      let a := resSlot x x.resSeq.toNat
      let may := s.host.cacheEn && decide (subMod 32 x.resSeq.toNat x.resHead.toNat < 2 ^ x.log2n)
      ((x.done = [] ∨ may = false) → exec (.resultStampWrite r) s = .next s)
      ∧ (∀ d l, x.done = d :: l → may = true → ∃ s', exec (.resultStampWrite r) s = .next s' ∧ ringOf s' r = { x with resSeq := x.resSeq + 1, done := l }
          ∧ (∀ q, q ≠ r → ringOf s' q = ringOf s q) ∧ memBytes s' (a + 24) 8 = leBytes 8 (x.resSeq.toNat * 2 ^ 32 + 1)
          ∧ (d.body = false → memBytes s' a 24 = leBytes 8 d.w0.toNat ++ leBytes 8 d.w1.toNat ++ leBytes 8 d.w2.toNat) ∧ (d.body = true → memBytes s' a 24 = memBytes s a 24)
          ∧ (∀ b, (b < a ∨ a + 32 ≤ b) → memByte s' b = memByte s b) ∧ (x.intEn = true → x.vec ∈ s'.host.msixPend) ∧ (x.intEn = false → s'.host.msixPend = s.host.msixPend)))

/-- R577 to R581, R584, Table 15.6: an event's record stands in the next slot before its stamp while a slot is open to its class, and is counted as
lost otherwise, the counts being reported once there is room; messages go out at most once in MOD µs. -/
def Sys2Proof.Claims.EventQueueResults : Prop :=
  ∀ (s : State),
    let h := s.host
    let a := h.evqBase + h.evqSeq.toNat % 2 ^ h.evqLog2n * 32
    let written (s' : State) (w0 w1 : Nat) (w2 : W64) : Prop := memBytes s' a 24 = leBytes 8 w0 ++ leBytes 8 w1 ++ leBytes 8 w2.toNat
      ∧ memBytes s' (a + 24) 8 = leBytes 8 (h.evqSeq.toNat * 2 ^ 32 + 1) ∧ s'.host.evqSeq = h.evqSeq + 1 ∧ (∀ b, (b < a ∨ a + 32 ≤ b) → memByte s' b = memByte s b)
      ∧ (h.evqIntEn = true → h.evqVec ∈ s'.host.msixPend) ∧ (h.evqIntEn = false → s'.host.msixPend = h.msixPend) ∧ s'.host.rings = h.rings
    let report := h.evqEn && !h.lost.isEmpty && decide (h.critRsv < evqFree h)
    let o := exec .eventWrite s
    let room (i : Nat) (e : Ev) : Prop := if e.cls = 3 then i < evqFree h else h.critRsv + i < evqFree h
    (h.evqEn = true → h.cacheEn = false → (∀ i e, s.evs[i]? = some e → room i e) → o = .next s)
    ∧ (∀ i e, h.evqEn = true → h.cacheEn = false → s.evs[i]? = some e → ¬ room i e → (∀ j f, j < i → s.evs[j]? = some f → room j f) →
        ∃ s', o = .next s' ∧ { s' with host := h, evs := s.evs } = s ∧ s'.evs = s.evs.eraseIdx i ∧ { s'.host with lost := h.lost } = h
          ∧ Tbl.get 0 s'.host.lost e.cls = min 0xFFFF (Tbl.get 0 h.lost e.cls + 1) ∧ ∀ c, c ≠ e.cls → Tbl.get 0 s'.host.lost c = Tbl.get 0 h.lost c)
    ∧ (h.cacheEn = true → report = true → ∃ s', exec .eventWrite s = .next s' ∧ written s' (0x0701 * 2 ^ 48 + 3 * 2 ^ 46) (lostWord h % 2 ^ 64) s.time.now ∧ s'.host.lost = [] ∧ s'.evs = s.evs)
    ∧ (report = false → s.evs = [] → o = .next s)
    ∧ (∀ e l, (h.evqEn = false ∨ h.cacheEn = true) → report = false → s.evs = e :: l →
        ((h.evqEn && classOpen h e.cls) = true → ∃ s', exec .eventWrite s = .next s' ∧ written s' (e.code * 2 ^ 48 + e.cls * 2 ^ 46 + e.arg0.toNat) e.arg1.toNat e.time ∧ s'.evs = l
          ∧ s'.host.lost = h.lost)
        ∧ ((h.evqEn && classOpen h e.cls) = false → ∃ s', o = .next s' ∧ { s' with host := h, evs := s.evs } = s ∧ s'.evs = l ∧ { s'.host with lost := h.lost } = h
            ∧ Tbl.get 0 s'.host.lost e.cls = min 0xFFFF (Tbl.get 0 h.lost e.cls + 1) ∧ ∀ c, c ≠ e.cls → Tbl.get 0 s'.host.lost c = Tbl.get 0 h.lost c))
    ∧ (∀ v : W64,
        let g : HostSt := { h with
          critRsv := fld v 23 16, evqLog2n := if h.evqEn then h.evqLog2n else log2Field 8 20 h.evqLog2n (fld v 10 6),
          evqHeadErr := h.evqHeadErr && !(bit v 2), evqBaseErr := h.evqBaseErr && !(bit v 1) }
        (v.getLsbD 0 = false → exec (.evqCtl v) s = .next { s with host := { g with evqEn := false, evqZero := false } })
        ∧ (v.getLsbD 0 = true → h.evqEn = true → exec (.evqCtl v) s = .next { s with host := g })
        ∧ (v.getLsbD 0 = true → h.evqEn = false → inHost h.evqBase (2 ^ g.evqLog2n * 32) = false → exec (.evqCtl v) s = .next { s with host := { g with evqBaseErr := true } })
        ∧ (v.getLsbD 0 = true → h.evqEn = false → h.cacheEn = false → inHost h.evqBase (2 ^ g.evqLog2n * 32) = true →
            exec (.evqCtl v) s = .next { s with host := { g with evqEn := true, evqHead := 0, evqSeq := 0, evqZero := true } })
        ∧ (v.getLsbD 0 = true → h.evqEn = false → h.cacheEn = true → inHost h.evqBase (2 ^ g.evqLog2n * 32) = true → ∃ s', exec (.evqCtl v) s = .next s'
            ∧ s'.host = { g with evqEn := true, evqHead := 0, evqSeq := 0, evqZero := false } ∧ (∀ q, q < 2 ^ g.evqLog2n → memBytes s' (h.evqBase + q * 32 + 24) 8 = zeros 8)
            ∧ ∀ b, (∀ q, q < 2 ^ g.evqLog2n → b < h.evqBase + q * 32 + 24 ∨ h.evqBase + q * 32 + 32 ≤ b) → memByte s' b = memByte s b))
    ∧ (∀ v : W64, let n := v.toNat % 2 ^ 32
        (badHead h.evqHead.toNat h.evqSeq.toNat n = true → exec (.evqHead v) s = .next { s with host := { h with evqHeadErr := true } })
        ∧ (badHead h.evqHead.toNat h.evqSeq.toNat n = false → exec (.evqHead v) s = .next { s with host := { h with evqHead := BitVec.ofNat 32 n } }))
    ∧ (∀ vec t, let s1 := advance s t
        let due := decide (2 ≤ h.link) && h.msixPend.contains vec && (match Tbl.find? h.msixLast vec with
          | none => true
          | some z => decide (h.evqMod * 16000 ≤ (s1.time.now - z).toNat))
        (due = false → exec (.msixSend vec t) s = .next s1)
        ∧ (due = true → ∃ s', exec (.msixSend vec t) s = .next s' ∧ { s' with host := h } = s1 ∧ s'.host.msixSent = h.msixSent ++ [vec]
            ∧ (∀ w, w ∈ s'.host.msixPend ↔ w ∈ h.msixPend ∧ w ≠ vec) ∧ Tbl.find? s'.host.msixLast vec = some s1.time.now))

/-- R560, R562 to R564, R698, R703: the port's loss drops its modules and CACHE_EN and is a package event; its return reports the time it was
away and the package events owed; a module lost halves the link, the last one ends it. -/
def Sys2Proof.Claims.HostLinkResults : Prop :=
  ∀ (s : State),
    let h := s.host
    let pkg (src : Nat) : Ev := { code := 0x0907, cls := 3, arg0 := BitVec.ofNat 32 src, arg1 := 0, time := s.time.now }
    (h.link < 2 → exec .hostLinkDown s = .next s)
    ∧ (2 ≤ h.link → exec .hostLinkDown s = .next { s with
        host := { h with link := 0, ioUp := false, cacheEn := false, modules := 0, linkLoss := true, losses := h.losses + 1, downAt := s.time.now },
        evs := s.evs ++ [pkg 1] })
    ∧ (∀ t : W64, let s1 := advance s t
        ((2 ≤ h.link ∨ s.trust.phase < 5) → exec (.hostLinkRestored t) s = .next s1)
        ∧ (h.link < 2 → 5 ≤ s.trust.phase → ∃ s', exec (.hostLinkRestored t) s = .next s' ∧ s'.host = { h with link := 2, ioUp := true, modules := 15 }
            ∧ s'.evs = s.evs ++ [{ code := 0x0703, cls := 3, arg1 := (s1.time.now - h.downAt) / 16, time := s1.time.now }]
                ++ s.flt.owed.map (fun n => { pkg n with time := s1.time.now })
            ∧ s'.flt = { s.flt with owed := [], pkgHold := s.flt.pkgHold.filter (fun k => k != 1) } ∧ s'.pwr.refclk = true ∧ s'.mem = s.mem))
    ∧ (∀ m, ((h.link < 2 ∨ h.modules.getLsbD m = false) → exec (.moduleLost m) s = .next s)
        ∧ (2 ≤ h.link → h.modules.getLsbD m = true → ∃ s', exec (.moduleLost m) s = .next s' ∧ s'.host.moduleLost = true ∧ s'.evs = s.evs ++ [pkg 1]
            ∧ ((∃ k, k ≠ m ∧ h.modules.getLsbD k = true) → s'.host.link = 3 ∧ s'.host.cacheEn = h.cacheEn ∧ (∀ k, s'.host.modules.getLsbD k = true ↔ k ≠ m ∧ h.modules.getLsbD k = true))
            ∧ ((∀ k, k ≠ m → h.modules.getLsbD k = false) → s'.host.link = 0 ∧ s'.host.cacheEn = false ∧ s'.host.losses = h.losses + 1)))
    ∧ (∀ a, (h.link < 2 → exec (.hostSnoop a) s = .next s) ∧ (2 ≤ h.link → exec (.hostSnoop a) s = .next { s with host := { h with snoops := h.snoops ++ [a] } }))
    ∧ (let still := (∀ r, r < 16 → (ringOf s r).zeroPend = false) ∧ h.evqZero = false
       let noArm := ∀ p, p < 64 → (turnOf s p).armPend = false
       let on : State := { s with host := { h with cacheEn := true } }
       (∀ en, (en = false ∨ h.link < 2) → exec (.cacheEnChange en) s = .next { s with host := { h with cacheEn := false } })
       ∧ (2 ≤ h.link → still → noArm → exec (.cacheEnChange true) s = .next on)
       ∧ (2 ≤ h.link → noArm → ∃ s', exec (.cacheEnChange true) s = .next s' ∧ s'.host.evqZero = false
           ∧ (∀ r, r < 16 → ringOf s' r = { ringOf s r with zeroPend := false } ∧ ((ringOf s r).zeroPend = true → ∀ q, q < 2 ^ (ringOf s r).log2n →
               memBytes s' ((ringOf s r).resBase + q * 32 + 24) 8 = zeros 8))
           ∧ (h.evqZero = true → ∀ q, q < 2 ^ h.evqLog2n → memBytes s' (h.evqBase + q * 32 + 24) 8 = zeros 8)
           ∧ (∀ b, (∀ r, r < 16 → (ringOf s r).zeroPend = true → ∀ q, q < 2 ^ (ringOf s r).log2n → b < (ringOf s r).resBase + q * 32 + 24 ∨ (ringOf s r).resBase + q * 32 + 32 ≤ b) →
               (h.evqZero = true → ∀ q, q < 2 ^ h.evqLog2n → b < h.evqBase + q * 32 + 24 ∨ h.evqBase + q * 32 + 32 ≤ b) → memByte s' b = memByte s b))
       ∧ (∀ p, p < 64 → 2 ≤ h.link → still → (turnOf s p).armPend = true → (∀ z, z < 64 → z ≠ p → (turnOf s z).armPend = false) →
           let s1 := updTurn on p (fun t => { t with armPend := false })
           exec (.cacheEnChange true) s = .next (if (turnOf s p).st == .idle || (turnOf s p).st == .done then armTurn s1 p else s1)))

/-- R45, R46, R269, R561, R582, R606, Tables 7.1, 15.7, 15.8: the host reads and writes HBM, unit stores and registers through its BARs; an
address with nothing behind it reads as all ones with an event; a register write keeps what the register's own rule keeps.
Where the spec leaves a point open it holds of the model's choices (log entries 69, 70, 111). -/
def Obligations.HostAccessResults : Prop :=
  (∀ (s : State) (bar off n : Nat) (data : List Byte) (wr : Bool), let o := exec (.hostBarAccess bar off wr n data) s
      (barAddr s bar off n = none → o = .next s)
      ∧ (∀ a, barAddr s bar off n = some a →
          ((linkUp s = false ∨ n = 0 ∨ (s.trust.phase ≠ 5 ∧ isReg a = false)) → o = .next s)
          ∧ (linkUp s = true → n ≠ 0 → (s.trust.phase = 5 ∨ isReg a = true) →
              (backed s a n = false → ∃ s', o = .next s' ∧ Claims.OneEvent s s' 0x0201 1 (if wr = true then 1 else 0) a ∧ s'.mem = s.mem
                ∧ s'.host.barRead = if wr = true then s.host.barRead else { data := List.replicate n 0xFF, poison := false })
              ∧ (backed s a n = true → isReg a = true → a % 8 = 0 → n = 8 →
                  (wr = false → served s a = true → o = .next { s with host := { s.host with barRead := { data := leBytes 8 (regRead s a).toNat, poison := false } } })
                  ∧ (wr = true → data.length = 8 → served s a = true → o = .next (regWrite s a (BitVec.ofNat 64 (leNat data))))
                  ∧ (wr = true → data.length = 8 → served s a = false → o = .next s))
              ∧ (backed s a n = true → isReg a = false → barWaits s a n = true → o = .next s)
              ∧ (backed s a n = true → isReg a = false → barWaits s a n = false → Claims.LinesWf s →
                  (wr = false → targetPoison s a n = true → (∀ p, p ∈ s.lines → p.2.poison = true → p.2.dirty = true) →
                    ∃ s', o = .next s' ∧ s'.host.barRead.poison = true ∧ ∀ b, Claims.Coherent s b → viewByte s' b = viewByte s b)
                  ∧ (wr = false → targetPoison s a n = false → (∀ i, i < n → Claims.Coherent s (a + i)) → ∃ s', exec (.hostBarAccess bar off wr n data) s = .next s'
                      ∧ s'.host.barRead = { data := (List.range n).map (fun i => viewByte s (a + i)), poison := false } ∧ ∀ b, Claims.Coherent s b → viewByte s' b = viewByte s b)
                  ∧ (wr = true → data.length = n → targetPoison s a n = false → ∃ s', exec (.hostBarAccess bar off wr n data) s = .next s'
                      ∧ (∀ i, i < n → viewByte s' (a + i) = data.getD i 0)
                      ∧ (∀ b, (b < a ∨ a + n ≤ b) → Claims.Coherent s b → viewByte s' b = viewByte s b) ∧ s'.host = s.host ∧ s'.evs = s.evs)))))
  ∧ (∀ (s : State) (v : W64) (r p st t : Nat),
      exec (.registerWrite (0x600000000000 + 0x20) v) s = .next { s with host := { s.host with
        poisonRx := s.host.poisonRx && !(v.getLsbD 2), moduleLost := s.host.moduleLost && !(v.getLsbD 1),
        linkLoss := s.host.linkLoss && !(v.getLsbD 0) } }
      ∧ exec (.registerWrite (0x600000000000 + 0x28) v) s = .next { s with host := { s.host with aper := BitVec.ofNat 12 v.toNat } }
      ∧ (s.host.evqEn = true → exec (.registerWrite (0x600000000000 + 0x100) v) s = .next s) ∧ (s.host.evqEn = false → exec (.registerWrite (0x600000000000 + 0x100) v) s = .next { s with host := { s.host with evqBase := v.toNat % 2 ^ 48 / 4096 * 4096 } })
      ∧ exec (.registerWrite (0x600000000000 + 0x128) v) s = .next { s with host := { s.host with evqMod := v.toNat / 2 ^ 16 % 2 ^ 16, evqIntEn := v.getLsbD 6, evqVec := v.toNat % 64 } }
      ∧ (r < 16 → (ringOf s r).en = true → exec (.registerWrite (0x600000000000 + 0x1000 + 0x40 * r) v) s = .next s ∧ exec (.registerWrite (0x600000000000 + 0x1008 + 0x40 * r) v) s = .next s)
      ∧ (r < 16 → (ringOf s r).en = false → (∃ s', exec (.registerWrite (0x600000000000 + 0x1000 + 0x40 * r) v) s = .next s' ∧ Claims.OnlyRing s s' r ∧ ringOf s' r = { ringOf s r with base := v.toNat % 2 ^ 48 / 4096 * 4096 })
          ∧ ∃ s', exec (.registerWrite (0x600000000000 + 0x1008 + 0x40 * r) v) s = .next s' ∧ Claims.OnlyRing s s' r ∧ ringOf s' r = { ringOf s r with resBase := v.toNat % 2 ^ 48 / 4096 * 4096 })
      ∧ (p < 64 → turnArmed (turnOf s p) = true → ∀ q, q < 0x80 → exec (.registerWrite (0x600000000000 + 0x100200 + 0x80 * p + q) v) s = .next s)
      ∧ (p < 64 → turnArmed (turnOf s p) = false → ∃ s', exec (.registerWrite (0x600000000000 + 0x100210 + 0x80 * p) v) s = .next s' ∧ { s' with turns := s.turns } = s ∧ (∀ q, q ≠ p → turnOf s' q = turnOf s q)
          ∧ turnOf s' p = { turnOf s p with tgtEpoch := BitVec.ofNat 16 (v.toNat / 2 ^ 32), tgtSlot := v.toNat / 2 ^ 8 % 64, tgtSet := v.toNat % 256 })
      ∧ exec (.registerWrite (0x600000000000 + 0x230000) v) s = .next { s with dlmEn := v.getLsbD 0 }
      ∧ (v.toNat % 256 = 0 → exec (.registerWrite (0x600000000000 + 0x300018) v) s = .next s) ∧ (v.toNat % 256 ≠ 0 → exec (.registerWrite (0x600000000000 + 0x300018) v) s = .next { s with fab := { s.fab with hopBudget := v.toNat % 256 } })
      ∧ (t < 12 → ∃ s', exec (.registerWrite (0x600000000000 + 0x300100 + 8 * t) v) s = .next s' ∧ { s' with fab := s.fab } = s ∧ { s'.fab with trunk := s.fab.trunk } = s.fab
          ∧ trunkPorts s' t = bitList 12 v.toNat ∧ ∀ z, z ≠ t → trunkPorts s' z = trunkPorts s z)
      ∧ (st < 24 → ∃ s', exec (.registerWrite (0x600000000000 + 0x400030 + 0x100 * st) v) s = .next s' ∧ seOf s' st = { seOf s st with scrubInt := if v.toNat % 2 ^ 16 = 0 then (seOf s st).scrubInt else v.toNat % 2 ^ 16 }
          ∧ { s' with se := s.se } = s ∧ ∀ z, z ≠ st → seOf s' z = seOf s z)
      ∧ exec (.registerWrite (0x600000000000 + 0x500018) v) s = .next { s with trust := { s.trust with stageAddr := v.toNat % 2 ^ 48 / 4096 * 4096 } }
      ∧ (p < 12 → ∃ s', exec (.registerWrite (0x600000000000 + 0x600200 + 8 * p) v) s = .next s' ∧ Claims.OnlyPort s s' p ∧ portOf s' p = { portOf s p with altEn := v.getLsbD 63, alt := BitVec.ofNat 12 v.toNat })
      ∧ exec (.registerWrite (0x600000000000 + 0x700028) v) s = .next { s with time := { s.time with
        eRole := s.time.eRole && !(v.getLsbD 4), eBusy := s.time.eBusy && !(v.getLsbD 3), eBack := s.time.eBack && !(v.getLsbD 2),
        eRef := s.time.eRef && !(v.getLsbD 1), ePps := s.time.ePps && !(v.getLsbD 0) } }
      ∧ exec (.registerWrite (0x600000000000 + 0x0008) v) s = .next s ∧ exec (.registerWrite (0x600000000000 + 0x300030) v) s = .next s ∧ exec (.registerWrite (0x600000000000 + 0x500040) v) s = .next s ∧ exec (.registerWrite (0x600000000000 + 0x700118) v) s = .next s)

/-! ## Start-up, supplies, staging -/

/-- R587, R590, R592, R593, R600 to R602, R604 to R607, R610, Tables 16.7 to 16.9: the boot picks the highest usable image and record, or stops in Recovery
or Failed; powering leaves every store zero and the device Ready; a restart keeps the keeping store and host memory alone; a staged object goes to
the slot not in use; commit raises the security numbers; the next key pair has the next generation. -/
def Sys2Proof.Claims.StartUpResults : Prop :=
  (∀ (s : State) (sram : List Byte) (k : List Byte), let t := s.trust
    let key := Config.pufKey (sramBlock sram) (helperBytes t)
    let t1 : TrustSt := { t with kPuf := k }
    (t.phase ≠ 0 → exec (.standbyBoot sram) s = .next s)
    ∧ (t.phase = 0 → key = none → exec (.standbyBoot sram) s = .next { s with trust := { t with phase := 7, fail := 1 } })
    ∧ (t.phase = 0 → key = some k → fwUsable t t.fwA = false → fwUsable t t.fwB = false → exec (.standbyBoot sram) s = .next { s with trust := { t1 with phase := 6, fail := 2 } })
    ∧ (∀ f, t.phase = 0 → key = some k → pickSlot (fwUsable t) t.fwA t.fwB = some f → cfgUsable t t.cfgA = false → cfgUsable t t.cfgB = false →
        exec (.standbyBoot sram) s = .next { s with trust := { t1 with phase := 7, fail := 3, fwSlot := f } })
    ∧ (∀ f c, t.phase = 0 → key = some k → pickSlot (fwUsable t) t.fwA t.fwB = some f → pickSlot (cfgUsable t) t.cfgA t.cfgB = some c →
        let r := (cfgIn t c).items
        ∃ s', exec (.standbyBoot sram) s = .next s'
        ∧ s'.trust.phase = 1 ∧ s'.trust.fwSlot = f ∧ s'.trust.cfgSlot = c ∧ s'.trust.kPuf = k ∧ s'.trust.seed = (unsealed t1).getD []
        ∧ s'.trust.identOk = (unsealed t1).isSome ∧ s'.trust.fail = (if (unsealed t1).isSome = true then 0 else 4)
        ∧ s'.trust.suppBad = suppBad t1 ∧ s'.trust.retest = suppUnits t1 ∧ s'.host = { s.host with t2 := r.t2, t4 := r.t4, holdC := r.holdC } ∧ s'.mem = s.mem ∧ s'.ctxs = s.ctxs
        ∧ (appliedEnts t1 = [] → ∀ u, (u ∈ r.disabled → (unitOf s' u).en = false) ∧ (u ∈ r.spares → u ∉ r.disabled → (unitOf s' u).en = true ∧ (unitOf s' u).spareIn = true)
            ∧ (u ∉ r.disabled → u ∉ r.spares → unitOf s' u = unitOf s u)))
    ∧ (∀ e l, t.supp = e :: l → e.mac ≠ suppMac t [] e → suppBad t = true ∧ appliedEnts t = [] ∧ suppUnits t = ((e :: l).filter (fun y => decide (y.kind < 3))).map (·.arg))
    ∧ (∀ kind a, goodSupp t [] t.supp = t.supp → goodSupp t [] (t.supp ++ [nextSupp t kind a]) = t.supp ++ [nextSupp t kind a])
    ∧ (∀ a b : KsObj, fwUsable t a = true → fwUsable t b = true → pickSlot (fwUsable t) a b = some (decide (a.version < b.version)))
    ∧ (∀ l n, (s.pwr.thermtrip = true ∨ t.phase = 0 ∨ t.phase = 5 ∨ (t.phase < 5 ∧ n ≤ t.phase)) → exec (.powering l n) s = .next s)
    ∧ (∀ l n, s.pwr.thermtrip = false → (t.phase = 6 ∨ t.phase = 7) → exec (.powering l n) s = .next { s with
        pwr := { s.pwr with v12 := true }, host := { s.host with link := 2, ioUp := true, modules := 15 } })
    ∧ (∀ l, s.pwr.thermtrip = false → t.phase = 1 → ∃ s', exec (.powering l 2) s = .next s' ∧ s'.trust = { t with phase := 2 } ∧ s'.host = s.host ∧ s'.evs = s.evs
        ∧ s'.pwr.st = .saving ∧ s'.pwr.v12 = true ∧ s'.pwr.trims = (runCfg t).items.trims ∧ s'.lines = [] ∧ (∀ a, isHost a = false → memByte s' a = 0)
        ∧ ∀ a, isHost a = true → memByte s' a = memByte s a)
    ∧ (s.pwr.thermtrip = false → t.phase = 2 → exec (.powering [] 3) s = .next { s with
        trust := { t with phase := 3 }, host := { s.host with link := if s.host.link = 0 then 1 else s.host.link } })
    ∧ (s.pwr.thermtrip = false → t.phase = 3 → exec (.powering [] 4) s = .next { s with
        trust := { t with phase := 4 }, host := { s.host with link := 2, ioUp := true, modules := 15 } })
    ∧ (∀ d, d < 8 → s.pwr.thermtrip = false → t.phase = 2 → dieOutOf s d = false → ∃ s', exec (.powering [d] 3) s = .next s' ∧ s'.trust.phase = 3 ∧ dieOutOf s' d = true
        ∧ s'.trust.fail = (if t.fail = 0 then 5 else t.fail) ∧ ∀ i, i < 32 → (unitOf s' (32 * d + i)).en = false)
    ∧ (∀ st, st < 24 → s.pwr.thermtrip = false → t.phase = 3 → ∃ s', exec (.powering [8 + st] 4) s = .next s' ∧ s'.trust.phase = 4 ∧ (seOf s' st).failed = true
        ∧ s'.trust.fail = (if t.fail = 0 then 6 else t.fail))
    ∧ (∀ u, u < 256 → s.pwr.thermtrip = false → t.phase = 4 → t.retest = [] → (∀ z, z < 256 → (unitOf s z).quar ≠ .quarantined) → ∃ s', exec (.powering [32 + u] 5) s = .next s'
        ∧ s'.trust.phase = 5 ∧ s'.trust.fail = (if t.fail = 0 then 7 else t.fail)
        ∧ ((spareFree s u && !(unitOf s u).spareIn) = true → (unitOf s' u).en = true ∧ (unitOf s' u).spareIn = true)
        ∧ ((spareFree s u && !(unitOf s u).spareIn) = false → (unitOf s' u).en = false ∧ (unitOf s' u).quar = .quarantined))
    ∧ (∀ u, u < 256 → s.pwr.thermtrip = false → t.phase = 4 → t.retest = [u] → (unitOf s u).quar = .quarantined → ∃ s', exec (.powering [] 5) s = .next s'
        ∧ (unitOf s' u).en = true ∧ (unitOf s' u).quar = .inService ∧ s'.trust.retest = [])
    ∧ (s.pwr.thermtrip = false → t.phase = 1 → (∀ u, u < 256 → (unitOf s u).quar ≠ .quarantined) → ∃ s', exec (.powering [] 5) s = .next s' ∧ s'.trust.phase = 5
        ∧ s'.trust.fail = t.fail ∧ s'.pwr.st = .saving ∧ s'.pwr.v12 = true ∧ s'.host.link = 2 ∧ s'.host.modules = 15 ∧ s'.lines = []
        ∧ (∀ a, isHost a = false → memByte s' a = 0) ∧ (∀ a, isHost a = true → memByte s' a = memByte s a) ∧ s'.flt.owed = [] ∧ s'.evs.length = s.evs.length + s.flt.owed.length)
    ∧ (let reset (s' : State) : Prop := s'.trust.phase = 0 ∧ s'.trust.fail = 0 ∧ s'.ctxs = [] ∧ s'.res = [] ∧ s'.units = [] ∧ s'.sets = [] ∧ s'.slots = [] ∧ s'.turns = []
          ∧ s'.ports = [] ∧ s'.groups = [] ∧ s'.fab = {} ∧ s'.host = {} ∧ s'.evs = [] ∧ s'.flt = {} ∧ s'.time = {} ∧ s'.pwr.st = .saving ∧ s'.pwr.tripped = s.pwr.tripped
          ∧ s'.trust.fwA = t.fwA ∧ s'.trust.fwB = t.fwB ∧ s'.trust.cfgA = t.cfgA ∧ s'.trust.cfgB = t.cfgB ∧ s'.trust.supp = t.supp ∧ s'.trust.suppSeq = t.suppSeq
          ∧ s'.trust.fwSvn = t.fwSvn ∧ s'.trust.cfgSvn = t.cfgSvn ∧ s'.trust.kemGen = t.kemGen ∧ s'.trust.keys = []
          ∧ s'.trust.helper = t.helper ∧ s'.trust.sealed = t.sealed ∧ s'.trust.cert = t.cert ∧ s'.trust.writes = t.writes ∧ s'.trust.sigNext = t.sigNext
          ∧ s'.trust.serial = t.serial ∧ s'.trust.kPuf = [] ∧ s'.trust.seed = []
          ∧ (∀ a, isHost a = false → memByte s' a = 0) ∧ ∀ a, isHost a = true → memByte s' a = memByte s a
       (∃ s', exec .bootCtlRestart s = .next s' ∧ reset s' ∧ s'.pwr.thermtrip = s.pwr.thermtrip) ∧ (∃ s', exec .resetN s = .next s' ∧ reset s' ∧ s'.pwr.thermtrip = false)
       ∧ ∃ s', exec (.v3p3sbFault true) s = .next s' ∧ reset s'))
  ∧ (∀ (s : State) (cfg : Bool) (w : KsMsg), let t := s.trust
      let n := t.stageLen
      let bs := memBytes s t.stageAddr n
      let range := isHost t.stageAddr && decide (t.stageAddr + n ≤ addrEnd) && decide (n ≤ objSlotSize t.fwCfg) && decide (64 ≤ n)
      let o := exec (.fwStageComplete w) s
      (t.fwBusy = true → exec (.fwCtlWrite cfg) s = .next s ∧ exec .fwCtlCommit s = .next s)
      ∧ (t.fwBusy = false → exec (.fwCtlWrite cfg) s = .next { s with trust := { t with fwBusy := true, fwCfg := cfg } }
          ∧ exec .fwCtlCommit s = .next { s with trust := { t with
            fwSvn := BitVec.ofNat 32 (max t.fwSvn.toNat (runFw t).svn), cfgSvn := BitVec.ofNat 32 (max t.cfgSvn.toNat (runCfg t).version),
            fwResult := 0, writes := t.writes + 1 } })
      ∧ (∀ c, c ≠ t.writes → ksCurrent t bs (ownMsg { t with writes := c } bs) = false)
      ∧ (t.fwBusy = false → o = .next s)
      ∧ (t.fwBusy = true → range = false → o = .next { s with trust := { t with fwBusy := false, fwResult := 1 } })
      ∧ (t.fwBusy = true → range = true → s.host.cacheEn = false → o = .next s)
      ∧ (t.fwBusy = true → range = true → s.host.cacheEn = true → rawPoison s t.stageAddr n = true → ∃ s', o = .next s' ∧ s'.trust = { t with fwBusy := false, fwResult := 1 }
          ∧ s'.evs = s.evs)
      ∧ (t.fwBusy = true → range = true → s.host.cacheEn = true → rawPoison s t.stageAddr n = false →
          (objVerifies t.fwCfg bs = false → ∃ s', o = .next s' ∧ s'.trust = { t with fwBusy := false, fwResult := 2 }
            ∧ Claims.OneEvent s s' 0x0801 2 (if t.fwCfg = true then 2 else 1) 0)
          ∧ (∀ k, stageResult t t.fwCfg bs = some k → ∃ s', o = .next s' ∧ s'.trust = { t with fwBusy := false, fwResult := k })
          ∧ (stageResult t t.fwCfg bs = none → w ≠ ownMsg t bs → o = .next { s with trust := { t with fwBusy := false, fwResult := 5 } })
          ∧ (stageResult t t.fwCfg bs = none → w = ownMsg t bs → ∃ s', exec (.fwStageComplete w) s = .next s' ∧ { s' with trust := t } = s ∧ s'.trust.fwResult = 0
              ∧ s'.trust.fwBusy = false ∧ s'.trust.writes = t.writes + 1 ∧ runFw s'.trust = runFw t ∧ runCfg s'.trust = runCfg t
              ∧ (t.fwCfg = false → fwIn s'.trust (!t.fwSlot) = stageObj bs) ∧ (t.fwCfg = true → cfgIn s'.trust (!t.cfgSlot) = stageObj bs)))
      ∧ exec .kemCtlNext s = .next { s with trust := { t with kemGen := t.kemGen + 1, writes := t.writes + 1 } })

/-- R685, R696 to R699, R703: loss of V12 takes all but the standby domain and host memory and owes its package event; V3P3SB out of range is a package event;
without its reference clock the device stops its islands, its ports and its host link. -/
def Sys2Proof.Claims.SupplyFaults : Prop :=
  ∀ (s : State),
    (s.pwr.v12 = false → exec .v12Fault s = .next s ∧ exec (.v3p3sbFault false) s = .next s)
    ∧ (s.pwr.v12 = true → ∃ s', exec .v12Fault s = .next s' ∧ s'.pwr.v12 = false ∧ s'.pwr.st = .off ∧ s'.flt.owed = s.flt.owed ++ [6] ∧ s'.ctxs = [] ∧ s'.res = []
        ∧ s'.lines = [] ∧ s'.host = { ({} : HostSt) with t2 := s'.host.t2, t4 := s'.host.t4, holdC := s'.host.holdC } ∧ (booted s.trust = true → s'.trust.phase = 1
            ∧ s'.host.t2 = (runCfg s.trust).items.t2 ∧ s'.host.t4 = (runCfg s.trust).items.t4 ∧ s'.host.holdC = (runCfg s.trust).items.holdC) ∧ s'.time = s.time ∧ s'.trust.identOk = s.trust.identOk ∧ s'.trust.keys = []
        ∧ (∀ a, isHost a = false → memByte s' a = 0) ∧ ∀ a, isHost a = true → memByte s' a = memByte s a)
    ∧ (s.pwr.v12 = true → ∃ s', exec (.v3p3sbFault false) s = .next s' ∧ { s' with evs := s.evs } = s ∧ Claims.OneEvent s s' 0x0907 3 7 0)
    ∧ (s.pwr.refclk = false → exec .refclkLoss s = .next s)
    ∧ (s.pwr.refclk = true → ∃ s', exec .refclkLoss s = .next s' ∧ s'.pwr.refclk = false ∧ s'.flt.owed = s.flt.owed ++ [8] ∧ s'.host.link < 2
        ∧ (2 ≤ s.host.link → s'.host.cacheEn = false ∧ s'.host.losses = s.host.losses + 1) ∧ (∀ p, p < 12 → isUp s' p = false) ∧ (∀ c, c ∈ s.pwr.islands → c ∉ s'.pwr.islands))

/-! ## Fabric time -/

/-- R653 to R662, R664, Tables 18.3, 18.8: time never goes back but by TIME_SET on an idle root; offsets beyond 1 µs are stepped forward only with no
context loaded and slewed otherwise; a hundred tight exchanges lock, a lost source holds over with its event.
Where the spec leaves a point open it holds of the model's choices (log entries 90, 91). -/
def Obligations.TimeResults : Prop :=
  ∀ (s : State) (t : W64),
    let s1 := advance s t
    let src := s.time.src
    (∀ v : W64, let behind := v = s.time.now ∨ 2 ^ 63 ≤ (v - s.time.now).toNat
      (s.time.root = false → exec (.timeSet v) s = .next { s with time := { s.time with eRole := true } })
      ∧ (s.time.root = true → s.ctxs = [] → ¬ behind → exec (.timeSet v) s = .next { s with time := { s.time with now := v } })
      ∧ (s.time.root = true → s.ctxs ≠ [] → ∃ s', exec (.timeSet v) s = .next s' ∧ s'.time.now = s.time.now ∧ s'.time.eBusy = true ∧ { s' with time := s.time } = s)
      ∧ (s.time.root = true → v ≠ s.time.now → behind → ∃ s', exec (.timeSet v) s = .next s' ∧ s'.time.now = s.time.now ∧ s'.time.eBack = true ∧ { s' with time := s.time } = s))
    ∧ (∀ v : W64, ∃ s', exec (.timeCtl v) s = .next s' ∧ s'.time.root = v.getLsbD 0 ∧ s'.time.src = v.toNat / 4 % 4 ∧ s'.time.ppsOutEn = v.getLsbD 4
        ∧ s'.time.upPorts = BitVec.ofNat 12 (v.toNat / 2 ^ 16) ∧ s'.time.now = s.time.now
        ∧ (v.getLsbD 0 = true → v.toNat / 4 % 4 = 0 → s'.time.disc = .free ∧ s'.time.ppb = 0)
        ∧ (v.getLsbD 0 = true → v.toNat / 4 % 4 ≠ 0 → s.time.disc = .free → s'.time.disc = .acquiring))
    ∧ (∀ p str t1 t2 t3 t4, ((portOf s p).st ≠ .up → exec (.timing p str t1 t2 t3 t4) s = .next s)
        ∧ ((portOf s p).st = .up → ∃ s', exec (.timing p str t1 t2 t3 t4) s = .next s' ∧ (portOf s' p).nbStratum = min 255 str
            ∧ (portOf s' p).stamps = [(portOf s p).stamps.headD 0, s.time.now] ∧ s'.mem = s.mem
            ∧ (s.time.root = true → s'.time = s.time)
            ∧ (s.time.root = false → (∀ q, s.time.upPorts.getLsbD q = true → q = p) → s.time.upPorts.getLsbD p = true → p < 12 → str < 255 → s.time.upPort = some p →
                (s.time.disc = .acquiring ∨ s.time.disc = .locked) → (portOf s p).offs = [] →
                let off := (serialDiff t2 t1 - serialDiff t4 t3) / 2
                (-64 ≤ off → off ≤ 64 → s'.time.now = s.time.now ∧ s'.time.offs = off ∧ s'.time.ppb = 0
                  ∧ (s.time.disc = .acquiring → s.time.good + 1 < 100 → s'.time.disc = .acquiring ∧ s'.time.good = s.time.good + 1)
                  ∧ (s.time.disc = .acquiring → 100 ≤ s.time.good + 1 → s'.time.disc = .locked))
                ∧ (off < -16000 → s.ctxs = [] → s'.time.now = s.time.now + BitVec.ofInt 64 (-off) ∧ s'.time.offs = 0)
                ∧ (off < -64 → s.ctxs ≠ [] → s'.time.now = s.time.now ∧ s'.time.offs = off ∧ 0 ≤ s'.time.ppb.toInt ∧ s'.time.ppb.toInt ≤ 1000000)
                ∧ (64 < off → s'.time.now = s.time.now ∧ s'.time.offs = off ∧ -1000000 ≤ s'.time.ppb.toInt ∧ s'.time.ppb.toInt ≤ 0))))
    ∧ (∀ p, ((portOf s p).st ≠ .up → exec (.timingSend p t) s = .next s1)
        ∧ ((portOf s p).st = .up → ∃ s', exec (.timingSend p t) s = .next s' ∧ { s' with ports := s.ports } = s1
            ∧ (portOf s' p).words = (portOf s p).words ++ [{ kind := 3, args := stratum s1 :: (portOf s p).stamps.map (·.toNat) }]
            ∧ (portOf s' p).stamps = [s1.time.now, (portOf s p).stamps.getD 1 0]))
    ∧ (let takes := s.time.root && (src == 1 || src == 3)
       let off := secondOffs s1.time.now.toNat
       (takes = false → exec (.ppsIn t) s = .next s1)
       ∧ (takes = true → ∃ s', exec (.ppsIn t) s = .next s' ∧ s'.mem = s.mem
           ∧ ((s.time.disc = .free ∨ s.time.disc = .holdover) → s'.time.disc = .acquiring)
           ∧ (off < -16000 → s.ctxs = [] → s'.time.now = s1.time.now + BitVec.ofInt 64 (-off))
           ∧ ((-16000 ≤ off ∨ s.ctxs ≠ []) → s'.time.now = s1.time.now ∧ s'.time.offs = off)))
    ∧ (exec (.ppsOut t) s = .next { s1 with time := { s1.time with ppsOut := s.time.ppsOutEn && decide (s1.time.now.toNat % 16000000000 < 160000) } })
    ∧ (let back := s.time.root && (src == 2 || src == 3) && s.time.disc == .holdover
       (back = false → exec .ref10mInReturn s = .next s)
       ∧ (back = true → exec .ref10mInReturn s = .next { s with time := { s.time with disc := .acquiring, good := 0, fromHold := true } }))
    ∧ (∀ cause, let lost := lostSource s1 cause && (s.time.disc == .locked || s.time.disc == .acquiring)
        (lost = false → exec (.disciplineLoss cause t) s = .next s1)
        ∧ (lost = true → ∃ s', exec (.disciplineLoss cause t) s = .next s' ∧ s'.time.disc = .holdover ∧ s'.time.good = 0 ∧ s'.time.now = s1.time.now
            ∧ Claims.OneEvent s1 s' 0x0A02 1 0 0 ∧ (cause = 1 → s'.time.ePps = true) ∧ (cause = 2 → s'.time.eRef = true)))
    ∧ (let near := decide (0xC000000000000000 ≤ s1.time.now.toNat)
       (near = true → s.time.approach = false → ∃ s', exec (.fabricTimeApproach t) s = .next s' ∧ s'.time.approach = true ∧ Claims.OneEvent s1 s' 0x0A01 1 1 0)
       ∧ ((near = false ∨ s.time.approach = true) → exec (.fabricTimeApproach t) s = .next { s1 with time := { s1.time with approach := s.time.approach && near } }))


/-! ## Reset and memory -/

/-- R582, Tables 7.3, 8.10, 12.6, 12.14, 13.17, 14.12, 15.8, 16.14, 17.7, 18.8: after reset every register whose reset value the tables state reads as it,
no command waits, memory is in its canonical form and lists nothing, and nothing is loaded.
Where the spec leaves a point open it holds of the model's choices (log entries 2, 3). -/
def Obligations.ResetValues : Prop :=
  let reg (o : Nat) : Nat := (regRead State.reset (0x600000000000 + o)).toNat
  let sc (r o : Nat) : Nat := (regRead State.reset (0x400000000000 + 0x10000 * r + o)).toNat
  State.reset.pending = [] ∧ State.reset.mem = [] ∧ Memory.wf State.reset.mem = true ∧ State.reset.ctxs = [] ∧ State.reset.trust.phase = 0
    ∧ (∀ r, r < 16 → sc r 0 = r ∧ sc r 0x1000 = 1 ∧ sc r 0x1020 = 100 ∧ (∀ i, i < 10 → sc r (0x08 + 8 * i) = 0) ∧ sc r 0x1010 = 0 ∧ sc r 0x1018 = 0
        ∧ ∀ p, p < 64 → sc r (0x1100 + 8 * p) = 0)
    ∧ (reg 0x18 = 0 ∧ reg 0x20 = 0 ∧ reg 0x28 = 0 ∧ reg 0x30 = 0 ∧ reg 0x100 = 0 ∧ reg 0x108 = 0x100200 ∧ reg 0x110 = 0 ∧ reg 0x118 = 0 ∧ reg 0x120 = 0
        ∧ reg 0x128 = 0 ∧ reg 0x200 = 0x695F55 ∧ ∀ i, i < 24 → reg (0x208 + 8 * i) = 0)
    ∧ (∀ r, r < 16 → reg (0x1010 + 0x40 * r) = 0x400 ∧ ∀ i, i < 8 → i ≠ 2 → i ≠ 3 → reg (0x1000 + 0x40 * r + 8 * i) = 0)
    ∧ (∀ p, p < 64 → reg (0x100000 + 8 * p) = 0 ∧ ∀ i, i < 11 → reg (0x100200 + 0x80 * p + 8 * i) = 0)
    ∧ (∀ n, n < 256 → reg (0x102200 + 8 * n) = 0) ∧ (∀ c, c < 64 → ∀ i, i < 4 → reg (0x102A00 + 0x20 * c + 8 * i) = 0)
    ∧ (∀ a, a < 4096 → reg (0x200000 + 16 * a) = 0 ∧ reg (0x200008 + 16 * a) = 0) ∧ (∀ n, n < 16384 → reg (0x210000 + 8 * n) = 0)
    ∧ (reg 0x230000 = 1 ∧ reg 0x230008 = 0 ∧ reg 0x230010 = 0 ∧ ∀ r, r < 16 → ∀ i, i < 4 → reg (0x230100 + 0x20 * r + 8 * i) = 0)
    ∧ (reg 0x300000 = 0xFFFFF ∧ reg 0x300008 = 0 ∧ reg 0x300010 = 1 ∧ reg 0x300018 = 16 ∧ reg 0x300020 = 1000 ∧ (∀ i, i < 8 → reg (0x300028 + 8 * i) = 0))
    ∧ (∀ p, p < 12 → reg (0x300100 + 8 * p) = 0 ∧ ∀ i, i < 8 → reg (0x300200 + 0x40 * p + 8 * i) = 0)
    ∧ (∀ e, e < 256 → reg (0x301000 + 0x10 * e) = 0 ∧ reg (0x301008 + 0x10 * e) = 0) ∧ (∀ w, w < 64 → ∀ i, i < 3 → reg (0x302000 + 0x20 * w + 8 * i) = 0)
    ∧ (∀ g, g < 1024 → reg (0x303000 + 0x10 * g) = 0 ∧ reg (0x303008 + 0x10 * g) = 0)
    ∧ (∀ st, st < 24 → reg (0x400000 + 0x100 * st) = st ∧ reg (0x400030 + 0x100 * st) = 24 ∧ ∀ i, i < 12 → i ≠ 0 → i ≠ 6 → reg (0x400000 + 0x100 * st + 8 * i) = 0)
    ∧ (reg 0x500000 = 0 ∧ reg 0x500008 = 0 ∧ reg 0x500018 = 0 ∧ reg 0x500020 = 0 ∧ reg 0x500030 = 0 ∧ (∀ k, k < 4 → reg (0x500070 + 8 * k) = 0) ∧ reg 0x5000B0 = 0 ∧ reg 0x5000B8 = 0)
    ∧ (reg 0x600000 = 0 ∧ reg 0x600010 = 0 ∧ reg 0x600018 = 0 ∧ reg 0x600020 = 0 ∧ reg 0x600028 = 0 ∧ (∀ i, i < 6 → reg (0x600040 + 8 * i) = 0)
        ∧ (∀ p, p < 12 → reg (0x600200 + 8 * p) = 0) ∧ (∀ u, u < 256 → reg (0x600400 + 8 * u) = 0) ∧ ∀ st, st < 24 → reg (0x600C00 + 0x20 * st) = 0 ∧ reg (0x600C08 + 0x20 * st) = 0)
    ∧ (reg 0x700000 = 0 ∧ reg 0x700008 = 0 ∧ reg 0x700018 = 0xFF00 ∧ reg 0x700020 = 0 ∧ reg 0x700028 = 0 ∧ reg 0x700100 = 1 ∧ reg 0x700108 = 100 ∧ reg 0x700110 = 0
        ∧ reg 0x700118 = 0 ∧ (∀ d, d < 8 → reg (0x700200 + 8 * d) = 0) ∧ reg 0x700240 = 0 ∧ reg 0x700248 = 0 ∧ reg 0x700250 = 0 ∧ ∀ d, d < 10 → reg (0x700400 + 8 * d) = 0)

/-- R274, R275, R278, R308 to R311, R710: equal memories are equal lists; a write to clean granules stands there and nowhere else; a poisoned granule
written in part keeps its bytes and its mark, and written whole is clean; a unit that reads what it wrote over the unit path reads it back.
Where the spec leaves a point open it holds of the model's choices (log entry 2). -/
def Obligations.MemoryWrites : Prop :=
  (∀ m n : List Host.Cell, Memory.wf m = true → Memory.wf n = true → (∀ a, Tbl.get 0 m a = Tbl.get 0 n a) → m = n)
  ∧ (∀ (m : List Host.Cell) (a b : Nat) (bs : List Byte), Tbl.get 0 (putBytes m a bs) b = if a ≤ b ∧ b < a + bs.length then bs.getD (b - a) 0 else Tbl.get 0 m b)
  ∧ (∀ (s : State) (a : Nat) (bs : List Byte), (∀ i, i < bs.length → granSize (a + i) = granSize a) →
      (rawPoison s a bs.length = false → (rawWrite s a bs).2 = false ∧ Claims.Stored s (rawWrite s a bs).1 a bs ∧ (rawWrite s a bs).1.poison = s.poison)
      ∧ (∀ g, g = granSize a → a % g + bs.length < g → bs ≠ [] → poisoned s a = true → (rawWrite s a bs).2 = true ∧ (rawWrite s a bs).1 = s)
      ∧ (a % granSize a = 0 → bs.length = granSize a → addrFailed s a = false → (rawWrite s a bs).2 = false ∧ Claims.Stored s (rawWrite s a bs).1 a bs
          ∧ poisoned (rawWrite s a bs).1 a = false))
  ∧ (∀ (s : State) (a hint : Nat) (part : Option Nat) (bs : List Byte), hint ≤ 2 → bs ≠ [] → (a + bs.length ≤ hbmEnd ∨ (usWin ≤ a ∧ a + bs.length ≤ usWinEnd)) →
      Claims.LinesWf s → targetPoison s a bs.length = false →
      let t := (devWrite s a bs hint part).1
      (devWrite s a bs hint part).2 = false ∧ (devRead t a bs.length hint part).2 = (bs, false)
        ∧ ∀ b, (b < a ∨ a + bs.length ≤ b) → Claims.Coherent s b → viewByte t b = viewByte s b)

/-- From every state whose memory is in its canonical form (addresses strictly rising, no listed byte 0), every step, whatever command it carries
out, leaves it in that form, so that the model's memories can be compared as data (the form is the model's own: log entry 2). -/
def Obligations.StepKeepsMemoryCanonical : Prop :=
  ∀ (s t : State), Memory.wf s.mem = true → step s = .next t → Memory.wf t.mem = true

/-- From every state whose home slices hold their lines by rising address, each with its 128 bytes, every step, whatever command it carries out,
leaves them so; the reset state, which holds none, is such a state (the form is the model's own: log entry 83).
Where the spec leaves a point open it holds of the model's choices (log entries 83, 102). -/
def Obligations.StepKeepsLinesWf : Prop :=
  (∀ (s t : State), Claims.LinesWf s → step s = .next t → Claims.LinesWf t) ∧ Claims.LinesWf State.reset

/-! ## The statements made of several parts -/

/-- Every command answers a next state, and an empty queue moves fabric time alone (the model's choice, log entry 1): the statements StepIdleAdvancesTime, EveryCommandAnswersNext, EveryRunIsSafe together. Where the spec leaves a point open it holds of the model's choices (log entries 1, 6). -/
def Obligations.DeviceNeverStops : Prop :=
  Claims.StepIdleAdvancesTime ∧ Claims.EveryCommandAnswersNext ∧ Claims.EveryRunIsSafe

/-- A fetch goes through an extent that grants X or faults at PC, and a fetched word is judged in the order of R228: the statements InstructionFetchOutcomes, FetchNeedsXPermission together. -/
def Obligations.InstructionFetch : Prop :=
  Claims.InstructionFetchOutcomes ∧ Claims.FetchNeedsXPermission

/-- A fill puts its line in the cache; an engine instruction is queued with its registers; code in a unit-store window faults (log 97): the statements IcacheFillCompletes, EngineDispatchCompletes, WindowFetchFaults together. Where the spec leaves a point open it holds of the model's choices (log entries 11, 97). -/
def Obligations.CacheFillAndEngineDispatch : Prop :=
  Claims.IcacheFillCompletes ∧ Claims.EngineDispatchCompletes ∧ Claims.WindowFetchFaults

/-- What each operation of class 0x0 writes, and that g0 and p0 keep their constant: the statements ScalarAluResults, ScalarCountResults, PredicateResults, HardwiredRegisters together. -/
def Obligations.ScalarClass0Results : Prop :=
  Claims.ScalarAluResults ∧ Claims.ScalarCountResults ∧ Claims.PredicateResults ∧ Claims.HardwiredRegisters

/-- Where each branch of class 0x2 goes and what it links, and the fault of a misaligned indirect target: the statements BranchTargets, IndirectBranchMisalignedFaults together. Where the spec leaves a point open it holds of the model's choices (log entry 12). -/
def Obligations.BranchResults : Prop :=
  Claims.BranchTargets ∧ Claims.IndirectBranchMisalignedFaults

/-- What scalar loads and stores read and write, memory elsewhere unchanged, and where they fault: the statements ScalarLoadStoreResults, ScalarAccessFaults together. -/
def Obligations.ScalarMemoryAccess : Prop :=
  Claims.ScalarLoadStoreResults ∧ Claims.ScalarAccessFaults

/-- How an array takes up mm.clr, mm.acc and mm.drain, and what it refuses with a fault: the statements MatrixAccumulateAccepted, MatrixDrainAccepted, MatrixAcceptanceFaults together. Where the spec leaves a point open it holds of the model's choices (log entry 100). -/
def Obligations.MatrixAcceptance : Prop :=
  Claims.MatrixAccumulateAccepted ∧ Claims.MatrixDrainAccepted ∧ Claims.MatrixAcceptanceFaults

/-- A k-step adds the products of its elements to every cell; a drain leaves the cells at its destination: the statements MatrixFeedAndStep, MatrixDrainCompletes together. Where the spec leaves a point open it holds of the model's choices (log entries 23, 25). -/
def Obligations.MatrixProductAndDrain : Prop :=
  Claims.MatrixFeedAndStep ∧ Claims.MatrixDrainCompletes

/-- Sweeps over tile registers, and the moves, clearing and reductions of tiles: the statements SweepResults, TileResults together. Where the spec leaves a point open it holds of the model's choices (log entry 24). -/
def Obligations.TileRegisterResults : Prop :=
  Claims.SweepResults ∧ Claims.TileResults

/-- Comparisons, mask operations, broadcasts, lane numbers, lane flags and cursors: the statements VectorMaskResults, VectorLaneResults together. Where the spec leaves a point open it holds of the model's choices (log entries 24, 122). -/
def Obligations.VectorMaskAndLaneResults : Prop :=
  Claims.VectorMaskResults ∧ Claims.VectorLaneResults

/-- Which words each lane of a vector load reads and of a store writes, and where they fault: the statements VectorLoadResults, VectorStoreResults, VectorAccessFaults together. Where the spec leaves a point open it holds of the model's choices (log entry 22). -/
def Obligations.VectorMemoryAccess : Prop :=
  Claims.VectorLoadResults ∧ Claims.VectorStoreResults ∧ Claims.VectorAccessFaults

/-- Waits, marks and sleeps: what they await, what releases them, and what a wake or a time-out leaves in gd: the statements MarksAndWaits, SleepIssue, SleepWakeResults together. Where the spec leaves a point open it holds of the model's choices (log entries 13, 14, 119). -/
def Obligations.WaitAndSleepResults : Prop :=
  Claims.MarksAndWaits ∧ Claims.SleepIssue ∧ Claims.SleepWakeResults

/-- Signals are sent, delivered, discarded with an event, read and cleared: the statements SignalIssue, SignalDelivery together. Where the spec leaves a point open it holds of the model's choices (log entry 104). -/
def Obligations.SignalResults : Prop :=
  Claims.SignalIssue ∧ Claims.SignalDelivery

/-- A barrier completes for all when all have arrived; a context yields and halts: the statements BarrierResults, YieldAndHalt together. Where the spec leaves a point open it holds of the model's choices (log entries 13, 15). -/
def Obligations.BarrierYieldAndHalt : Prop :=
  Claims.BarrierResults ∧ Claims.YieldAndHalt

/-- What the system instructions return and clear, and how the network changes mode: the statements SystemReads, CrossLaneModeResults together. -/
def Obligations.SystemInstructionResults : Prop :=
  Claims.SystemReads ∧ Claims.CrossLaneModeResults

/-- Remote entries and flags, weight streams, and what a cancel fence stops: the statements RemoteAndStreamEntries, CancelFences together. Where the spec leaves a point open it holds of the model's choices (log entries 28, 29, 30, 59). -/
def Obligations.RemoteStreamAndCancel : Prop :=
  Claims.RemoteAndStreamEntries ∧ Claims.CancelFences

/-- What a built-in stack command and a stack program leave when they end: the statements StackKernelResults, StackProgramResults together. Where the spec leaves a point open it holds of the model's choices (log entries 34, 36, 37, 38, 40, 95, 99, 100, 115). -/
def Obligations.StackKernelsAndPrograms : Prop :=
  Claims.StackKernelResults ∧ Claims.StackProgramResults

/-- Shard loads and reloads, host digests, content keys and attestation reports: the statements ShardCommands, KeysAndReports together. Where the spec leaves a point open it holds of the model's choices (log entries 72, 73, 74, 75, 76, 95). -/
def Obligations.ShardAndKeyCommands : Prop :=
  Claims.ShardCommands ∧ Claims.KeysAndReports

/-- Throttling, power states, clock islands, gating and stack sleep: the statements PowerCommands, IslandsAndSleep together. Where the spec leaves a point open it holds of the model's choices (log entries 87, 88). -/
def Obligations.PowerAndSleepResults : Prop :=
  Claims.PowerCommands ∧ Claims.IslandsAndSleep

/-- Corrected and uncorrectable memory errors, and flushing and reserving the shared cache: the statements MemoryErrorResults, SharedCacheControl together. Where the spec leaves a point open it holds of the model's choices (log entries 81, 83, 101, 102). -/
def Obligations.MemoryErrorAndCacheControl : Prop :=
  Claims.MemoryErrorResults ∧ Claims.SharedCacheControl

/-- Faulty units, clusters, stacks, dies and steward controllers, and what takes their place: the statements UnitRepairResults, FaultAndSparingResults together. Where the spec leaves a point open it holds of the model's choices (log entries 79, 80, 81, 82, 84, 92, 112, 113). -/
def Obligations.FaultAndRepairResults : Prop :=
  Claims.UnitRepairResults ∧ Claims.FaultAndSparingResults

/-- Link words, credit, replay, and the rules of the fabric registers: the statements LinkWordResults, FabricRegisterResults together. Where the spec leaves a point open it holds of the model's choices (log entries 53, 54, 58, 106, 107). -/
def Obligations.LinkAndFabricRegisterResults : Prop :=
  Claims.LinkWordResults ∧ Claims.FabricRegisterResults

/-- The order in which packets are acted on, what a received request writes or refuses, and what an acknowledgement moves on: the statements PacketOrder, RequestsReceived, AcknowledgementsReceived together. Where the spec leaves a point open it holds of the model's choices (log entries 54, 55, 56, 106). -/
def Obligations.RequestsAndAcknowledgements : Prop :=
  Claims.PacketOrder ∧ Claims.RequestsReceived ∧ Claims.AcknowledgementsReceived

/-- Arming, aborting and resending a turn, and how the stacks send its plan: the statements TurnResults, PlanResults together. Where the spec leaves a point open it holds of the model's choices (log entries 49, 50). -/
def Obligations.TurnAndPlanResults : Prop :=
  Claims.TurnResults ∧ Claims.PlanResults

/-- The data of a collective, and every way in which it ends: the statements CollectiveDataResults, CollectiveEnds together. Where the spec leaves a point open it holds of the model's choices (log entries 60, 61, 62, 108). -/
def Obligations.CollectiveDataAndEnds : Prop :=
  Claims.CollectiveDataResults ∧ Claims.CollectiveEnds

/-- Events written or counted as lost, interrupt messages, and the loss and return of the host port: the statements EventQueueResults, HostLinkResults together. Where the spec leaves a point open it holds of the model's choices (log entries 64, 67, 68). -/
def Obligations.EventQueueAndHostLink : Prop :=
  Claims.EventQueueResults ∧ Claims.HostLinkResults

/-- Boot, restart, update and commit, and the loss of supplies and of the reference clock: the statements StartUpResults, SupplyFaults together. Where the spec leaves a point open it holds of the model's choices (log entries 4, 72, 77, 78, 79, 89, 109, 110). -/
def Obligations.StartUpAndSupply : Prop :=
  Claims.StartUpResults ∧ Claims.SupplyFaults
end

