-- ==== Sys2Proof/Laws/State.lean ====
section
/-!
SUPPORT. Sys2Proof/Laws/State.lean: what reading a table gives after a write, and the fields of State after each named update.
-/

namespace Sys2Proof.Tbl

variable {α : Type}

theorem find?_put_same (m : List (Nat × α)) (k : Nat) (v : α) : find? (put m k v) k = some v := by
  induction m with
  | nil => simp [put, find?]
  | cons p t ih =>
    obtain ⟨j, w⟩ := p
    unfold put
    split
    · simp [find?]
    · split
      · simp [find?]
      · rename_i h1 h2
        have h3 : j ≠ k := fun e => h2 e.symm
        simp [find?, h3, ih]

theorem find?_put_other (m : List (Nat × α)) (k j : Nat) (v : α) (h : j ≠ k) : find? (put m k v) j = find? m j := by
  induction m with
  | nil => simp [put, find?, h.symm]
  | cons p t ih =>
    obtain ⟨i, w⟩ := p
    unfold put
    split
    · simp [find?, h.symm]
    · split
      · rename_i h1 h2
        subst h2
        simp [find?, h.symm]
      · simp [find?, ih]

theorem find?_del_same (m : List (Nat × α)) (k : Nat) : find? (del m k) k = none := by
  induction m with
  | nil => rfl
  | cons p t ih =>
    obtain ⟨j, w⟩ := p
    unfold del
    split
    · exact ih
    · rename_i h
      simp [find?, h, ih]

theorem find?_del_other (m : List (Nat × α)) (k j : Nat) (h : j ≠ k) : find? (del m k) j = find? m j := by
  induction m with
  | nil => rfl
  | cons p t ih =>
    obtain ⟨i, w⟩ := p
    unfold del
    split
    · rename_i h1
      subst h1
      simp [find?, h.symm, ih]
    · simp [find?, ih]

@[simp] theorem get_put_same (d : α) (m : List (Nat × α)) (k : Nat) (v : α) : get d (put m k v) k = v := by
  simp [get, find?_put_same]

theorem get_put_other (d : α) (m : List (Nat × α)) (k j : Nat) (v : α) (h : j ≠ k) : get d (put m k v) j = get d m j := by
  simp [get, find?_put_other _ _ _ _ h]

theorem get_set_same [DecidableEq α] (d : α) (m : List (Nat × α)) (k : Nat) (v : α) : get d (set d m k v) k = v := by
  unfold set
  split
  · rename_i h
    simp [get, find?_del_same, h]
  · simp

theorem get_set_other [DecidableEq α] (d : α) (m : List (Nat × α)) (k j : Nat) (v : α) (h : j ≠ k) :
    get d (set d m k v) j = get d m j := by
  unfold set
  split
  · simp [get, find?_del_other _ _ _ h]
  · exact get_put_other _ _ _ _ _ h

end Sys2Proof.Tbl

/-! ## Fields of State after each named update: one lemma for each field that the update leaves -/

namespace Sys2Proof.Machine

/-! ### `setSc` -/

@[simp] theorem setSc_pending (s : State) (r : Nat) (x : ScSt) : (setSc s r x).pending = s.pending := rfl
@[simp] theorem setSc_mem (s : State) (r : Nat) (x : ScSt) : (setSc s r x).mem = s.mem := rfl
@[simp] theorem setSc_poison (s : State) (r : Nat) (x : ScSt) : (setSc s r x).poison = s.poison := rfl
@[simp] theorem setSc_count (s : State) (r : Nat) (x : ScSt) : (setSc s r x).count = s.count := rfl
@[simp] theorem setSc_heldData (s : State) (r : Nat) (x : ScSt) : (setSc s r x).heldData = s.heldData := rfl
@[simp] theorem setSc_lines (s : State) (r : Nat) (x : ScSt) : (setSc s r x).lines = s.lines := rfl
@[simp] theorem setSc_hbm (s : State) (r : Nat) (x : ScSt) : (setSc s r x).hbm = s.hbm := rfl
@[simp] theorem setSc_units (s : State) (r : Nat) (x : ScSt) : (setSc s r x).units = s.units := rfl
@[simp] theorem setSc_ctxs (s : State) (r : Nat) (x : ScSt) : (setSc s r x).ctxs = s.ctxs := rfl
@[simp] theorem setSc_res (s : State) (r : Nat) (x : ScSt) : (setSc s r x).res = s.res := rfl
@[simp] theorem setSc_order (s : State) (r : Nat) (x : ScSt) : (setSc s r x).order = s.order := rfl
@[simp] theorem setSc_signals (s : State) (r : Nat) (x : ScSt) : (setSc s r x).signals = s.signals := rfl
@[simp] theorem setSc_se (s : State) (r : Nat) (x : ScSt) : (setSc s r x).se = s.se := rfl
@[simp] theorem setSc_smp (s : State) (r : Nat) (x : ScSt) : (setSc s r x).smp = s.smp := rfl
@[simp] theorem setSc_eval (s : State) (r : Nat) (x : ScSt) : (setSc s r x).eval = s.eval := rfl
@[simp] theorem setSc_sets (s : State) (r : Nat) (x : ScSt) : (setSc s r x).sets = s.sets := rfl
@[simp] theorem setSc_slots (s : State) (r : Nat) (x : ScSt) : (setSc s r x).slots = s.slots := rfl
@[simp] theorem setSc_turns (s : State) (r : Nat) (x : ScSt) : (setSc s r x).turns = s.turns := rfl
@[simp] theorem setSc_sends (s : State) (r : Nat) (x : ScSt) : (setSc s r x).sends = s.sends := rfl
@[simp] theorem setSc_drv (s : State) (r : Nat) (x : ScSt) : (setSc s r x).drv = s.drv := rfl
@[simp] theorem setSc_adp (s : State) (r : Nat) (x : ScSt) : (setSc s r x).adp = s.adp := rfl
@[simp] theorem setSc_streams (s : State) (r : Nat) (x : ScSt) : (setSc s r x).streams = s.streams := rfl
@[simp] theorem setSc_dlmEn (s : State) (r : Nat) (x : ScSt) : (setSc s r x).dlmEn = s.dlmEn := rfl
@[simp] theorem setSc_diverts (s : State) (r : Nat) (x : ScSt) : (setSc s r x).diverts = s.diverts := rfl
@[simp] theorem setSc_stray (s : State) (r : Nat) (x : ScSt) : (setSc s r x).stray = s.stray := rfl
@[simp] theorem setSc_ports (s : State) (r : Nat) (x : ScSt) : (setSc s r x).ports = s.ports := rfl
@[simp] theorem setSc_groups (s : State) (r : Nat) (x : ScSt) : (setSc s r x).groups = s.groups := rfl
@[simp] theorem setSc_fab (s : State) (r : Nat) (x : ScSt) : (setSc s r x).fab = s.fab := rfl
@[simp] theorem setSc_host (s : State) (r : Nat) (x : ScSt) : (setSc s r x).host = s.host := rfl
@[simp] theorem setSc_evs (s : State) (r : Nat) (x : ScSt) : (setSc s r x).evs = s.evs := rfl
@[simp] theorem setSc_trust (s : State) (r : Nat) (x : ScSt) : (setSc s r x).trust = s.trust := rfl
@[simp] theorem setSc_flt (s : State) (r : Nat) (x : ScSt) : (setSc s r x).flt = s.flt := rfl
@[simp] theorem setSc_time (s : State) (r : Nat) (x : ScSt) : (setSc s r x).time = s.time := rfl
@[simp] theorem setSc_pwr (s : State) (r : Nat) (x : ScSt) : (setSc s r x).pwr = s.pwr := rfl
@[simp] theorem setSc_freeCtr (s : State) (r : Nat) (x : ScSt) : (setSc s r x).freeCtr = s.freeCtr := rfl

/-! ### `updSc` -/

@[simp] theorem updSc_pending (s : State) (r : Nat) (f : ScSt → ScSt) : (updSc s r f).pending = s.pending := rfl
@[simp] theorem updSc_mem (s : State) (r : Nat) (f : ScSt → ScSt) : (updSc s r f).mem = s.mem := rfl
@[simp] theorem updSc_poison (s : State) (r : Nat) (f : ScSt → ScSt) : (updSc s r f).poison = s.poison := rfl
@[simp] theorem updSc_count (s : State) (r : Nat) (f : ScSt → ScSt) : (updSc s r f).count = s.count := rfl
@[simp] theorem updSc_heldData (s : State) (r : Nat) (f : ScSt → ScSt) : (updSc s r f).heldData = s.heldData := rfl
@[simp] theorem updSc_lines (s : State) (r : Nat) (f : ScSt → ScSt) : (updSc s r f).lines = s.lines := rfl
@[simp] theorem updSc_hbm (s : State) (r : Nat) (f : ScSt → ScSt) : (updSc s r f).hbm = s.hbm := rfl
@[simp] theorem updSc_units (s : State) (r : Nat) (f : ScSt → ScSt) : (updSc s r f).units = s.units := rfl
@[simp] theorem updSc_ctxs (s : State) (r : Nat) (f : ScSt → ScSt) : (updSc s r f).ctxs = s.ctxs := rfl
@[simp] theorem updSc_res (s : State) (r : Nat) (f : ScSt → ScSt) : (updSc s r f).res = s.res := rfl
@[simp] theorem updSc_order (s : State) (r : Nat) (f : ScSt → ScSt) : (updSc s r f).order = s.order := rfl
@[simp] theorem updSc_signals (s : State) (r : Nat) (f : ScSt → ScSt) : (updSc s r f).signals = s.signals := rfl
@[simp] theorem updSc_se (s : State) (r : Nat) (f : ScSt → ScSt) : (updSc s r f).se = s.se := rfl
@[simp] theorem updSc_smp (s : State) (r : Nat) (f : ScSt → ScSt) : (updSc s r f).smp = s.smp := rfl
@[simp] theorem updSc_eval (s : State) (r : Nat) (f : ScSt → ScSt) : (updSc s r f).eval = s.eval := rfl
@[simp] theorem updSc_sets (s : State) (r : Nat) (f : ScSt → ScSt) : (updSc s r f).sets = s.sets := rfl
@[simp] theorem updSc_slots (s : State) (r : Nat) (f : ScSt → ScSt) : (updSc s r f).slots = s.slots := rfl
@[simp] theorem updSc_turns (s : State) (r : Nat) (f : ScSt → ScSt) : (updSc s r f).turns = s.turns := rfl
@[simp] theorem updSc_sends (s : State) (r : Nat) (f : ScSt → ScSt) : (updSc s r f).sends = s.sends := rfl
@[simp] theorem updSc_drv (s : State) (r : Nat) (f : ScSt → ScSt) : (updSc s r f).drv = s.drv := rfl
@[simp] theorem updSc_adp (s : State) (r : Nat) (f : ScSt → ScSt) : (updSc s r f).adp = s.adp := rfl
@[simp] theorem updSc_streams (s : State) (r : Nat) (f : ScSt → ScSt) : (updSc s r f).streams = s.streams := rfl
@[simp] theorem updSc_dlmEn (s : State) (r : Nat) (f : ScSt → ScSt) : (updSc s r f).dlmEn = s.dlmEn := rfl
@[simp] theorem updSc_diverts (s : State) (r : Nat) (f : ScSt → ScSt) : (updSc s r f).diverts = s.diverts := rfl
@[simp] theorem updSc_stray (s : State) (r : Nat) (f : ScSt → ScSt) : (updSc s r f).stray = s.stray := rfl
@[simp] theorem updSc_ports (s : State) (r : Nat) (f : ScSt → ScSt) : (updSc s r f).ports = s.ports := rfl
@[simp] theorem updSc_groups (s : State) (r : Nat) (f : ScSt → ScSt) : (updSc s r f).groups = s.groups := rfl
@[simp] theorem updSc_fab (s : State) (r : Nat) (f : ScSt → ScSt) : (updSc s r f).fab = s.fab := rfl
@[simp] theorem updSc_host (s : State) (r : Nat) (f : ScSt → ScSt) : (updSc s r f).host = s.host := rfl
@[simp] theorem updSc_evs (s : State) (r : Nat) (f : ScSt → ScSt) : (updSc s r f).evs = s.evs := rfl
@[simp] theorem updSc_trust (s : State) (r : Nat) (f : ScSt → ScSt) : (updSc s r f).trust = s.trust := rfl
@[simp] theorem updSc_flt (s : State) (r : Nat) (f : ScSt → ScSt) : (updSc s r f).flt = s.flt := rfl
@[simp] theorem updSc_time (s : State) (r : Nat) (f : ScSt → ScSt) : (updSc s r f).time = s.time := rfl
@[simp] theorem updSc_pwr (s : State) (r : Nat) (f : ScSt → ScSt) : (updSc s r f).pwr = s.pwr := rfl
@[simp] theorem updSc_freeCtr (s : State) (r : Nat) (f : ScSt → ScSt) : (updSc s r f).freeCtr = s.freeCtr := rfl

/-! ### `setUnit` -/

@[simp] theorem setUnit_pending (s : State) (u : Nat) (x : UnitSt) : (setUnit s u x).pending = s.pending := rfl
@[simp] theorem setUnit_mem (s : State) (u : Nat) (x : UnitSt) : (setUnit s u x).mem = s.mem := rfl
@[simp] theorem setUnit_poison (s : State) (u : Nat) (x : UnitSt) : (setUnit s u x).poison = s.poison := rfl
@[simp] theorem setUnit_count (s : State) (u : Nat) (x : UnitSt) : (setUnit s u x).count = s.count := rfl
@[simp] theorem setUnit_heldData (s : State) (u : Nat) (x : UnitSt) : (setUnit s u x).heldData = s.heldData := rfl
@[simp] theorem setUnit_lines (s : State) (u : Nat) (x : UnitSt) : (setUnit s u x).lines = s.lines := rfl
@[simp] theorem setUnit_hbm (s : State) (u : Nat) (x : UnitSt) : (setUnit s u x).hbm = s.hbm := rfl
@[simp] theorem setUnit_sc (s : State) (u : Nat) (x : UnitSt) : (setUnit s u x).sc = s.sc := rfl
@[simp] theorem setUnit_ctxs (s : State) (u : Nat) (x : UnitSt) : (setUnit s u x).ctxs = s.ctxs := rfl
@[simp] theorem setUnit_res (s : State) (u : Nat) (x : UnitSt) : (setUnit s u x).res = s.res := rfl
@[simp] theorem setUnit_order (s : State) (u : Nat) (x : UnitSt) : (setUnit s u x).order = s.order := rfl
@[simp] theorem setUnit_signals (s : State) (u : Nat) (x : UnitSt) : (setUnit s u x).signals = s.signals := rfl
@[simp] theorem setUnit_se (s : State) (u : Nat) (x : UnitSt) : (setUnit s u x).se = s.se := rfl
@[simp] theorem setUnit_smp (s : State) (u : Nat) (x : UnitSt) : (setUnit s u x).smp = s.smp := rfl
@[simp] theorem setUnit_eval (s : State) (u : Nat) (x : UnitSt) : (setUnit s u x).eval = s.eval := rfl
@[simp] theorem setUnit_sets (s : State) (u : Nat) (x : UnitSt) : (setUnit s u x).sets = s.sets := rfl
@[simp] theorem setUnit_slots (s : State) (u : Nat) (x : UnitSt) : (setUnit s u x).slots = s.slots := rfl
@[simp] theorem setUnit_turns (s : State) (u : Nat) (x : UnitSt) : (setUnit s u x).turns = s.turns := rfl
@[simp] theorem setUnit_sends (s : State) (u : Nat) (x : UnitSt) : (setUnit s u x).sends = s.sends := rfl
@[simp] theorem setUnit_drv (s : State) (u : Nat) (x : UnitSt) : (setUnit s u x).drv = s.drv := rfl
@[simp] theorem setUnit_adp (s : State) (u : Nat) (x : UnitSt) : (setUnit s u x).adp = s.adp := rfl
@[simp] theorem setUnit_streams (s : State) (u : Nat) (x : UnitSt) : (setUnit s u x).streams = s.streams := rfl
@[simp] theorem setUnit_dlmEn (s : State) (u : Nat) (x : UnitSt) : (setUnit s u x).dlmEn = s.dlmEn := rfl
@[simp] theorem setUnit_diverts (s : State) (u : Nat) (x : UnitSt) : (setUnit s u x).diverts = s.diverts := rfl
@[simp] theorem setUnit_stray (s : State) (u : Nat) (x : UnitSt) : (setUnit s u x).stray = s.stray := rfl
@[simp] theorem setUnit_ports (s : State) (u : Nat) (x : UnitSt) : (setUnit s u x).ports = s.ports := rfl
@[simp] theorem setUnit_groups (s : State) (u : Nat) (x : UnitSt) : (setUnit s u x).groups = s.groups := rfl
@[simp] theorem setUnit_fab (s : State) (u : Nat) (x : UnitSt) : (setUnit s u x).fab = s.fab := rfl
@[simp] theorem setUnit_host (s : State) (u : Nat) (x : UnitSt) : (setUnit s u x).host = s.host := rfl
@[simp] theorem setUnit_evs (s : State) (u : Nat) (x : UnitSt) : (setUnit s u x).evs = s.evs := rfl
@[simp] theorem setUnit_trust (s : State) (u : Nat) (x : UnitSt) : (setUnit s u x).trust = s.trust := rfl
@[simp] theorem setUnit_flt (s : State) (u : Nat) (x : UnitSt) : (setUnit s u x).flt = s.flt := rfl
@[simp] theorem setUnit_time (s : State) (u : Nat) (x : UnitSt) : (setUnit s u x).time = s.time := rfl
@[simp] theorem setUnit_pwr (s : State) (u : Nat) (x : UnitSt) : (setUnit s u x).pwr = s.pwr := rfl
@[simp] theorem setUnit_freeCtr (s : State) (u : Nat) (x : UnitSt) : (setUnit s u x).freeCtr = s.freeCtr := rfl

/-! ### `updUnit` -/

@[simp] theorem updUnit_pending (s : State) (u : Nat) (f : UnitSt → UnitSt) : (updUnit s u f).pending = s.pending := rfl
@[simp] theorem updUnit_mem (s : State) (u : Nat) (f : UnitSt → UnitSt) : (updUnit s u f).mem = s.mem := rfl
@[simp] theorem updUnit_poison (s : State) (u : Nat) (f : UnitSt → UnitSt) : (updUnit s u f).poison = s.poison := rfl
@[simp] theorem updUnit_count (s : State) (u : Nat) (f : UnitSt → UnitSt) : (updUnit s u f).count = s.count := rfl
@[simp] theorem updUnit_heldData (s : State) (u : Nat) (f : UnitSt → UnitSt) : (updUnit s u f).heldData = s.heldData := rfl
@[simp] theorem updUnit_lines (s : State) (u : Nat) (f : UnitSt → UnitSt) : (updUnit s u f).lines = s.lines := rfl
@[simp] theorem updUnit_hbm (s : State) (u : Nat) (f : UnitSt → UnitSt) : (updUnit s u f).hbm = s.hbm := rfl
@[simp] theorem updUnit_sc (s : State) (u : Nat) (f : UnitSt → UnitSt) : (updUnit s u f).sc = s.sc := rfl
@[simp] theorem updUnit_ctxs (s : State) (u : Nat) (f : UnitSt → UnitSt) : (updUnit s u f).ctxs = s.ctxs := rfl
@[simp] theorem updUnit_res (s : State) (u : Nat) (f : UnitSt → UnitSt) : (updUnit s u f).res = s.res := rfl
@[simp] theorem updUnit_order (s : State) (u : Nat) (f : UnitSt → UnitSt) : (updUnit s u f).order = s.order := rfl
@[simp] theorem updUnit_signals (s : State) (u : Nat) (f : UnitSt → UnitSt) : (updUnit s u f).signals = s.signals := rfl
@[simp] theorem updUnit_se (s : State) (u : Nat) (f : UnitSt → UnitSt) : (updUnit s u f).se = s.se := rfl
@[simp] theorem updUnit_smp (s : State) (u : Nat) (f : UnitSt → UnitSt) : (updUnit s u f).smp = s.smp := rfl
@[simp] theorem updUnit_eval (s : State) (u : Nat) (f : UnitSt → UnitSt) : (updUnit s u f).eval = s.eval := rfl
@[simp] theorem updUnit_sets (s : State) (u : Nat) (f : UnitSt → UnitSt) : (updUnit s u f).sets = s.sets := rfl
@[simp] theorem updUnit_slots (s : State) (u : Nat) (f : UnitSt → UnitSt) : (updUnit s u f).slots = s.slots := rfl
@[simp] theorem updUnit_turns (s : State) (u : Nat) (f : UnitSt → UnitSt) : (updUnit s u f).turns = s.turns := rfl
@[simp] theorem updUnit_sends (s : State) (u : Nat) (f : UnitSt → UnitSt) : (updUnit s u f).sends = s.sends := rfl
@[simp] theorem updUnit_drv (s : State) (u : Nat) (f : UnitSt → UnitSt) : (updUnit s u f).drv = s.drv := rfl
@[simp] theorem updUnit_adp (s : State) (u : Nat) (f : UnitSt → UnitSt) : (updUnit s u f).adp = s.adp := rfl
@[simp] theorem updUnit_streams (s : State) (u : Nat) (f : UnitSt → UnitSt) : (updUnit s u f).streams = s.streams := rfl
@[simp] theorem updUnit_dlmEn (s : State) (u : Nat) (f : UnitSt → UnitSt) : (updUnit s u f).dlmEn = s.dlmEn := rfl
@[simp] theorem updUnit_diverts (s : State) (u : Nat) (f : UnitSt → UnitSt) : (updUnit s u f).diverts = s.diverts := rfl
@[simp] theorem updUnit_stray (s : State) (u : Nat) (f : UnitSt → UnitSt) : (updUnit s u f).stray = s.stray := rfl
@[simp] theorem updUnit_ports (s : State) (u : Nat) (f : UnitSt → UnitSt) : (updUnit s u f).ports = s.ports := rfl
@[simp] theorem updUnit_groups (s : State) (u : Nat) (f : UnitSt → UnitSt) : (updUnit s u f).groups = s.groups := rfl
@[simp] theorem updUnit_fab (s : State) (u : Nat) (f : UnitSt → UnitSt) : (updUnit s u f).fab = s.fab := rfl
@[simp] theorem updUnit_host (s : State) (u : Nat) (f : UnitSt → UnitSt) : (updUnit s u f).host = s.host := rfl
@[simp] theorem updUnit_evs (s : State) (u : Nat) (f : UnitSt → UnitSt) : (updUnit s u f).evs = s.evs := rfl
@[simp] theorem updUnit_trust (s : State) (u : Nat) (f : UnitSt → UnitSt) : (updUnit s u f).trust = s.trust := rfl
@[simp] theorem updUnit_flt (s : State) (u : Nat) (f : UnitSt → UnitSt) : (updUnit s u f).flt = s.flt := rfl
@[simp] theorem updUnit_time (s : State) (u : Nat) (f : UnitSt → UnitSt) : (updUnit s u f).time = s.time := rfl
@[simp] theorem updUnit_pwr (s : State) (u : Nat) (f : UnitSt → UnitSt) : (updUnit s u f).pwr = s.pwr := rfl
@[simp] theorem updUnit_freeCtr (s : State) (u : Nat) (f : UnitSt → UnitSt) : (updUnit s u f).freeCtr = s.freeCtr := rfl

/-! ### `setCtx` -/

@[simp] theorem setCtx_pending (s : State) (c : Nat) (x : Ctx) : (setCtx s c x).pending = s.pending := rfl
@[simp] theorem setCtx_mem (s : State) (c : Nat) (x : Ctx) : (setCtx s c x).mem = s.mem := rfl
@[simp] theorem setCtx_poison (s : State) (c : Nat) (x : Ctx) : (setCtx s c x).poison = s.poison := rfl
@[simp] theorem setCtx_count (s : State) (c : Nat) (x : Ctx) : (setCtx s c x).count = s.count := rfl
@[simp] theorem setCtx_heldData (s : State) (c : Nat) (x : Ctx) : (setCtx s c x).heldData = s.heldData := rfl
@[simp] theorem setCtx_lines (s : State) (c : Nat) (x : Ctx) : (setCtx s c x).lines = s.lines := rfl
@[simp] theorem setCtx_hbm (s : State) (c : Nat) (x : Ctx) : (setCtx s c x).hbm = s.hbm := rfl
@[simp] theorem setCtx_sc (s : State) (c : Nat) (x : Ctx) : (setCtx s c x).sc = s.sc := rfl
@[simp] theorem setCtx_units (s : State) (c : Nat) (x : Ctx) : (setCtx s c x).units = s.units := rfl
@[simp] theorem setCtx_res (s : State) (c : Nat) (x : Ctx) : (setCtx s c x).res = s.res := rfl
@[simp] theorem setCtx_order (s : State) (c : Nat) (x : Ctx) : (setCtx s c x).order = s.order := rfl
@[simp] theorem setCtx_signals (s : State) (c : Nat) (x : Ctx) : (setCtx s c x).signals = s.signals := rfl
@[simp] theorem setCtx_se (s : State) (c : Nat) (x : Ctx) : (setCtx s c x).se = s.se := rfl
@[simp] theorem setCtx_smp (s : State) (c : Nat) (x : Ctx) : (setCtx s c x).smp = s.smp := rfl
@[simp] theorem setCtx_eval (s : State) (c : Nat) (x : Ctx) : (setCtx s c x).eval = s.eval := rfl
@[simp] theorem setCtx_sets (s : State) (c : Nat) (x : Ctx) : (setCtx s c x).sets = s.sets := rfl
@[simp] theorem setCtx_slots (s : State) (c : Nat) (x : Ctx) : (setCtx s c x).slots = s.slots := rfl
@[simp] theorem setCtx_turns (s : State) (c : Nat) (x : Ctx) : (setCtx s c x).turns = s.turns := rfl
@[simp] theorem setCtx_sends (s : State) (c : Nat) (x : Ctx) : (setCtx s c x).sends = s.sends := rfl
@[simp] theorem setCtx_drv (s : State) (c : Nat) (x : Ctx) : (setCtx s c x).drv = s.drv := rfl
@[simp] theorem setCtx_adp (s : State) (c : Nat) (x : Ctx) : (setCtx s c x).adp = s.adp := rfl
@[simp] theorem setCtx_streams (s : State) (c : Nat) (x : Ctx) : (setCtx s c x).streams = s.streams := rfl
@[simp] theorem setCtx_dlmEn (s : State) (c : Nat) (x : Ctx) : (setCtx s c x).dlmEn = s.dlmEn := rfl
@[simp] theorem setCtx_diverts (s : State) (c : Nat) (x : Ctx) : (setCtx s c x).diverts = s.diverts := rfl
@[simp] theorem setCtx_stray (s : State) (c : Nat) (x : Ctx) : (setCtx s c x).stray = s.stray := rfl
@[simp] theorem setCtx_ports (s : State) (c : Nat) (x : Ctx) : (setCtx s c x).ports = s.ports := rfl
@[simp] theorem setCtx_groups (s : State) (c : Nat) (x : Ctx) : (setCtx s c x).groups = s.groups := rfl
@[simp] theorem setCtx_fab (s : State) (c : Nat) (x : Ctx) : (setCtx s c x).fab = s.fab := rfl
@[simp] theorem setCtx_host (s : State) (c : Nat) (x : Ctx) : (setCtx s c x).host = s.host := rfl
@[simp] theorem setCtx_evs (s : State) (c : Nat) (x : Ctx) : (setCtx s c x).evs = s.evs := rfl
@[simp] theorem setCtx_trust (s : State) (c : Nat) (x : Ctx) : (setCtx s c x).trust = s.trust := rfl
@[simp] theorem setCtx_flt (s : State) (c : Nat) (x : Ctx) : (setCtx s c x).flt = s.flt := rfl
@[simp] theorem setCtx_time (s : State) (c : Nat) (x : Ctx) : (setCtx s c x).time = s.time := rfl
@[simp] theorem setCtx_pwr (s : State) (c : Nat) (x : Ctx) : (setCtx s c x).pwr = s.pwr := rfl
@[simp] theorem setCtx_freeCtr (s : State) (c : Nat) (x : Ctx) : (setCtx s c x).freeCtr = s.freeCtr := rfl

/-! ### `updCtx` -/

@[simp] theorem updCtx_pending (s : State) (c : Nat) (f : Ctx → Ctx) : (updCtx s c f).pending = s.pending := by unfold updCtx; split <;> rfl
@[simp] theorem updCtx_mem (s : State) (c : Nat) (f : Ctx → Ctx) : (updCtx s c f).mem = s.mem := by unfold updCtx; split <;> rfl
@[simp] theorem updCtx_poison (s : State) (c : Nat) (f : Ctx → Ctx) : (updCtx s c f).poison = s.poison := by unfold updCtx; split <;> rfl
@[simp] theorem updCtx_count (s : State) (c : Nat) (f : Ctx → Ctx) : (updCtx s c f).count = s.count := by unfold updCtx; split <;> rfl
@[simp] theorem updCtx_heldData (s : State) (c : Nat) (f : Ctx → Ctx) : (updCtx s c f).heldData = s.heldData := by unfold updCtx; split <;> rfl
@[simp] theorem updCtx_lines (s : State) (c : Nat) (f : Ctx → Ctx) : (updCtx s c f).lines = s.lines := by unfold updCtx; split <;> rfl
@[simp] theorem updCtx_hbm (s : State) (c : Nat) (f : Ctx → Ctx) : (updCtx s c f).hbm = s.hbm := by unfold updCtx; split <;> rfl
@[simp] theorem updCtx_sc (s : State) (c : Nat) (f : Ctx → Ctx) : (updCtx s c f).sc = s.sc := by unfold updCtx; split <;> rfl
@[simp] theorem updCtx_units (s : State) (c : Nat) (f : Ctx → Ctx) : (updCtx s c f).units = s.units := by unfold updCtx; split <;> rfl
@[simp] theorem updCtx_res (s : State) (c : Nat) (f : Ctx → Ctx) : (updCtx s c f).res = s.res := by unfold updCtx; split <;> rfl
@[simp] theorem updCtx_order (s : State) (c : Nat) (f : Ctx → Ctx) : (updCtx s c f).order = s.order := by unfold updCtx; split <;> rfl
@[simp] theorem updCtx_signals (s : State) (c : Nat) (f : Ctx → Ctx) : (updCtx s c f).signals = s.signals := by unfold updCtx; split <;> rfl
@[simp] theorem updCtx_se (s : State) (c : Nat) (f : Ctx → Ctx) : (updCtx s c f).se = s.se := by unfold updCtx; split <;> rfl
@[simp] theorem updCtx_smp (s : State) (c : Nat) (f : Ctx → Ctx) : (updCtx s c f).smp = s.smp := by unfold updCtx; split <;> rfl
@[simp] theorem updCtx_eval (s : State) (c : Nat) (f : Ctx → Ctx) : (updCtx s c f).eval = s.eval := by unfold updCtx; split <;> rfl
@[simp] theorem updCtx_sets (s : State) (c : Nat) (f : Ctx → Ctx) : (updCtx s c f).sets = s.sets := by unfold updCtx; split <;> rfl
@[simp] theorem updCtx_slots (s : State) (c : Nat) (f : Ctx → Ctx) : (updCtx s c f).slots = s.slots := by unfold updCtx; split <;> rfl
@[simp] theorem updCtx_turns (s : State) (c : Nat) (f : Ctx → Ctx) : (updCtx s c f).turns = s.turns := by unfold updCtx; split <;> rfl
@[simp] theorem updCtx_sends (s : State) (c : Nat) (f : Ctx → Ctx) : (updCtx s c f).sends = s.sends := by unfold updCtx; split <;> rfl
@[simp] theorem updCtx_drv (s : State) (c : Nat) (f : Ctx → Ctx) : (updCtx s c f).drv = s.drv := by unfold updCtx; split <;> rfl
@[simp] theorem updCtx_adp (s : State) (c : Nat) (f : Ctx → Ctx) : (updCtx s c f).adp = s.adp := by unfold updCtx; split <;> rfl
@[simp] theorem updCtx_streams (s : State) (c : Nat) (f : Ctx → Ctx) : (updCtx s c f).streams = s.streams := by unfold updCtx; split <;> rfl
@[simp] theorem updCtx_dlmEn (s : State) (c : Nat) (f : Ctx → Ctx) : (updCtx s c f).dlmEn = s.dlmEn := by unfold updCtx; split <;> rfl
@[simp] theorem updCtx_diverts (s : State) (c : Nat) (f : Ctx → Ctx) : (updCtx s c f).diverts = s.diverts := by unfold updCtx; split <;> rfl
@[simp] theorem updCtx_stray (s : State) (c : Nat) (f : Ctx → Ctx) : (updCtx s c f).stray = s.stray := by unfold updCtx; split <;> rfl
@[simp] theorem updCtx_ports (s : State) (c : Nat) (f : Ctx → Ctx) : (updCtx s c f).ports = s.ports := by unfold updCtx; split <;> rfl
@[simp] theorem updCtx_groups (s : State) (c : Nat) (f : Ctx → Ctx) : (updCtx s c f).groups = s.groups := by unfold updCtx; split <;> rfl
@[simp] theorem updCtx_fab (s : State) (c : Nat) (f : Ctx → Ctx) : (updCtx s c f).fab = s.fab := by unfold updCtx; split <;> rfl
@[simp] theorem updCtx_host (s : State) (c : Nat) (f : Ctx → Ctx) : (updCtx s c f).host = s.host := by unfold updCtx; split <;> rfl
@[simp] theorem updCtx_evs (s : State) (c : Nat) (f : Ctx → Ctx) : (updCtx s c f).evs = s.evs := by unfold updCtx; split <;> rfl
@[simp] theorem updCtx_trust (s : State) (c : Nat) (f : Ctx → Ctx) : (updCtx s c f).trust = s.trust := by unfold updCtx; split <;> rfl
@[simp] theorem updCtx_flt (s : State) (c : Nat) (f : Ctx → Ctx) : (updCtx s c f).flt = s.flt := by unfold updCtx; split <;> rfl
@[simp] theorem updCtx_time (s : State) (c : Nat) (f : Ctx → Ctx) : (updCtx s c f).time = s.time := by unfold updCtx; split <;> rfl
@[simp] theorem updCtx_pwr (s : State) (c : Nat) (f : Ctx → Ctx) : (updCtx s c f).pwr = s.pwr := by unfold updCtx; split <;> rfl
@[simp] theorem updCtx_freeCtr (s : State) (c : Nat) (f : Ctx → Ctx) : (updCtx s c f).freeCtr = s.freeCtr := by unfold updCtx; split <;> rfl

/-! ### `setRes` -/

@[simp] theorem setRes_pending (s : State) (u c : Nat) (x : Res) : (setRes s u c x).pending = s.pending := rfl
@[simp] theorem setRes_mem (s : State) (u c : Nat) (x : Res) : (setRes s u c x).mem = s.mem := rfl
@[simp] theorem setRes_poison (s : State) (u c : Nat) (x : Res) : (setRes s u c x).poison = s.poison := rfl
@[simp] theorem setRes_count (s : State) (u c : Nat) (x : Res) : (setRes s u c x).count = s.count := rfl
@[simp] theorem setRes_heldData (s : State) (u c : Nat) (x : Res) : (setRes s u c x).heldData = s.heldData := rfl
@[simp] theorem setRes_lines (s : State) (u c : Nat) (x : Res) : (setRes s u c x).lines = s.lines := rfl
@[simp] theorem setRes_hbm (s : State) (u c : Nat) (x : Res) : (setRes s u c x).hbm = s.hbm := rfl
@[simp] theorem setRes_sc (s : State) (u c : Nat) (x : Res) : (setRes s u c x).sc = s.sc := rfl
@[simp] theorem setRes_units (s : State) (u c : Nat) (x : Res) : (setRes s u c x).units = s.units := rfl
@[simp] theorem setRes_ctxs (s : State) (u c : Nat) (x : Res) : (setRes s u c x).ctxs = s.ctxs := rfl
@[simp] theorem setRes_order (s : State) (u c : Nat) (x : Res) : (setRes s u c x).order = s.order := rfl
@[simp] theorem setRes_signals (s : State) (u c : Nat) (x : Res) : (setRes s u c x).signals = s.signals := rfl
@[simp] theorem setRes_se (s : State) (u c : Nat) (x : Res) : (setRes s u c x).se = s.se := rfl
@[simp] theorem setRes_smp (s : State) (u c : Nat) (x : Res) : (setRes s u c x).smp = s.smp := rfl
@[simp] theorem setRes_eval (s : State) (u c : Nat) (x : Res) : (setRes s u c x).eval = s.eval := rfl
@[simp] theorem setRes_sets (s : State) (u c : Nat) (x : Res) : (setRes s u c x).sets = s.sets := rfl
@[simp] theorem setRes_slots (s : State) (u c : Nat) (x : Res) : (setRes s u c x).slots = s.slots := rfl
@[simp] theorem setRes_turns (s : State) (u c : Nat) (x : Res) : (setRes s u c x).turns = s.turns := rfl
@[simp] theorem setRes_sends (s : State) (u c : Nat) (x : Res) : (setRes s u c x).sends = s.sends := rfl
@[simp] theorem setRes_drv (s : State) (u c : Nat) (x : Res) : (setRes s u c x).drv = s.drv := rfl
@[simp] theorem setRes_adp (s : State) (u c : Nat) (x : Res) : (setRes s u c x).adp = s.adp := rfl
@[simp] theorem setRes_streams (s : State) (u c : Nat) (x : Res) : (setRes s u c x).streams = s.streams := rfl
@[simp] theorem setRes_dlmEn (s : State) (u c : Nat) (x : Res) : (setRes s u c x).dlmEn = s.dlmEn := rfl
@[simp] theorem setRes_diverts (s : State) (u c : Nat) (x : Res) : (setRes s u c x).diverts = s.diverts := rfl
@[simp] theorem setRes_stray (s : State) (u c : Nat) (x : Res) : (setRes s u c x).stray = s.stray := rfl
@[simp] theorem setRes_ports (s : State) (u c : Nat) (x : Res) : (setRes s u c x).ports = s.ports := rfl
@[simp] theorem setRes_groups (s : State) (u c : Nat) (x : Res) : (setRes s u c x).groups = s.groups := rfl
@[simp] theorem setRes_fab (s : State) (u c : Nat) (x : Res) : (setRes s u c x).fab = s.fab := rfl
@[simp] theorem setRes_host (s : State) (u c : Nat) (x : Res) : (setRes s u c x).host = s.host := rfl
@[simp] theorem setRes_evs (s : State) (u c : Nat) (x : Res) : (setRes s u c x).evs = s.evs := rfl
@[simp] theorem setRes_trust (s : State) (u c : Nat) (x : Res) : (setRes s u c x).trust = s.trust := rfl
@[simp] theorem setRes_flt (s : State) (u c : Nat) (x : Res) : (setRes s u c x).flt = s.flt := rfl
@[simp] theorem setRes_time (s : State) (u c : Nat) (x : Res) : (setRes s u c x).time = s.time := rfl
@[simp] theorem setRes_pwr (s : State) (u c : Nat) (x : Res) : (setRes s u c x).pwr = s.pwr := rfl
@[simp] theorem setRes_freeCtr (s : State) (u c : Nat) (x : Res) : (setRes s u c x).freeCtr = s.freeCtr := rfl

/-! ### `updRes` -/

@[simp] theorem updRes_pending (s : State) (u c : Nat) (f : Res → Res) : (updRes s u c f).pending = s.pending := by unfold updRes; split <;> rfl
@[simp] theorem updRes_mem (s : State) (u c : Nat) (f : Res → Res) : (updRes s u c f).mem = s.mem := by unfold updRes; split <;> rfl
@[simp] theorem updRes_poison (s : State) (u c : Nat) (f : Res → Res) : (updRes s u c f).poison = s.poison := by unfold updRes; split <;> rfl
@[simp] theorem updRes_count (s : State) (u c : Nat) (f : Res → Res) : (updRes s u c f).count = s.count := by unfold updRes; split <;> rfl
@[simp] theorem updRes_heldData (s : State) (u c : Nat) (f : Res → Res) : (updRes s u c f).heldData = s.heldData := by unfold updRes; split <;> rfl
@[simp] theorem updRes_lines (s : State) (u c : Nat) (f : Res → Res) : (updRes s u c f).lines = s.lines := by unfold updRes; split <;> rfl
@[simp] theorem updRes_hbm (s : State) (u c : Nat) (f : Res → Res) : (updRes s u c f).hbm = s.hbm := by unfold updRes; split <;> rfl
@[simp] theorem updRes_sc (s : State) (u c : Nat) (f : Res → Res) : (updRes s u c f).sc = s.sc := by unfold updRes; split <;> rfl
@[simp] theorem updRes_units (s : State) (u c : Nat) (f : Res → Res) : (updRes s u c f).units = s.units := by unfold updRes; split <;> rfl
@[simp] theorem updRes_ctxs (s : State) (u c : Nat) (f : Res → Res) : (updRes s u c f).ctxs = s.ctxs := by unfold updRes; split <;> rfl
@[simp] theorem updRes_order (s : State) (u c : Nat) (f : Res → Res) : (updRes s u c f).order = s.order := by unfold updRes; split <;> rfl
@[simp] theorem updRes_signals (s : State) (u c : Nat) (f : Res → Res) : (updRes s u c f).signals = s.signals := by unfold updRes; split <;> rfl
@[simp] theorem updRes_se (s : State) (u c : Nat) (f : Res → Res) : (updRes s u c f).se = s.se := by unfold updRes; split <;> rfl
@[simp] theorem updRes_smp (s : State) (u c : Nat) (f : Res → Res) : (updRes s u c f).smp = s.smp := by unfold updRes; split <;> rfl
@[simp] theorem updRes_eval (s : State) (u c : Nat) (f : Res → Res) : (updRes s u c f).eval = s.eval := by unfold updRes; split <;> rfl
@[simp] theorem updRes_sets (s : State) (u c : Nat) (f : Res → Res) : (updRes s u c f).sets = s.sets := by unfold updRes; split <;> rfl
@[simp] theorem updRes_slots (s : State) (u c : Nat) (f : Res → Res) : (updRes s u c f).slots = s.slots := by unfold updRes; split <;> rfl
@[simp] theorem updRes_turns (s : State) (u c : Nat) (f : Res → Res) : (updRes s u c f).turns = s.turns := by unfold updRes; split <;> rfl
@[simp] theorem updRes_sends (s : State) (u c : Nat) (f : Res → Res) : (updRes s u c f).sends = s.sends := by unfold updRes; split <;> rfl
@[simp] theorem updRes_drv (s : State) (u c : Nat) (f : Res → Res) : (updRes s u c f).drv = s.drv := by unfold updRes; split <;> rfl
@[simp] theorem updRes_adp (s : State) (u c : Nat) (f : Res → Res) : (updRes s u c f).adp = s.adp := by unfold updRes; split <;> rfl
@[simp] theorem updRes_streams (s : State) (u c : Nat) (f : Res → Res) : (updRes s u c f).streams = s.streams := by unfold updRes; split <;> rfl
@[simp] theorem updRes_dlmEn (s : State) (u c : Nat) (f : Res → Res) : (updRes s u c f).dlmEn = s.dlmEn := by unfold updRes; split <;> rfl
@[simp] theorem updRes_diverts (s : State) (u c : Nat) (f : Res → Res) : (updRes s u c f).diverts = s.diverts := by unfold updRes; split <;> rfl
@[simp] theorem updRes_stray (s : State) (u c : Nat) (f : Res → Res) : (updRes s u c f).stray = s.stray := by unfold updRes; split <;> rfl
@[simp] theorem updRes_ports (s : State) (u c : Nat) (f : Res → Res) : (updRes s u c f).ports = s.ports := by unfold updRes; split <;> rfl
@[simp] theorem updRes_groups (s : State) (u c : Nat) (f : Res → Res) : (updRes s u c f).groups = s.groups := by unfold updRes; split <;> rfl
@[simp] theorem updRes_fab (s : State) (u c : Nat) (f : Res → Res) : (updRes s u c f).fab = s.fab := by unfold updRes; split <;> rfl
@[simp] theorem updRes_host (s : State) (u c : Nat) (f : Res → Res) : (updRes s u c f).host = s.host := by unfold updRes; split <;> rfl
@[simp] theorem updRes_evs (s : State) (u c : Nat) (f : Res → Res) : (updRes s u c f).evs = s.evs := by unfold updRes; split <;> rfl
@[simp] theorem updRes_trust (s : State) (u c : Nat) (f : Res → Res) : (updRes s u c f).trust = s.trust := by unfold updRes; split <;> rfl
@[simp] theorem updRes_flt (s : State) (u c : Nat) (f : Res → Res) : (updRes s u c f).flt = s.flt := by unfold updRes; split <;> rfl
@[simp] theorem updRes_time (s : State) (u c : Nat) (f : Res → Res) : (updRes s u c f).time = s.time := by unfold updRes; split <;> rfl
@[simp] theorem updRes_pwr (s : State) (u c : Nat) (f : Res → Res) : (updRes s u c f).pwr = s.pwr := by unfold updRes; split <;> rfl
@[simp] theorem updRes_freeCtr (s : State) (u c : Nat) (f : Res → Res) : (updRes s u c f).freeCtr = s.freeCtr := by unfold updRes; split <;> rfl

/-! ### `setSe` -/

@[simp] theorem setSe_pending (s : State) (st : Nat) (x : SeSt) : (setSe s st x).pending = s.pending := rfl
@[simp] theorem setSe_mem (s : State) (st : Nat) (x : SeSt) : (setSe s st x).mem = s.mem := rfl
@[simp] theorem setSe_poison (s : State) (st : Nat) (x : SeSt) : (setSe s st x).poison = s.poison := rfl
@[simp] theorem setSe_count (s : State) (st : Nat) (x : SeSt) : (setSe s st x).count = s.count := rfl
@[simp] theorem setSe_heldData (s : State) (st : Nat) (x : SeSt) : (setSe s st x).heldData = s.heldData := rfl
@[simp] theorem setSe_lines (s : State) (st : Nat) (x : SeSt) : (setSe s st x).lines = s.lines := rfl
@[simp] theorem setSe_hbm (s : State) (st : Nat) (x : SeSt) : (setSe s st x).hbm = s.hbm := rfl
@[simp] theorem setSe_sc (s : State) (st : Nat) (x : SeSt) : (setSe s st x).sc = s.sc := rfl
@[simp] theorem setSe_units (s : State) (st : Nat) (x : SeSt) : (setSe s st x).units = s.units := rfl
@[simp] theorem setSe_ctxs (s : State) (st : Nat) (x : SeSt) : (setSe s st x).ctxs = s.ctxs := rfl
@[simp] theorem setSe_res (s : State) (st : Nat) (x : SeSt) : (setSe s st x).res = s.res := rfl
@[simp] theorem setSe_order (s : State) (st : Nat) (x : SeSt) : (setSe s st x).order = s.order := rfl
@[simp] theorem setSe_signals (s : State) (st : Nat) (x : SeSt) : (setSe s st x).signals = s.signals := rfl
@[simp] theorem setSe_smp (s : State) (st : Nat) (x : SeSt) : (setSe s st x).smp = s.smp := rfl
@[simp] theorem setSe_eval (s : State) (st : Nat) (x : SeSt) : (setSe s st x).eval = s.eval := rfl
@[simp] theorem setSe_sets (s : State) (st : Nat) (x : SeSt) : (setSe s st x).sets = s.sets := rfl
@[simp] theorem setSe_slots (s : State) (st : Nat) (x : SeSt) : (setSe s st x).slots = s.slots := rfl
@[simp] theorem setSe_turns (s : State) (st : Nat) (x : SeSt) : (setSe s st x).turns = s.turns := rfl
@[simp] theorem setSe_sends (s : State) (st : Nat) (x : SeSt) : (setSe s st x).sends = s.sends := rfl
@[simp] theorem setSe_drv (s : State) (st : Nat) (x : SeSt) : (setSe s st x).drv = s.drv := rfl
@[simp] theorem setSe_adp (s : State) (st : Nat) (x : SeSt) : (setSe s st x).adp = s.adp := rfl
@[simp] theorem setSe_streams (s : State) (st : Nat) (x : SeSt) : (setSe s st x).streams = s.streams := rfl
@[simp] theorem setSe_dlmEn (s : State) (st : Nat) (x : SeSt) : (setSe s st x).dlmEn = s.dlmEn := rfl
@[simp] theorem setSe_diverts (s : State) (st : Nat) (x : SeSt) : (setSe s st x).diverts = s.diverts := rfl
@[simp] theorem setSe_stray (s : State) (st : Nat) (x : SeSt) : (setSe s st x).stray = s.stray := rfl
@[simp] theorem setSe_ports (s : State) (st : Nat) (x : SeSt) : (setSe s st x).ports = s.ports := rfl
@[simp] theorem setSe_groups (s : State) (st : Nat) (x : SeSt) : (setSe s st x).groups = s.groups := rfl
@[simp] theorem setSe_fab (s : State) (st : Nat) (x : SeSt) : (setSe s st x).fab = s.fab := rfl
@[simp] theorem setSe_host (s : State) (st : Nat) (x : SeSt) : (setSe s st x).host = s.host := rfl
@[simp] theorem setSe_evs (s : State) (st : Nat) (x : SeSt) : (setSe s st x).evs = s.evs := rfl
@[simp] theorem setSe_trust (s : State) (st : Nat) (x : SeSt) : (setSe s st x).trust = s.trust := rfl
@[simp] theorem setSe_flt (s : State) (st : Nat) (x : SeSt) : (setSe s st x).flt = s.flt := rfl
@[simp] theorem setSe_time (s : State) (st : Nat) (x : SeSt) : (setSe s st x).time = s.time := rfl
@[simp] theorem setSe_pwr (s : State) (st : Nat) (x : SeSt) : (setSe s st x).pwr = s.pwr := rfl
@[simp] theorem setSe_freeCtr (s : State) (st : Nat) (x : SeSt) : (setSe s st x).freeCtr = s.freeCtr := rfl

/-! ### `updSe` -/

@[simp] theorem updSe_pending (s : State) (st : Nat) (f : SeSt → SeSt) : (updSe s st f).pending = s.pending := rfl
@[simp] theorem updSe_mem (s : State) (st : Nat) (f : SeSt → SeSt) : (updSe s st f).mem = s.mem := rfl
@[simp] theorem updSe_poison (s : State) (st : Nat) (f : SeSt → SeSt) : (updSe s st f).poison = s.poison := rfl
@[simp] theorem updSe_count (s : State) (st : Nat) (f : SeSt → SeSt) : (updSe s st f).count = s.count := rfl
@[simp] theorem updSe_heldData (s : State) (st : Nat) (f : SeSt → SeSt) : (updSe s st f).heldData = s.heldData := rfl
@[simp] theorem updSe_lines (s : State) (st : Nat) (f : SeSt → SeSt) : (updSe s st f).lines = s.lines := rfl
@[simp] theorem updSe_hbm (s : State) (st : Nat) (f : SeSt → SeSt) : (updSe s st f).hbm = s.hbm := rfl
@[simp] theorem updSe_sc (s : State) (st : Nat) (f : SeSt → SeSt) : (updSe s st f).sc = s.sc := rfl
@[simp] theorem updSe_units (s : State) (st : Nat) (f : SeSt → SeSt) : (updSe s st f).units = s.units := rfl
@[simp] theorem updSe_ctxs (s : State) (st : Nat) (f : SeSt → SeSt) : (updSe s st f).ctxs = s.ctxs := rfl
@[simp] theorem updSe_res (s : State) (st : Nat) (f : SeSt → SeSt) : (updSe s st f).res = s.res := rfl
@[simp] theorem updSe_order (s : State) (st : Nat) (f : SeSt → SeSt) : (updSe s st f).order = s.order := rfl
@[simp] theorem updSe_signals (s : State) (st : Nat) (f : SeSt → SeSt) : (updSe s st f).signals = s.signals := rfl
@[simp] theorem updSe_smp (s : State) (st : Nat) (f : SeSt → SeSt) : (updSe s st f).smp = s.smp := rfl
@[simp] theorem updSe_eval (s : State) (st : Nat) (f : SeSt → SeSt) : (updSe s st f).eval = s.eval := rfl
@[simp] theorem updSe_sets (s : State) (st : Nat) (f : SeSt → SeSt) : (updSe s st f).sets = s.sets := rfl
@[simp] theorem updSe_slots (s : State) (st : Nat) (f : SeSt → SeSt) : (updSe s st f).slots = s.slots := rfl
@[simp] theorem updSe_turns (s : State) (st : Nat) (f : SeSt → SeSt) : (updSe s st f).turns = s.turns := rfl
@[simp] theorem updSe_sends (s : State) (st : Nat) (f : SeSt → SeSt) : (updSe s st f).sends = s.sends := rfl
@[simp] theorem updSe_drv (s : State) (st : Nat) (f : SeSt → SeSt) : (updSe s st f).drv = s.drv := rfl
@[simp] theorem updSe_adp (s : State) (st : Nat) (f : SeSt → SeSt) : (updSe s st f).adp = s.adp := rfl
@[simp] theorem updSe_streams (s : State) (st : Nat) (f : SeSt → SeSt) : (updSe s st f).streams = s.streams := rfl
@[simp] theorem updSe_dlmEn (s : State) (st : Nat) (f : SeSt → SeSt) : (updSe s st f).dlmEn = s.dlmEn := rfl
@[simp] theorem updSe_diverts (s : State) (st : Nat) (f : SeSt → SeSt) : (updSe s st f).diverts = s.diverts := rfl
@[simp] theorem updSe_stray (s : State) (st : Nat) (f : SeSt → SeSt) : (updSe s st f).stray = s.stray := rfl
@[simp] theorem updSe_ports (s : State) (st : Nat) (f : SeSt → SeSt) : (updSe s st f).ports = s.ports := rfl
@[simp] theorem updSe_groups (s : State) (st : Nat) (f : SeSt → SeSt) : (updSe s st f).groups = s.groups := rfl
@[simp] theorem updSe_fab (s : State) (st : Nat) (f : SeSt → SeSt) : (updSe s st f).fab = s.fab := rfl
@[simp] theorem updSe_host (s : State) (st : Nat) (f : SeSt → SeSt) : (updSe s st f).host = s.host := rfl
@[simp] theorem updSe_evs (s : State) (st : Nat) (f : SeSt → SeSt) : (updSe s st f).evs = s.evs := rfl
@[simp] theorem updSe_trust (s : State) (st : Nat) (f : SeSt → SeSt) : (updSe s st f).trust = s.trust := rfl
@[simp] theorem updSe_flt (s : State) (st : Nat) (f : SeSt → SeSt) : (updSe s st f).flt = s.flt := rfl
@[simp] theorem updSe_time (s : State) (st : Nat) (f : SeSt → SeSt) : (updSe s st f).time = s.time := rfl
@[simp] theorem updSe_pwr (s : State) (st : Nat) (f : SeSt → SeSt) : (updSe s st f).pwr = s.pwr := rfl
@[simp] theorem updSe_freeCtr (s : State) (st : Nat) (f : SeSt → SeSt) : (updSe s st f).freeCtr = s.freeCtr := rfl

/-! ### `setRing` -/

@[simp] theorem setRing_pending (s : State) (r : Nat) (x : RingSt) : (setRing s r x).pending = s.pending := rfl
@[simp] theorem setRing_mem (s : State) (r : Nat) (x : RingSt) : (setRing s r x).mem = s.mem := rfl
@[simp] theorem setRing_poison (s : State) (r : Nat) (x : RingSt) : (setRing s r x).poison = s.poison := rfl
@[simp] theorem setRing_count (s : State) (r : Nat) (x : RingSt) : (setRing s r x).count = s.count := rfl
@[simp] theorem setRing_heldData (s : State) (r : Nat) (x : RingSt) : (setRing s r x).heldData = s.heldData := rfl
@[simp] theorem setRing_lines (s : State) (r : Nat) (x : RingSt) : (setRing s r x).lines = s.lines := rfl
@[simp] theorem setRing_hbm (s : State) (r : Nat) (x : RingSt) : (setRing s r x).hbm = s.hbm := rfl
@[simp] theorem setRing_sc (s : State) (r : Nat) (x : RingSt) : (setRing s r x).sc = s.sc := rfl
@[simp] theorem setRing_units (s : State) (r : Nat) (x : RingSt) : (setRing s r x).units = s.units := rfl
@[simp] theorem setRing_ctxs (s : State) (r : Nat) (x : RingSt) : (setRing s r x).ctxs = s.ctxs := rfl
@[simp] theorem setRing_res (s : State) (r : Nat) (x : RingSt) : (setRing s r x).res = s.res := rfl
@[simp] theorem setRing_order (s : State) (r : Nat) (x : RingSt) : (setRing s r x).order = s.order := rfl
@[simp] theorem setRing_signals (s : State) (r : Nat) (x : RingSt) : (setRing s r x).signals = s.signals := rfl
@[simp] theorem setRing_se (s : State) (r : Nat) (x : RingSt) : (setRing s r x).se = s.se := rfl
@[simp] theorem setRing_smp (s : State) (r : Nat) (x : RingSt) : (setRing s r x).smp = s.smp := rfl
@[simp] theorem setRing_eval (s : State) (r : Nat) (x : RingSt) : (setRing s r x).eval = s.eval := rfl
@[simp] theorem setRing_sets (s : State) (r : Nat) (x : RingSt) : (setRing s r x).sets = s.sets := rfl
@[simp] theorem setRing_slots (s : State) (r : Nat) (x : RingSt) : (setRing s r x).slots = s.slots := rfl
@[simp] theorem setRing_turns (s : State) (r : Nat) (x : RingSt) : (setRing s r x).turns = s.turns := rfl
@[simp] theorem setRing_sends (s : State) (r : Nat) (x : RingSt) : (setRing s r x).sends = s.sends := rfl
@[simp] theorem setRing_drv (s : State) (r : Nat) (x : RingSt) : (setRing s r x).drv = s.drv := rfl
@[simp] theorem setRing_adp (s : State) (r : Nat) (x : RingSt) : (setRing s r x).adp = s.adp := rfl
@[simp] theorem setRing_streams (s : State) (r : Nat) (x : RingSt) : (setRing s r x).streams = s.streams := rfl
@[simp] theorem setRing_dlmEn (s : State) (r : Nat) (x : RingSt) : (setRing s r x).dlmEn = s.dlmEn := rfl
@[simp] theorem setRing_diverts (s : State) (r : Nat) (x : RingSt) : (setRing s r x).diverts = s.diverts := rfl
@[simp] theorem setRing_stray (s : State) (r : Nat) (x : RingSt) : (setRing s r x).stray = s.stray := rfl
@[simp] theorem setRing_ports (s : State) (r : Nat) (x : RingSt) : (setRing s r x).ports = s.ports := rfl
@[simp] theorem setRing_groups (s : State) (r : Nat) (x : RingSt) : (setRing s r x).groups = s.groups := rfl
@[simp] theorem setRing_fab (s : State) (r : Nat) (x : RingSt) : (setRing s r x).fab = s.fab := rfl
@[simp] theorem setRing_evs (s : State) (r : Nat) (x : RingSt) : (setRing s r x).evs = s.evs := rfl
@[simp] theorem setRing_trust (s : State) (r : Nat) (x : RingSt) : (setRing s r x).trust = s.trust := rfl
@[simp] theorem setRing_flt (s : State) (r : Nat) (x : RingSt) : (setRing s r x).flt = s.flt := rfl
@[simp] theorem setRing_time (s : State) (r : Nat) (x : RingSt) : (setRing s r x).time = s.time := rfl
@[simp] theorem setRing_pwr (s : State) (r : Nat) (x : RingSt) : (setRing s r x).pwr = s.pwr := rfl
@[simp] theorem setRing_freeCtr (s : State) (r : Nat) (x : RingSt) : (setRing s r x).freeCtr = s.freeCtr := rfl

/-! ### `updRing` -/

@[simp] theorem updRing_pending (s : State) (r : Nat) (f : RingSt → RingSt) : (updRing s r f).pending = s.pending := rfl
@[simp] theorem updRing_mem (s : State) (r : Nat) (f : RingSt → RingSt) : (updRing s r f).mem = s.mem := rfl
@[simp] theorem updRing_poison (s : State) (r : Nat) (f : RingSt → RingSt) : (updRing s r f).poison = s.poison := rfl
@[simp] theorem updRing_count (s : State) (r : Nat) (f : RingSt → RingSt) : (updRing s r f).count = s.count := rfl
@[simp] theorem updRing_heldData (s : State) (r : Nat) (f : RingSt → RingSt) : (updRing s r f).heldData = s.heldData := rfl
@[simp] theorem updRing_lines (s : State) (r : Nat) (f : RingSt → RingSt) : (updRing s r f).lines = s.lines := rfl
@[simp] theorem updRing_hbm (s : State) (r : Nat) (f : RingSt → RingSt) : (updRing s r f).hbm = s.hbm := rfl
@[simp] theorem updRing_sc (s : State) (r : Nat) (f : RingSt → RingSt) : (updRing s r f).sc = s.sc := rfl
@[simp] theorem updRing_units (s : State) (r : Nat) (f : RingSt → RingSt) : (updRing s r f).units = s.units := rfl
@[simp] theorem updRing_ctxs (s : State) (r : Nat) (f : RingSt → RingSt) : (updRing s r f).ctxs = s.ctxs := rfl
@[simp] theorem updRing_res (s : State) (r : Nat) (f : RingSt → RingSt) : (updRing s r f).res = s.res := rfl
@[simp] theorem updRing_order (s : State) (r : Nat) (f : RingSt → RingSt) : (updRing s r f).order = s.order := rfl
@[simp] theorem updRing_signals (s : State) (r : Nat) (f : RingSt → RingSt) : (updRing s r f).signals = s.signals := rfl
@[simp] theorem updRing_se (s : State) (r : Nat) (f : RingSt → RingSt) : (updRing s r f).se = s.se := rfl
@[simp] theorem updRing_smp (s : State) (r : Nat) (f : RingSt → RingSt) : (updRing s r f).smp = s.smp := rfl
@[simp] theorem updRing_eval (s : State) (r : Nat) (f : RingSt → RingSt) : (updRing s r f).eval = s.eval := rfl
@[simp] theorem updRing_sets (s : State) (r : Nat) (f : RingSt → RingSt) : (updRing s r f).sets = s.sets := rfl
@[simp] theorem updRing_slots (s : State) (r : Nat) (f : RingSt → RingSt) : (updRing s r f).slots = s.slots := rfl
@[simp] theorem updRing_turns (s : State) (r : Nat) (f : RingSt → RingSt) : (updRing s r f).turns = s.turns := rfl
@[simp] theorem updRing_sends (s : State) (r : Nat) (f : RingSt → RingSt) : (updRing s r f).sends = s.sends := rfl
@[simp] theorem updRing_drv (s : State) (r : Nat) (f : RingSt → RingSt) : (updRing s r f).drv = s.drv := rfl
@[simp] theorem updRing_adp (s : State) (r : Nat) (f : RingSt → RingSt) : (updRing s r f).adp = s.adp := rfl
@[simp] theorem updRing_streams (s : State) (r : Nat) (f : RingSt → RingSt) : (updRing s r f).streams = s.streams := rfl
@[simp] theorem updRing_dlmEn (s : State) (r : Nat) (f : RingSt → RingSt) : (updRing s r f).dlmEn = s.dlmEn := rfl
@[simp] theorem updRing_diverts (s : State) (r : Nat) (f : RingSt → RingSt) : (updRing s r f).diverts = s.diverts := rfl
@[simp] theorem updRing_stray (s : State) (r : Nat) (f : RingSt → RingSt) : (updRing s r f).stray = s.stray := rfl
@[simp] theorem updRing_ports (s : State) (r : Nat) (f : RingSt → RingSt) : (updRing s r f).ports = s.ports := rfl
@[simp] theorem updRing_groups (s : State) (r : Nat) (f : RingSt → RingSt) : (updRing s r f).groups = s.groups := rfl
@[simp] theorem updRing_fab (s : State) (r : Nat) (f : RingSt → RingSt) : (updRing s r f).fab = s.fab := rfl
@[simp] theorem updRing_evs (s : State) (r : Nat) (f : RingSt → RingSt) : (updRing s r f).evs = s.evs := rfl
@[simp] theorem updRing_trust (s : State) (r : Nat) (f : RingSt → RingSt) : (updRing s r f).trust = s.trust := rfl
@[simp] theorem updRing_flt (s : State) (r : Nat) (f : RingSt → RingSt) : (updRing s r f).flt = s.flt := rfl
@[simp] theorem updRing_time (s : State) (r : Nat) (f : RingSt → RingSt) : (updRing s r f).time = s.time := rfl
@[simp] theorem updRing_pwr (s : State) (r : Nat) (f : RingSt → RingSt) : (updRing s r f).pwr = s.pwr := rfl
@[simp] theorem updRing_freeCtr (s : State) (r : Nat) (f : RingSt → RingSt) : (updRing s r f).freeCtr = s.freeCtr := rfl

/-! ### `raiseEv` -/

@[simp] theorem raiseEv_pending (s : State) (code cls a b : Nat) : (raiseEv s code cls a b).pending = s.pending := rfl
@[simp] theorem raiseEv_mem (s : State) (code cls a b : Nat) : (raiseEv s code cls a b).mem = s.mem := rfl
@[simp] theorem raiseEv_poison (s : State) (code cls a b : Nat) : (raiseEv s code cls a b).poison = s.poison := rfl
@[simp] theorem raiseEv_count (s : State) (code cls a b : Nat) : (raiseEv s code cls a b).count = s.count := rfl
@[simp] theorem raiseEv_heldData (s : State) (code cls a b : Nat) : (raiseEv s code cls a b).heldData = s.heldData := rfl
@[simp] theorem raiseEv_lines (s : State) (code cls a b : Nat) : (raiseEv s code cls a b).lines = s.lines := rfl
@[simp] theorem raiseEv_hbm (s : State) (code cls a b : Nat) : (raiseEv s code cls a b).hbm = s.hbm := rfl
@[simp] theorem raiseEv_sc (s : State) (code cls a b : Nat) : (raiseEv s code cls a b).sc = s.sc := rfl
@[simp] theorem raiseEv_units (s : State) (code cls a b : Nat) : (raiseEv s code cls a b).units = s.units := rfl
@[simp] theorem raiseEv_ctxs (s : State) (code cls a b : Nat) : (raiseEv s code cls a b).ctxs = s.ctxs := rfl
@[simp] theorem raiseEv_res (s : State) (code cls a b : Nat) : (raiseEv s code cls a b).res = s.res := rfl
@[simp] theorem raiseEv_order (s : State) (code cls a b : Nat) : (raiseEv s code cls a b).order = s.order := rfl
@[simp] theorem raiseEv_signals (s : State) (code cls a b : Nat) : (raiseEv s code cls a b).signals = s.signals := rfl
@[simp] theorem raiseEv_se (s : State) (code cls a b : Nat) : (raiseEv s code cls a b).se = s.se := rfl
@[simp] theorem raiseEv_smp (s : State) (code cls a b : Nat) : (raiseEv s code cls a b).smp = s.smp := rfl
@[simp] theorem raiseEv_eval (s : State) (code cls a b : Nat) : (raiseEv s code cls a b).eval = s.eval := rfl
@[simp] theorem raiseEv_sets (s : State) (code cls a b : Nat) : (raiseEv s code cls a b).sets = s.sets := rfl
@[simp] theorem raiseEv_slots (s : State) (code cls a b : Nat) : (raiseEv s code cls a b).slots = s.slots := rfl
@[simp] theorem raiseEv_turns (s : State) (code cls a b : Nat) : (raiseEv s code cls a b).turns = s.turns := rfl
@[simp] theorem raiseEv_sends (s : State) (code cls a b : Nat) : (raiseEv s code cls a b).sends = s.sends := rfl
@[simp] theorem raiseEv_drv (s : State) (code cls a b : Nat) : (raiseEv s code cls a b).drv = s.drv := rfl
@[simp] theorem raiseEv_adp (s : State) (code cls a b : Nat) : (raiseEv s code cls a b).adp = s.adp := rfl
@[simp] theorem raiseEv_streams (s : State) (code cls a b : Nat) : (raiseEv s code cls a b).streams = s.streams := rfl
@[simp] theorem raiseEv_dlmEn (s : State) (code cls a b : Nat) : (raiseEv s code cls a b).dlmEn = s.dlmEn := rfl
@[simp] theorem raiseEv_diverts (s : State) (code cls a b : Nat) : (raiseEv s code cls a b).diverts = s.diverts := rfl
@[simp] theorem raiseEv_stray (s : State) (code cls a b : Nat) : (raiseEv s code cls a b).stray = s.stray := rfl
@[simp] theorem raiseEv_ports (s : State) (code cls a b : Nat) : (raiseEv s code cls a b).ports = s.ports := rfl
@[simp] theorem raiseEv_groups (s : State) (code cls a b : Nat) : (raiseEv s code cls a b).groups = s.groups := rfl
@[simp] theorem raiseEv_fab (s : State) (code cls a b : Nat) : (raiseEv s code cls a b).fab = s.fab := rfl
@[simp] theorem raiseEv_host (s : State) (code cls a b : Nat) : (raiseEv s code cls a b).host = s.host := rfl
@[simp] theorem raiseEv_trust (s : State) (code cls a b : Nat) : (raiseEv s code cls a b).trust = s.trust := rfl
@[simp] theorem raiseEv_flt (s : State) (code cls a b : Nat) : (raiseEv s code cls a b).flt = s.flt := rfl
@[simp] theorem raiseEv_time (s : State) (code cls a b : Nat) : (raiseEv s code cls a b).time = s.time := rfl
@[simp] theorem raiseEv_pwr (s : State) (code cls a b : Nat) : (raiseEv s code cls a b).pwr = s.pwr := rfl
@[simp] theorem raiseEv_freeCtr (s : State) (code cls a b : Nat) : (raiseEv s code cls a b).freeCtr = s.freeCtr := rfl

/-! ### `raiseFaultAt` -/

@[simp] theorem raiseFaultAt_pending (s : State) (c kind pc lun : Nat) (stk seq : Option Nat) : (raiseFaultAt s c kind pc lun stk seq).pending = s.pending := by simp [raiseFaultAt]
@[simp] theorem raiseFaultAt_mem (s : State) (c kind pc lun : Nat) (stk seq : Option Nat) : (raiseFaultAt s c kind pc lun stk seq).mem = s.mem := by simp [raiseFaultAt]
@[simp] theorem raiseFaultAt_poison (s : State) (c kind pc lun : Nat) (stk seq : Option Nat) : (raiseFaultAt s c kind pc lun stk seq).poison = s.poison := by simp [raiseFaultAt]
@[simp] theorem raiseFaultAt_count (s : State) (c kind pc lun : Nat) (stk seq : Option Nat) : (raiseFaultAt s c kind pc lun stk seq).count = s.count := by simp [raiseFaultAt]
@[simp] theorem raiseFaultAt_heldData (s : State) (c kind pc lun : Nat) (stk seq : Option Nat) : (raiseFaultAt s c kind pc lun stk seq).heldData = s.heldData := by simp [raiseFaultAt]
@[simp] theorem raiseFaultAt_lines (s : State) (c kind pc lun : Nat) (stk seq : Option Nat) : (raiseFaultAt s c kind pc lun stk seq).lines = s.lines := by simp [raiseFaultAt]
@[simp] theorem raiseFaultAt_hbm (s : State) (c kind pc lun : Nat) (stk seq : Option Nat) : (raiseFaultAt s c kind pc lun stk seq).hbm = s.hbm := by simp [raiseFaultAt]
@[simp] theorem raiseFaultAt_sc (s : State) (c kind pc lun : Nat) (stk seq : Option Nat) : (raiseFaultAt s c kind pc lun stk seq).sc = s.sc := by simp [raiseFaultAt]
@[simp] theorem raiseFaultAt_units (s : State) (c kind pc lun : Nat) (stk seq : Option Nat) : (raiseFaultAt s c kind pc lun stk seq).units = s.units := by simp [raiseFaultAt]
@[simp] theorem raiseFaultAt_res (s : State) (c kind pc lun : Nat) (stk seq : Option Nat) : (raiseFaultAt s c kind pc lun stk seq).res = s.res := by simp [raiseFaultAt]
@[simp] theorem raiseFaultAt_order (s : State) (c kind pc lun : Nat) (stk seq : Option Nat) : (raiseFaultAt s c kind pc lun stk seq).order = s.order := by simp [raiseFaultAt]
@[simp] theorem raiseFaultAt_signals (s : State) (c kind pc lun : Nat) (stk seq : Option Nat) : (raiseFaultAt s c kind pc lun stk seq).signals = s.signals := by simp [raiseFaultAt]
@[simp] theorem raiseFaultAt_se (s : State) (c kind pc lun : Nat) (stk seq : Option Nat) : (raiseFaultAt s c kind pc lun stk seq).se = s.se := by simp [raiseFaultAt]
@[simp] theorem raiseFaultAt_smp (s : State) (c kind pc lun : Nat) (stk seq : Option Nat) : (raiseFaultAt s c kind pc lun stk seq).smp = s.smp := by simp [raiseFaultAt]
@[simp] theorem raiseFaultAt_eval (s : State) (c kind pc lun : Nat) (stk seq : Option Nat) : (raiseFaultAt s c kind pc lun stk seq).eval = s.eval := by simp [raiseFaultAt]
@[simp] theorem raiseFaultAt_sets (s : State) (c kind pc lun : Nat) (stk seq : Option Nat) : (raiseFaultAt s c kind pc lun stk seq).sets = s.sets := by simp [raiseFaultAt]
@[simp] theorem raiseFaultAt_slots (s : State) (c kind pc lun : Nat) (stk seq : Option Nat) : (raiseFaultAt s c kind pc lun stk seq).slots = s.slots := by simp [raiseFaultAt]
@[simp] theorem raiseFaultAt_turns (s : State) (c kind pc lun : Nat) (stk seq : Option Nat) : (raiseFaultAt s c kind pc lun stk seq).turns = s.turns := by simp [raiseFaultAt]
@[simp] theorem raiseFaultAt_sends (s : State) (c kind pc lun : Nat) (stk seq : Option Nat) : (raiseFaultAt s c kind pc lun stk seq).sends = s.sends := by simp [raiseFaultAt]
@[simp] theorem raiseFaultAt_drv (s : State) (c kind pc lun : Nat) (stk seq : Option Nat) : (raiseFaultAt s c kind pc lun stk seq).drv = s.drv := by simp [raiseFaultAt]
@[simp] theorem raiseFaultAt_adp (s : State) (c kind pc lun : Nat) (stk seq : Option Nat) : (raiseFaultAt s c kind pc lun stk seq).adp = s.adp := by simp [raiseFaultAt]
@[simp] theorem raiseFaultAt_streams (s : State) (c kind pc lun : Nat) (stk seq : Option Nat) : (raiseFaultAt s c kind pc lun stk seq).streams = s.streams := by simp [raiseFaultAt]
@[simp] theorem raiseFaultAt_dlmEn (s : State) (c kind pc lun : Nat) (stk seq : Option Nat) : (raiseFaultAt s c kind pc lun stk seq).dlmEn = s.dlmEn := by simp [raiseFaultAt]
@[simp] theorem raiseFaultAt_diverts (s : State) (c kind pc lun : Nat) (stk seq : Option Nat) : (raiseFaultAt s c kind pc lun stk seq).diverts = s.diverts := by simp [raiseFaultAt]
@[simp] theorem raiseFaultAt_stray (s : State) (c kind pc lun : Nat) (stk seq : Option Nat) : (raiseFaultAt s c kind pc lun stk seq).stray = s.stray := by simp [raiseFaultAt]
@[simp] theorem raiseFaultAt_ports (s : State) (c kind pc lun : Nat) (stk seq : Option Nat) : (raiseFaultAt s c kind pc lun stk seq).ports = s.ports := by simp [raiseFaultAt]
@[simp] theorem raiseFaultAt_groups (s : State) (c kind pc lun : Nat) (stk seq : Option Nat) : (raiseFaultAt s c kind pc lun stk seq).groups = s.groups := by simp [raiseFaultAt]
@[simp] theorem raiseFaultAt_fab (s : State) (c kind pc lun : Nat) (stk seq : Option Nat) : (raiseFaultAt s c kind pc lun stk seq).fab = s.fab := by simp [raiseFaultAt]
@[simp] theorem raiseFaultAt_host (s : State) (c kind pc lun : Nat) (stk seq : Option Nat) : (raiseFaultAt s c kind pc lun stk seq).host = s.host := by simp [raiseFaultAt]
@[simp] theorem raiseFaultAt_evs (s : State) (c kind pc lun : Nat) (stk seq : Option Nat) : (raiseFaultAt s c kind pc lun stk seq).evs = s.evs := by simp [raiseFaultAt]
@[simp] theorem raiseFaultAt_trust (s : State) (c kind pc lun : Nat) (stk seq : Option Nat) : (raiseFaultAt s c kind pc lun stk seq).trust = s.trust := by simp [raiseFaultAt]
@[simp] theorem raiseFaultAt_flt (s : State) (c kind pc lun : Nat) (stk seq : Option Nat) : (raiseFaultAt s c kind pc lun stk seq).flt = s.flt := by simp [raiseFaultAt]
@[simp] theorem raiseFaultAt_time (s : State) (c kind pc lun : Nat) (stk seq : Option Nat) : (raiseFaultAt s c kind pc lun stk seq).time = s.time := by simp [raiseFaultAt]
@[simp] theorem raiseFaultAt_pwr (s : State) (c kind pc lun : Nat) (stk seq : Option Nat) : (raiseFaultAt s c kind pc lun stk seq).pwr = s.pwr := by simp [raiseFaultAt]
@[simp] theorem raiseFaultAt_freeCtr (s : State) (c kind pc lun : Nat) (stk seq : Option Nat) : (raiseFaultAt s c kind pc lun stk seq).freeCtr = s.freeCtr := by simp [raiseFaultAt]

/-! ### `raiseFault` -/

@[simp] theorem raiseFault_pending (s : State) (c kind pc lun : Nat) (stk : Option Nat) : (raiseFault s c kind pc lun stk).pending = s.pending := by simp [raiseFault]
@[simp] theorem raiseFault_mem (s : State) (c kind pc lun : Nat) (stk : Option Nat) : (raiseFault s c kind pc lun stk).mem = s.mem := by simp [raiseFault]
@[simp] theorem raiseFault_poison (s : State) (c kind pc lun : Nat) (stk : Option Nat) : (raiseFault s c kind pc lun stk).poison = s.poison := by simp [raiseFault]
@[simp] theorem raiseFault_count (s : State) (c kind pc lun : Nat) (stk : Option Nat) : (raiseFault s c kind pc lun stk).count = s.count := by simp [raiseFault]
@[simp] theorem raiseFault_heldData (s : State) (c kind pc lun : Nat) (stk : Option Nat) : (raiseFault s c kind pc lun stk).heldData = s.heldData := by simp [raiseFault]
@[simp] theorem raiseFault_lines (s : State) (c kind pc lun : Nat) (stk : Option Nat) : (raiseFault s c kind pc lun stk).lines = s.lines := by simp [raiseFault]
@[simp] theorem raiseFault_hbm (s : State) (c kind pc lun : Nat) (stk : Option Nat) : (raiseFault s c kind pc lun stk).hbm = s.hbm := by simp [raiseFault]
@[simp] theorem raiseFault_sc (s : State) (c kind pc lun : Nat) (stk : Option Nat) : (raiseFault s c kind pc lun stk).sc = s.sc := by simp [raiseFault]
@[simp] theorem raiseFault_units (s : State) (c kind pc lun : Nat) (stk : Option Nat) : (raiseFault s c kind pc lun stk).units = s.units := by simp [raiseFault]
@[simp] theorem raiseFault_res (s : State) (c kind pc lun : Nat) (stk : Option Nat) : (raiseFault s c kind pc lun stk).res = s.res := by simp [raiseFault]
@[simp] theorem raiseFault_order (s : State) (c kind pc lun : Nat) (stk : Option Nat) : (raiseFault s c kind pc lun stk).order = s.order := by simp [raiseFault]
@[simp] theorem raiseFault_signals (s : State) (c kind pc lun : Nat) (stk : Option Nat) : (raiseFault s c kind pc lun stk).signals = s.signals := by simp [raiseFault]
@[simp] theorem raiseFault_se (s : State) (c kind pc lun : Nat) (stk : Option Nat) : (raiseFault s c kind pc lun stk).se = s.se := by simp [raiseFault]
@[simp] theorem raiseFault_smp (s : State) (c kind pc lun : Nat) (stk : Option Nat) : (raiseFault s c kind pc lun stk).smp = s.smp := by simp [raiseFault]
@[simp] theorem raiseFault_eval (s : State) (c kind pc lun : Nat) (stk : Option Nat) : (raiseFault s c kind pc lun stk).eval = s.eval := by simp [raiseFault]
@[simp] theorem raiseFault_sets (s : State) (c kind pc lun : Nat) (stk : Option Nat) : (raiseFault s c kind pc lun stk).sets = s.sets := by simp [raiseFault]
@[simp] theorem raiseFault_slots (s : State) (c kind pc lun : Nat) (stk : Option Nat) : (raiseFault s c kind pc lun stk).slots = s.slots := by simp [raiseFault]
@[simp] theorem raiseFault_turns (s : State) (c kind pc lun : Nat) (stk : Option Nat) : (raiseFault s c kind pc lun stk).turns = s.turns := by simp [raiseFault]
@[simp] theorem raiseFault_sends (s : State) (c kind pc lun : Nat) (stk : Option Nat) : (raiseFault s c kind pc lun stk).sends = s.sends := by simp [raiseFault]
@[simp] theorem raiseFault_drv (s : State) (c kind pc lun : Nat) (stk : Option Nat) : (raiseFault s c kind pc lun stk).drv = s.drv := by simp [raiseFault]
@[simp] theorem raiseFault_adp (s : State) (c kind pc lun : Nat) (stk : Option Nat) : (raiseFault s c kind pc lun stk).adp = s.adp := by simp [raiseFault]
@[simp] theorem raiseFault_streams (s : State) (c kind pc lun : Nat) (stk : Option Nat) : (raiseFault s c kind pc lun stk).streams = s.streams := by simp [raiseFault]
@[simp] theorem raiseFault_dlmEn (s : State) (c kind pc lun : Nat) (stk : Option Nat) : (raiseFault s c kind pc lun stk).dlmEn = s.dlmEn := by simp [raiseFault]
@[simp] theorem raiseFault_diverts (s : State) (c kind pc lun : Nat) (stk : Option Nat) : (raiseFault s c kind pc lun stk).diverts = s.diverts := by simp [raiseFault]
@[simp] theorem raiseFault_stray (s : State) (c kind pc lun : Nat) (stk : Option Nat) : (raiseFault s c kind pc lun stk).stray = s.stray := by simp [raiseFault]
@[simp] theorem raiseFault_ports (s : State) (c kind pc lun : Nat) (stk : Option Nat) : (raiseFault s c kind pc lun stk).ports = s.ports := by simp [raiseFault]
@[simp] theorem raiseFault_groups (s : State) (c kind pc lun : Nat) (stk : Option Nat) : (raiseFault s c kind pc lun stk).groups = s.groups := by simp [raiseFault]
@[simp] theorem raiseFault_fab (s : State) (c kind pc lun : Nat) (stk : Option Nat) : (raiseFault s c kind pc lun stk).fab = s.fab := by simp [raiseFault]
@[simp] theorem raiseFault_host (s : State) (c kind pc lun : Nat) (stk : Option Nat) : (raiseFault s c kind pc lun stk).host = s.host := by simp [raiseFault]
@[simp] theorem raiseFault_evs (s : State) (c kind pc lun : Nat) (stk : Option Nat) : (raiseFault s c kind pc lun stk).evs = s.evs := by simp [raiseFault]
@[simp] theorem raiseFault_trust (s : State) (c kind pc lun : Nat) (stk : Option Nat) : (raiseFault s c kind pc lun stk).trust = s.trust := by simp [raiseFault]
@[simp] theorem raiseFault_flt (s : State) (c kind pc lun : Nat) (stk : Option Nat) : (raiseFault s c kind pc lun stk).flt = s.flt := by simp [raiseFault]
@[simp] theorem raiseFault_time (s : State) (c kind pc lun : Nat) (stk : Option Nat) : (raiseFault s c kind pc lun stk).time = s.time := by simp [raiseFault]
@[simp] theorem raiseFault_pwr (s : State) (c kind pc lun : Nat) (stk : Option Nat) : (raiseFault s c kind pc lun stk).pwr = s.pwr := by simp [raiseFault]
@[simp] theorem raiseFault_freeCtr (s : State) (c kind pc lun : Nat) (stk : Option Nat) : (raiseFault s c kind pc lun stk).freeCtr = s.freeCtr := by simp [raiseFault]

/-! ### `faultSeq` -/

@[simp] theorem faultSeq_pending (s : State) (t : Hart) (kind : Nat) (pc : Addr) (seq : Nat) : (faultSeq s t kind pc seq).pending = s.pending := by cases t <;> simp [faultSeq]
@[simp] theorem faultSeq_mem (s : State) (t : Hart) (kind : Nat) (pc : Addr) (seq : Nat) : (faultSeq s t kind pc seq).mem = s.mem := by cases t <;> simp [faultSeq]
@[simp] theorem faultSeq_poison (s : State) (t : Hart) (kind : Nat) (pc : Addr) (seq : Nat) : (faultSeq s t kind pc seq).poison = s.poison := by cases t <;> simp [faultSeq]
@[simp] theorem faultSeq_count (s : State) (t : Hart) (kind : Nat) (pc : Addr) (seq : Nat) : (faultSeq s t kind pc seq).count = s.count := by cases t <;> simp [faultSeq]
@[simp] theorem faultSeq_heldData (s : State) (t : Hart) (kind : Nat) (pc : Addr) (seq : Nat) : (faultSeq s t kind pc seq).heldData = s.heldData := by cases t <;> simp [faultSeq]
@[simp] theorem faultSeq_lines (s : State) (t : Hart) (kind : Nat) (pc : Addr) (seq : Nat) : (faultSeq s t kind pc seq).lines = s.lines := by cases t <;> simp [faultSeq]
@[simp] theorem faultSeq_hbm (s : State) (t : Hart) (kind : Nat) (pc : Addr) (seq : Nat) : (faultSeq s t kind pc seq).hbm = s.hbm := by cases t <;> simp [faultSeq]
@[simp] theorem faultSeq_sc (s : State) (t : Hart) (kind : Nat) (pc : Addr) (seq : Nat) : (faultSeq s t kind pc seq).sc = s.sc := by cases t <;> simp [faultSeq]
@[simp] theorem faultSeq_units (s : State) (t : Hart) (kind : Nat) (pc : Addr) (seq : Nat) : (faultSeq s t kind pc seq).units = s.units := by cases t <;> simp [faultSeq]
@[simp] theorem faultSeq_res (s : State) (t : Hart) (kind : Nat) (pc : Addr) (seq : Nat) : (faultSeq s t kind pc seq).res = s.res := by cases t <;> simp [faultSeq]
@[simp] theorem faultSeq_order (s : State) (t : Hart) (kind : Nat) (pc : Addr) (seq : Nat) : (faultSeq s t kind pc seq).order = s.order := by cases t <;> simp [faultSeq]
@[simp] theorem faultSeq_signals (s : State) (t : Hart) (kind : Nat) (pc : Addr) (seq : Nat) : (faultSeq s t kind pc seq).signals = s.signals := by cases t <;> simp [faultSeq]
@[simp] theorem faultSeq_se (s : State) (t : Hart) (kind : Nat) (pc : Addr) (seq : Nat) : (faultSeq s t kind pc seq).se = s.se := by cases t <;> simp [faultSeq]
@[simp] theorem faultSeq_smp (s : State) (t : Hart) (kind : Nat) (pc : Addr) (seq : Nat) : (faultSeq s t kind pc seq).smp = s.smp := by cases t <;> simp [faultSeq]
@[simp] theorem faultSeq_eval (s : State) (t : Hart) (kind : Nat) (pc : Addr) (seq : Nat) : (faultSeq s t kind pc seq).eval = s.eval := by cases t <;> simp [faultSeq]
@[simp] theorem faultSeq_sets (s : State) (t : Hart) (kind : Nat) (pc : Addr) (seq : Nat) : (faultSeq s t kind pc seq).sets = s.sets := by cases t <;> simp [faultSeq]
@[simp] theorem faultSeq_slots (s : State) (t : Hart) (kind : Nat) (pc : Addr) (seq : Nat) : (faultSeq s t kind pc seq).slots = s.slots := by cases t <;> simp [faultSeq]
@[simp] theorem faultSeq_turns (s : State) (t : Hart) (kind : Nat) (pc : Addr) (seq : Nat) : (faultSeq s t kind pc seq).turns = s.turns := by cases t <;> simp [faultSeq]
@[simp] theorem faultSeq_sends (s : State) (t : Hart) (kind : Nat) (pc : Addr) (seq : Nat) : (faultSeq s t kind pc seq).sends = s.sends := by cases t <;> simp [faultSeq]
@[simp] theorem faultSeq_drv (s : State) (t : Hart) (kind : Nat) (pc : Addr) (seq : Nat) : (faultSeq s t kind pc seq).drv = s.drv := by cases t <;> simp [faultSeq]
@[simp] theorem faultSeq_adp (s : State) (t : Hart) (kind : Nat) (pc : Addr) (seq : Nat) : (faultSeq s t kind pc seq).adp = s.adp := by cases t <;> simp [faultSeq]
@[simp] theorem faultSeq_streams (s : State) (t : Hart) (kind : Nat) (pc : Addr) (seq : Nat) : (faultSeq s t kind pc seq).streams = s.streams := by cases t <;> simp [faultSeq]
@[simp] theorem faultSeq_dlmEn (s : State) (t : Hart) (kind : Nat) (pc : Addr) (seq : Nat) : (faultSeq s t kind pc seq).dlmEn = s.dlmEn := by cases t <;> simp [faultSeq]
@[simp] theorem faultSeq_diverts (s : State) (t : Hart) (kind : Nat) (pc : Addr) (seq : Nat) : (faultSeq s t kind pc seq).diverts = s.diverts := by cases t <;> simp [faultSeq]
@[simp] theorem faultSeq_stray (s : State) (t : Hart) (kind : Nat) (pc : Addr) (seq : Nat) : (faultSeq s t kind pc seq).stray = s.stray := by cases t <;> simp [faultSeq]
@[simp] theorem faultSeq_ports (s : State) (t : Hart) (kind : Nat) (pc : Addr) (seq : Nat) : (faultSeq s t kind pc seq).ports = s.ports := by cases t <;> simp [faultSeq]
@[simp] theorem faultSeq_groups (s : State) (t : Hart) (kind : Nat) (pc : Addr) (seq : Nat) : (faultSeq s t kind pc seq).groups = s.groups := by cases t <;> simp [faultSeq]
@[simp] theorem faultSeq_fab (s : State) (t : Hart) (kind : Nat) (pc : Addr) (seq : Nat) : (faultSeq s t kind pc seq).fab = s.fab := by cases t <;> simp [faultSeq]
@[simp] theorem faultSeq_host (s : State) (t : Hart) (kind : Nat) (pc : Addr) (seq : Nat) : (faultSeq s t kind pc seq).host = s.host := by cases t <;> simp [faultSeq]
@[simp] theorem faultSeq_evs (s : State) (t : Hart) (kind : Nat) (pc : Addr) (seq : Nat) : (faultSeq s t kind pc seq).evs = s.evs := by cases t <;> simp [faultSeq]
@[simp] theorem faultSeq_trust (s : State) (t : Hart) (kind : Nat) (pc : Addr) (seq : Nat) : (faultSeq s t kind pc seq).trust = s.trust := by cases t <;> simp [faultSeq]
@[simp] theorem faultSeq_flt (s : State) (t : Hart) (kind : Nat) (pc : Addr) (seq : Nat) : (faultSeq s t kind pc seq).flt = s.flt := by cases t <;> simp [faultSeq]
@[simp] theorem faultSeq_time (s : State) (t : Hart) (kind : Nat) (pc : Addr) (seq : Nat) : (faultSeq s t kind pc seq).time = s.time := by cases t <;> simp [faultSeq]
@[simp] theorem faultSeq_pwr (s : State) (t : Hart) (kind : Nat) (pc : Addr) (seq : Nat) : (faultSeq s t kind pc seq).pwr = s.pwr := by cases t <;> simp [faultSeq]
@[simp] theorem faultSeq_freeCtr (s : State) (t : Hart) (kind : Nat) (pc : Addr) (seq : Nat) : (faultSeq s t kind pc seq).freeCtr = s.freeCtr := by cases t <;> simp [faultSeq]

/-! ### `faultAt` -/

@[simp] theorem faultAt_pending (s : State) (t : Hart) (kind : Nat) (pc : Addr) : (faultAt s t kind pc).pending = s.pending := by simp [faultAt]
@[simp] theorem faultAt_mem (s : State) (t : Hart) (kind : Nat) (pc : Addr) : (faultAt s t kind pc).mem = s.mem := by simp [faultAt]
@[simp] theorem faultAt_poison (s : State) (t : Hart) (kind : Nat) (pc : Addr) : (faultAt s t kind pc).poison = s.poison := by simp [faultAt]
@[simp] theorem faultAt_count (s : State) (t : Hart) (kind : Nat) (pc : Addr) : (faultAt s t kind pc).count = s.count := by simp [faultAt]
@[simp] theorem faultAt_heldData (s : State) (t : Hart) (kind : Nat) (pc : Addr) : (faultAt s t kind pc).heldData = s.heldData := by simp [faultAt]
@[simp] theorem faultAt_lines (s : State) (t : Hart) (kind : Nat) (pc : Addr) : (faultAt s t kind pc).lines = s.lines := by simp [faultAt]
@[simp] theorem faultAt_hbm (s : State) (t : Hart) (kind : Nat) (pc : Addr) : (faultAt s t kind pc).hbm = s.hbm := by simp [faultAt]
@[simp] theorem faultAt_sc (s : State) (t : Hart) (kind : Nat) (pc : Addr) : (faultAt s t kind pc).sc = s.sc := by simp [faultAt]
@[simp] theorem faultAt_units (s : State) (t : Hart) (kind : Nat) (pc : Addr) : (faultAt s t kind pc).units = s.units := by simp [faultAt]
@[simp] theorem faultAt_res (s : State) (t : Hart) (kind : Nat) (pc : Addr) : (faultAt s t kind pc).res = s.res := by simp [faultAt]
@[simp] theorem faultAt_order (s : State) (t : Hart) (kind : Nat) (pc : Addr) : (faultAt s t kind pc).order = s.order := by simp [faultAt]
@[simp] theorem faultAt_signals (s : State) (t : Hart) (kind : Nat) (pc : Addr) : (faultAt s t kind pc).signals = s.signals := by simp [faultAt]
@[simp] theorem faultAt_se (s : State) (t : Hart) (kind : Nat) (pc : Addr) : (faultAt s t kind pc).se = s.se := by simp [faultAt]
@[simp] theorem faultAt_smp (s : State) (t : Hart) (kind : Nat) (pc : Addr) : (faultAt s t kind pc).smp = s.smp := by simp [faultAt]
@[simp] theorem faultAt_eval (s : State) (t : Hart) (kind : Nat) (pc : Addr) : (faultAt s t kind pc).eval = s.eval := by simp [faultAt]
@[simp] theorem faultAt_sets (s : State) (t : Hart) (kind : Nat) (pc : Addr) : (faultAt s t kind pc).sets = s.sets := by simp [faultAt]
@[simp] theorem faultAt_slots (s : State) (t : Hart) (kind : Nat) (pc : Addr) : (faultAt s t kind pc).slots = s.slots := by simp [faultAt]
@[simp] theorem faultAt_turns (s : State) (t : Hart) (kind : Nat) (pc : Addr) : (faultAt s t kind pc).turns = s.turns := by simp [faultAt]
@[simp] theorem faultAt_sends (s : State) (t : Hart) (kind : Nat) (pc : Addr) : (faultAt s t kind pc).sends = s.sends := by simp [faultAt]
@[simp] theorem faultAt_drv (s : State) (t : Hart) (kind : Nat) (pc : Addr) : (faultAt s t kind pc).drv = s.drv := by simp [faultAt]
@[simp] theorem faultAt_adp (s : State) (t : Hart) (kind : Nat) (pc : Addr) : (faultAt s t kind pc).adp = s.adp := by simp [faultAt]
@[simp] theorem faultAt_streams (s : State) (t : Hart) (kind : Nat) (pc : Addr) : (faultAt s t kind pc).streams = s.streams := by simp [faultAt]
@[simp] theorem faultAt_dlmEn (s : State) (t : Hart) (kind : Nat) (pc : Addr) : (faultAt s t kind pc).dlmEn = s.dlmEn := by simp [faultAt]
@[simp] theorem faultAt_diverts (s : State) (t : Hart) (kind : Nat) (pc : Addr) : (faultAt s t kind pc).diverts = s.diverts := by simp [faultAt]
@[simp] theorem faultAt_stray (s : State) (t : Hart) (kind : Nat) (pc : Addr) : (faultAt s t kind pc).stray = s.stray := by simp [faultAt]
@[simp] theorem faultAt_ports (s : State) (t : Hart) (kind : Nat) (pc : Addr) : (faultAt s t kind pc).ports = s.ports := by simp [faultAt]
@[simp] theorem faultAt_groups (s : State) (t : Hart) (kind : Nat) (pc : Addr) : (faultAt s t kind pc).groups = s.groups := by simp [faultAt]
@[simp] theorem faultAt_fab (s : State) (t : Hart) (kind : Nat) (pc : Addr) : (faultAt s t kind pc).fab = s.fab := by simp [faultAt]
@[simp] theorem faultAt_host (s : State) (t : Hart) (kind : Nat) (pc : Addr) : (faultAt s t kind pc).host = s.host := by simp [faultAt]
@[simp] theorem faultAt_evs (s : State) (t : Hart) (kind : Nat) (pc : Addr) : (faultAt s t kind pc).evs = s.evs := by simp [faultAt]
@[simp] theorem faultAt_trust (s : State) (t : Hart) (kind : Nat) (pc : Addr) : (faultAt s t kind pc).trust = s.trust := by simp [faultAt]
@[simp] theorem faultAt_flt (s : State) (t : Hart) (kind : Nat) (pc : Addr) : (faultAt s t kind pc).flt = s.flt := by simp [faultAt]
@[simp] theorem faultAt_time (s : State) (t : Hart) (kind : Nat) (pc : Addr) : (faultAt s t kind pc).time = s.time := by simp [faultAt]
@[simp] theorem faultAt_pwr (s : State) (t : Hart) (kind : Nat) (pc : Addr) : (faultAt s t kind pc).pwr = s.pwr := by simp [faultAt]
@[simp] theorem faultAt_freeCtr (s : State) (t : Hart) (kind : Nat) (pc : Addr) : (faultAt s t kind pc).freeCtr = s.freeCtr := by simp [faultAt]

/-! ### `faultEnt` -/

@[simp] theorem faultEnt_pending (s : State) (t : Hart) (kind : Nat) (e : QEnt) : (faultEnt s t kind e).pending = s.pending := by simp [faultEnt]
@[simp] theorem faultEnt_mem (s : State) (t : Hart) (kind : Nat) (e : QEnt) : (faultEnt s t kind e).mem = s.mem := by simp [faultEnt]
@[simp] theorem faultEnt_poison (s : State) (t : Hart) (kind : Nat) (e : QEnt) : (faultEnt s t kind e).poison = s.poison := by simp [faultEnt]
@[simp] theorem faultEnt_count (s : State) (t : Hart) (kind : Nat) (e : QEnt) : (faultEnt s t kind e).count = s.count := by simp [faultEnt]
@[simp] theorem faultEnt_heldData (s : State) (t : Hart) (kind : Nat) (e : QEnt) : (faultEnt s t kind e).heldData = s.heldData := by simp [faultEnt]
@[simp] theorem faultEnt_lines (s : State) (t : Hart) (kind : Nat) (e : QEnt) : (faultEnt s t kind e).lines = s.lines := by simp [faultEnt]
@[simp] theorem faultEnt_hbm (s : State) (t : Hart) (kind : Nat) (e : QEnt) : (faultEnt s t kind e).hbm = s.hbm := by simp [faultEnt]
@[simp] theorem faultEnt_sc (s : State) (t : Hart) (kind : Nat) (e : QEnt) : (faultEnt s t kind e).sc = s.sc := by simp [faultEnt]
@[simp] theorem faultEnt_units (s : State) (t : Hart) (kind : Nat) (e : QEnt) : (faultEnt s t kind e).units = s.units := by simp [faultEnt]
@[simp] theorem faultEnt_res (s : State) (t : Hart) (kind : Nat) (e : QEnt) : (faultEnt s t kind e).res = s.res := by simp [faultEnt]
@[simp] theorem faultEnt_order (s : State) (t : Hart) (kind : Nat) (e : QEnt) : (faultEnt s t kind e).order = s.order := by simp [faultEnt]
@[simp] theorem faultEnt_signals (s : State) (t : Hart) (kind : Nat) (e : QEnt) : (faultEnt s t kind e).signals = s.signals := by simp [faultEnt]
@[simp] theorem faultEnt_se (s : State) (t : Hart) (kind : Nat) (e : QEnt) : (faultEnt s t kind e).se = s.se := by simp [faultEnt]
@[simp] theorem faultEnt_smp (s : State) (t : Hart) (kind : Nat) (e : QEnt) : (faultEnt s t kind e).smp = s.smp := by simp [faultEnt]
@[simp] theorem faultEnt_eval (s : State) (t : Hart) (kind : Nat) (e : QEnt) : (faultEnt s t kind e).eval = s.eval := by simp [faultEnt]
@[simp] theorem faultEnt_sets (s : State) (t : Hart) (kind : Nat) (e : QEnt) : (faultEnt s t kind e).sets = s.sets := by simp [faultEnt]
@[simp] theorem faultEnt_slots (s : State) (t : Hart) (kind : Nat) (e : QEnt) : (faultEnt s t kind e).slots = s.slots := by simp [faultEnt]
@[simp] theorem faultEnt_turns (s : State) (t : Hart) (kind : Nat) (e : QEnt) : (faultEnt s t kind e).turns = s.turns := by simp [faultEnt]
@[simp] theorem faultEnt_sends (s : State) (t : Hart) (kind : Nat) (e : QEnt) : (faultEnt s t kind e).sends = s.sends := by simp [faultEnt]
@[simp] theorem faultEnt_drv (s : State) (t : Hart) (kind : Nat) (e : QEnt) : (faultEnt s t kind e).drv = s.drv := by simp [faultEnt]
@[simp] theorem faultEnt_adp (s : State) (t : Hart) (kind : Nat) (e : QEnt) : (faultEnt s t kind e).adp = s.adp := by simp [faultEnt]
@[simp] theorem faultEnt_streams (s : State) (t : Hart) (kind : Nat) (e : QEnt) : (faultEnt s t kind e).streams = s.streams := by simp [faultEnt]
@[simp] theorem faultEnt_dlmEn (s : State) (t : Hart) (kind : Nat) (e : QEnt) : (faultEnt s t kind e).dlmEn = s.dlmEn := by simp [faultEnt]
@[simp] theorem faultEnt_diverts (s : State) (t : Hart) (kind : Nat) (e : QEnt) : (faultEnt s t kind e).diverts = s.diverts := by simp [faultEnt]
@[simp] theorem faultEnt_stray (s : State) (t : Hart) (kind : Nat) (e : QEnt) : (faultEnt s t kind e).stray = s.stray := by simp [faultEnt]
@[simp] theorem faultEnt_ports (s : State) (t : Hart) (kind : Nat) (e : QEnt) : (faultEnt s t kind e).ports = s.ports := by simp [faultEnt]
@[simp] theorem faultEnt_groups (s : State) (t : Hart) (kind : Nat) (e : QEnt) : (faultEnt s t kind e).groups = s.groups := by simp [faultEnt]
@[simp] theorem faultEnt_fab (s : State) (t : Hart) (kind : Nat) (e : QEnt) : (faultEnt s t kind e).fab = s.fab := by simp [faultEnt]
@[simp] theorem faultEnt_host (s : State) (t : Hart) (kind : Nat) (e : QEnt) : (faultEnt s t kind e).host = s.host := by simp [faultEnt]
@[simp] theorem faultEnt_evs (s : State) (t : Hart) (kind : Nat) (e : QEnt) : (faultEnt s t kind e).evs = s.evs := by simp [faultEnt]
@[simp] theorem faultEnt_trust (s : State) (t : Hart) (kind : Nat) (e : QEnt) : (faultEnt s t kind e).trust = s.trust := by simp [faultEnt]
@[simp] theorem faultEnt_flt (s : State) (t : Hart) (kind : Nat) (e : QEnt) : (faultEnt s t kind e).flt = s.flt := by simp [faultEnt]
@[simp] theorem faultEnt_time (s : State) (t : Hart) (kind : Nat) (e : QEnt) : (faultEnt s t kind e).time = s.time := by simp [faultEnt]
@[simp] theorem faultEnt_pwr (s : State) (t : Hart) (kind : Nat) (e : QEnt) : (faultEnt s t kind e).pwr = s.pwr := by simp [faultEnt]
@[simp] theorem faultEnt_freeCtr (s : State) (t : Hart) (kind : Nat) (e : QEnt) : (faultEnt s t kind e).freeCtr = s.freeCtr := by simp [faultEnt]

/-! ### `startIsland` -/

@[simp] theorem startIsland_pending (s : State) (i : Nat) : (startIsland s i).pending = s.pending := by unfold startIsland; split <;> rfl
@[simp] theorem startIsland_mem (s : State) (i : Nat) : (startIsland s i).mem = s.mem := by unfold startIsland; split <;> rfl
@[simp] theorem startIsland_poison (s : State) (i : Nat) : (startIsland s i).poison = s.poison := by unfold startIsland; split <;> rfl
@[simp] theorem startIsland_count (s : State) (i : Nat) : (startIsland s i).count = s.count := by unfold startIsland; split <;> rfl
@[simp] theorem startIsland_heldData (s : State) (i : Nat) : (startIsland s i).heldData = s.heldData := by unfold startIsland; split <;> rfl
@[simp] theorem startIsland_lines (s : State) (i : Nat) : (startIsland s i).lines = s.lines := by unfold startIsland; split <;> rfl
@[simp] theorem startIsland_hbm (s : State) (i : Nat) : (startIsland s i).hbm = s.hbm := by unfold startIsland; split <;> rfl
@[simp] theorem startIsland_sc (s : State) (i : Nat) : (startIsland s i).sc = s.sc := by unfold startIsland; split <;> rfl
@[simp] theorem startIsland_units (s : State) (i : Nat) : (startIsland s i).units = s.units := by unfold startIsland; split <;> rfl
@[simp] theorem startIsland_ctxs (s : State) (i : Nat) : (startIsland s i).ctxs = s.ctxs := by unfold startIsland; split <;> rfl
@[simp] theorem startIsland_res (s : State) (i : Nat) : (startIsland s i).res = s.res := by unfold startIsland; split <;> rfl
@[simp] theorem startIsland_order (s : State) (i : Nat) : (startIsland s i).order = s.order := by unfold startIsland; split <;> rfl
@[simp] theorem startIsland_signals (s : State) (i : Nat) : (startIsland s i).signals = s.signals := by unfold startIsland; split <;> rfl
@[simp] theorem startIsland_se (s : State) (i : Nat) : (startIsland s i).se = s.se := by unfold startIsland; split <;> rfl
@[simp] theorem startIsland_smp (s : State) (i : Nat) : (startIsland s i).smp = s.smp := by unfold startIsland; split <;> rfl
@[simp] theorem startIsland_eval (s : State) (i : Nat) : (startIsland s i).eval = s.eval := by unfold startIsland; split <;> rfl
@[simp] theorem startIsland_sets (s : State) (i : Nat) : (startIsland s i).sets = s.sets := by unfold startIsland; split <;> rfl
@[simp] theorem startIsland_slots (s : State) (i : Nat) : (startIsland s i).slots = s.slots := by unfold startIsland; split <;> rfl
@[simp] theorem startIsland_turns (s : State) (i : Nat) : (startIsland s i).turns = s.turns := by unfold startIsland; split <;> rfl
@[simp] theorem startIsland_sends (s : State) (i : Nat) : (startIsland s i).sends = s.sends := by unfold startIsland; split <;> rfl
@[simp] theorem startIsland_drv (s : State) (i : Nat) : (startIsland s i).drv = s.drv := by unfold startIsland; split <;> rfl
@[simp] theorem startIsland_adp (s : State) (i : Nat) : (startIsland s i).adp = s.adp := by unfold startIsland; split <;> rfl
@[simp] theorem startIsland_streams (s : State) (i : Nat) : (startIsland s i).streams = s.streams := by unfold startIsland; split <;> rfl
@[simp] theorem startIsland_dlmEn (s : State) (i : Nat) : (startIsland s i).dlmEn = s.dlmEn := by unfold startIsland; split <;> rfl
@[simp] theorem startIsland_diverts (s : State) (i : Nat) : (startIsland s i).diverts = s.diverts := by unfold startIsland; split <;> rfl
@[simp] theorem startIsland_stray (s : State) (i : Nat) : (startIsland s i).stray = s.stray := by unfold startIsland; split <;> rfl
@[simp] theorem startIsland_ports (s : State) (i : Nat) : (startIsland s i).ports = s.ports := by unfold startIsland; split <;> rfl
@[simp] theorem startIsland_groups (s : State) (i : Nat) : (startIsland s i).groups = s.groups := by unfold startIsland; split <;> rfl
@[simp] theorem startIsland_fab (s : State) (i : Nat) : (startIsland s i).fab = s.fab := by unfold startIsland; split <;> rfl
@[simp] theorem startIsland_host (s : State) (i : Nat) : (startIsland s i).host = s.host := by unfold startIsland; split <;> rfl
@[simp] theorem startIsland_evs (s : State) (i : Nat) : (startIsland s i).evs = s.evs := by unfold startIsland; split <;> rfl
@[simp] theorem startIsland_trust (s : State) (i : Nat) : (startIsland s i).trust = s.trust := by unfold startIsland; split <;> rfl
@[simp] theorem startIsland_time (s : State) (i : Nat) : (startIsland s i).time = s.time := by unfold startIsland; split <;> rfl
@[simp] theorem startIsland_freeCtr (s : State) (i : Nat) : (startIsland s i).freeCtr = s.freeCtr := by unfold startIsland; split <;> rfl

/-! ### `reachStore` -/

@[simp] theorem reachStore_pending (s : State) (a : Nat) : (reachStore s a).pending = s.pending := by unfold reachStore; split <;> simp
@[simp] theorem reachStore_mem (s : State) (a : Nat) : (reachStore s a).mem = s.mem := by unfold reachStore; split <;> simp
@[simp] theorem reachStore_poison (s : State) (a : Nat) : (reachStore s a).poison = s.poison := by unfold reachStore; split <;> simp
@[simp] theorem reachStore_count (s : State) (a : Nat) : (reachStore s a).count = s.count := by unfold reachStore; split <;> simp
@[simp] theorem reachStore_heldData (s : State) (a : Nat) : (reachStore s a).heldData = s.heldData := by unfold reachStore; split <;> simp
@[simp] theorem reachStore_lines (s : State) (a : Nat) : (reachStore s a).lines = s.lines := by unfold reachStore; split <;> simp
@[simp] theorem reachStore_hbm (s : State) (a : Nat) : (reachStore s a).hbm = s.hbm := by unfold reachStore; split <;> simp
@[simp] theorem reachStore_sc (s : State) (a : Nat) : (reachStore s a).sc = s.sc := by unfold reachStore; split <;> simp
@[simp] theorem reachStore_units (s : State) (a : Nat) : (reachStore s a).units = s.units := by unfold reachStore; split <;> simp
@[simp] theorem reachStore_ctxs (s : State) (a : Nat) : (reachStore s a).ctxs = s.ctxs := by unfold reachStore; split <;> simp
@[simp] theorem reachStore_res (s : State) (a : Nat) : (reachStore s a).res = s.res := by unfold reachStore; split <;> simp
@[simp] theorem reachStore_order (s : State) (a : Nat) : (reachStore s a).order = s.order := by unfold reachStore; split <;> simp
@[simp] theorem reachStore_signals (s : State) (a : Nat) : (reachStore s a).signals = s.signals := by unfold reachStore; split <;> simp
@[simp] theorem reachStore_se (s : State) (a : Nat) : (reachStore s a).se = s.se := by unfold reachStore; split <;> simp
@[simp] theorem reachStore_smp (s : State) (a : Nat) : (reachStore s a).smp = s.smp := by unfold reachStore; split <;> simp
@[simp] theorem reachStore_eval (s : State) (a : Nat) : (reachStore s a).eval = s.eval := by unfold reachStore; split <;> simp
@[simp] theorem reachStore_sets (s : State) (a : Nat) : (reachStore s a).sets = s.sets := by unfold reachStore; split <;> simp
@[simp] theorem reachStore_slots (s : State) (a : Nat) : (reachStore s a).slots = s.slots := by unfold reachStore; split <;> simp
@[simp] theorem reachStore_turns (s : State) (a : Nat) : (reachStore s a).turns = s.turns := by unfold reachStore; split <;> simp
@[simp] theorem reachStore_sends (s : State) (a : Nat) : (reachStore s a).sends = s.sends := by unfold reachStore; split <;> simp
@[simp] theorem reachStore_drv (s : State) (a : Nat) : (reachStore s a).drv = s.drv := by unfold reachStore; split <;> simp
@[simp] theorem reachStore_adp (s : State) (a : Nat) : (reachStore s a).adp = s.adp := by unfold reachStore; split <;> simp
@[simp] theorem reachStore_streams (s : State) (a : Nat) : (reachStore s a).streams = s.streams := by unfold reachStore; split <;> simp
@[simp] theorem reachStore_dlmEn (s : State) (a : Nat) : (reachStore s a).dlmEn = s.dlmEn := by unfold reachStore; split <;> simp
@[simp] theorem reachStore_diverts (s : State) (a : Nat) : (reachStore s a).diverts = s.diverts := by unfold reachStore; split <;> simp
@[simp] theorem reachStore_stray (s : State) (a : Nat) : (reachStore s a).stray = s.stray := by unfold reachStore; split <;> simp
@[simp] theorem reachStore_ports (s : State) (a : Nat) : (reachStore s a).ports = s.ports := by unfold reachStore; split <;> simp
@[simp] theorem reachStore_groups (s : State) (a : Nat) : (reachStore s a).groups = s.groups := by unfold reachStore; split <;> simp
@[simp] theorem reachStore_fab (s : State) (a : Nat) : (reachStore s a).fab = s.fab := by unfold reachStore; split <;> simp
@[simp] theorem reachStore_host (s : State) (a : Nat) : (reachStore s a).host = s.host := by unfold reachStore; split <;> simp
@[simp] theorem reachStore_evs (s : State) (a : Nat) : (reachStore s a).evs = s.evs := by unfold reachStore; split <;> simp
@[simp] theorem reachStore_trust (s : State) (a : Nat) : (reachStore s a).trust = s.trust := by unfold reachStore; split <;> simp
@[simp] theorem reachStore_time (s : State) (a : Nat) : (reachStore s a).time = s.time := by unfold reachStore; split <;> simp
@[simp] theorem reachStore_freeCtr (s : State) (a : Nat) : (reachStore s a).freeCtr = s.freeCtr := by unfold reachStore; split <;> simp

/-! ### `setHartCore` -/

@[simp] theorem setHartCore_pending (s : State) (t : Hart) (k : Core) : (setHartCore s t k).pending = s.pending := by cases t <;> simp [setHartCore]
@[simp] theorem setHartCore_mem (s : State) (t : Hart) (k : Core) : (setHartCore s t k).mem = s.mem := by cases t <;> simp [setHartCore]
@[simp] theorem setHartCore_poison (s : State) (t : Hart) (k : Core) : (setHartCore s t k).poison = s.poison := by cases t <;> simp [setHartCore]
@[simp] theorem setHartCore_count (s : State) (t : Hart) (k : Core) : (setHartCore s t k).count = s.count := by cases t <;> simp [setHartCore]
@[simp] theorem setHartCore_heldData (s : State) (t : Hart) (k : Core) : (setHartCore s t k).heldData = s.heldData := by cases t <;> simp [setHartCore]
@[simp] theorem setHartCore_lines (s : State) (t : Hart) (k : Core) : (setHartCore s t k).lines = s.lines := by cases t <;> simp [setHartCore]
@[simp] theorem setHartCore_hbm (s : State) (t : Hart) (k : Core) : (setHartCore s t k).hbm = s.hbm := by cases t <;> simp [setHartCore]
@[simp] theorem setHartCore_sc (s : State) (t : Hart) (k : Core) : (setHartCore s t k).sc = s.sc := by cases t <;> simp [setHartCore]
@[simp] theorem setHartCore_units (s : State) (t : Hart) (k : Core) : (setHartCore s t k).units = s.units := by cases t <;> simp [setHartCore]
@[simp] theorem setHartCore_ctxs (s : State) (t : Hart) (k : Core) : (setHartCore s t k).ctxs = s.ctxs := by cases t <;> simp [setHartCore]
@[simp] theorem setHartCore_order (s : State) (t : Hart) (k : Core) : (setHartCore s t k).order = s.order := by cases t <;> simp [setHartCore]
@[simp] theorem setHartCore_signals (s : State) (t : Hart) (k : Core) : (setHartCore s t k).signals = s.signals := by cases t <;> simp [setHartCore]
@[simp] theorem setHartCore_smp (s : State) (t : Hart) (k : Core) : (setHartCore s t k).smp = s.smp := by cases t <;> simp [setHartCore]
@[simp] theorem setHartCore_eval (s : State) (t : Hart) (k : Core) : (setHartCore s t k).eval = s.eval := by cases t <;> simp [setHartCore]
@[simp] theorem setHartCore_sets (s : State) (t : Hart) (k : Core) : (setHartCore s t k).sets = s.sets := by cases t <;> simp [setHartCore]
@[simp] theorem setHartCore_slots (s : State) (t : Hart) (k : Core) : (setHartCore s t k).slots = s.slots := by cases t <;> simp [setHartCore]
@[simp] theorem setHartCore_turns (s : State) (t : Hart) (k : Core) : (setHartCore s t k).turns = s.turns := by cases t <;> simp [setHartCore]
@[simp] theorem setHartCore_sends (s : State) (t : Hart) (k : Core) : (setHartCore s t k).sends = s.sends := by cases t <;> simp [setHartCore]
@[simp] theorem setHartCore_drv (s : State) (t : Hart) (k : Core) : (setHartCore s t k).drv = s.drv := by cases t <;> simp [setHartCore]
@[simp] theorem setHartCore_adp (s : State) (t : Hart) (k : Core) : (setHartCore s t k).adp = s.adp := by cases t <;> simp [setHartCore]
@[simp] theorem setHartCore_streams (s : State) (t : Hart) (k : Core) : (setHartCore s t k).streams = s.streams := by cases t <;> simp [setHartCore]
@[simp] theorem setHartCore_dlmEn (s : State) (t : Hart) (k : Core) : (setHartCore s t k).dlmEn = s.dlmEn := by cases t <;> simp [setHartCore]
@[simp] theorem setHartCore_diverts (s : State) (t : Hart) (k : Core) : (setHartCore s t k).diverts = s.diverts := by cases t <;> simp [setHartCore]
@[simp] theorem setHartCore_stray (s : State) (t : Hart) (k : Core) : (setHartCore s t k).stray = s.stray := by cases t <;> simp [setHartCore]
@[simp] theorem setHartCore_ports (s : State) (t : Hart) (k : Core) : (setHartCore s t k).ports = s.ports := by cases t <;> simp [setHartCore]
@[simp] theorem setHartCore_groups (s : State) (t : Hart) (k : Core) : (setHartCore s t k).groups = s.groups := by cases t <;> simp [setHartCore]
@[simp] theorem setHartCore_fab (s : State) (t : Hart) (k : Core) : (setHartCore s t k).fab = s.fab := by cases t <;> simp [setHartCore]
@[simp] theorem setHartCore_host (s : State) (t : Hart) (k : Core) : (setHartCore s t k).host = s.host := by cases t <;> simp [setHartCore]
@[simp] theorem setHartCore_evs (s : State) (t : Hart) (k : Core) : (setHartCore s t k).evs = s.evs := by cases t <;> simp [setHartCore]
@[simp] theorem setHartCore_trust (s : State) (t : Hart) (k : Core) : (setHartCore s t k).trust = s.trust := by cases t <;> simp [setHartCore]
@[simp] theorem setHartCore_flt (s : State) (t : Hart) (k : Core) : (setHartCore s t k).flt = s.flt := by cases t <;> simp [setHartCore]
@[simp] theorem setHartCore_time (s : State) (t : Hart) (k : Core) : (setHartCore s t k).time = s.time := by cases t <;> simp [setHartCore]
@[simp] theorem setHartCore_pwr (s : State) (t : Hart) (k : Core) : (setHartCore s t k).pwr = s.pwr := by cases t <;> simp [setHartCore]
@[simp] theorem setHartCore_freeCtr (s : State) (t : Hart) (k : Core) : (setHartCore s t k).freeCtr = s.freeCtr := by cases t <;> simp [setHartCore]

/-! ### `hbmRequest` -/

@[simp] theorem hbmRequest_pending (s : State) (a : Nat) (inner write : Bool) : (hbmRequest s a inner write).pending = s.pending := rfl
@[simp] theorem hbmRequest_mem (s : State) (a : Nat) (inner write : Bool) : (hbmRequest s a inner write).mem = s.mem := rfl
@[simp] theorem hbmRequest_poison (s : State) (a : Nat) (inner write : Bool) : (hbmRequest s a inner write).poison = s.poison := rfl
@[simp] theorem hbmRequest_count (s : State) (a : Nat) (inner write : Bool) : (hbmRequest s a inner write).count = s.count := rfl
@[simp] theorem hbmRequest_heldData (s : State) (a : Nat) (inner write : Bool) : (hbmRequest s a inner write).heldData = s.heldData := rfl
@[simp] theorem hbmRequest_lines (s : State) (a : Nat) (inner write : Bool) : (hbmRequest s a inner write).lines = s.lines := rfl
@[simp] theorem hbmRequest_sc (s : State) (a : Nat) (inner write : Bool) : (hbmRequest s a inner write).sc = s.sc := rfl
@[simp] theorem hbmRequest_units (s : State) (a : Nat) (inner write : Bool) : (hbmRequest s a inner write).units = s.units := rfl
@[simp] theorem hbmRequest_ctxs (s : State) (a : Nat) (inner write : Bool) : (hbmRequest s a inner write).ctxs = s.ctxs := rfl
@[simp] theorem hbmRequest_res (s : State) (a : Nat) (inner write : Bool) : (hbmRequest s a inner write).res = s.res := rfl
@[simp] theorem hbmRequest_order (s : State) (a : Nat) (inner write : Bool) : (hbmRequest s a inner write).order = s.order := rfl
@[simp] theorem hbmRequest_signals (s : State) (a : Nat) (inner write : Bool) : (hbmRequest s a inner write).signals = s.signals := rfl
@[simp] theorem hbmRequest_se (s : State) (a : Nat) (inner write : Bool) : (hbmRequest s a inner write).se = s.se := rfl
@[simp] theorem hbmRequest_smp (s : State) (a : Nat) (inner write : Bool) : (hbmRequest s a inner write).smp = s.smp := rfl
@[simp] theorem hbmRequest_eval (s : State) (a : Nat) (inner write : Bool) : (hbmRequest s a inner write).eval = s.eval := rfl
@[simp] theorem hbmRequest_sets (s : State) (a : Nat) (inner write : Bool) : (hbmRequest s a inner write).sets = s.sets := rfl
@[simp] theorem hbmRequest_slots (s : State) (a : Nat) (inner write : Bool) : (hbmRequest s a inner write).slots = s.slots := rfl
@[simp] theorem hbmRequest_turns (s : State) (a : Nat) (inner write : Bool) : (hbmRequest s a inner write).turns = s.turns := rfl
@[simp] theorem hbmRequest_sends (s : State) (a : Nat) (inner write : Bool) : (hbmRequest s a inner write).sends = s.sends := rfl
@[simp] theorem hbmRequest_drv (s : State) (a : Nat) (inner write : Bool) : (hbmRequest s a inner write).drv = s.drv := rfl
@[simp] theorem hbmRequest_adp (s : State) (a : Nat) (inner write : Bool) : (hbmRequest s a inner write).adp = s.adp := rfl
@[simp] theorem hbmRequest_streams (s : State) (a : Nat) (inner write : Bool) : (hbmRequest s a inner write).streams = s.streams := rfl
@[simp] theorem hbmRequest_dlmEn (s : State) (a : Nat) (inner write : Bool) : (hbmRequest s a inner write).dlmEn = s.dlmEn := rfl
@[simp] theorem hbmRequest_diverts (s : State) (a : Nat) (inner write : Bool) : (hbmRequest s a inner write).diverts = s.diverts := rfl
@[simp] theorem hbmRequest_stray (s : State) (a : Nat) (inner write : Bool) : (hbmRequest s a inner write).stray = s.stray := rfl
@[simp] theorem hbmRequest_ports (s : State) (a : Nat) (inner write : Bool) : (hbmRequest s a inner write).ports = s.ports := rfl
@[simp] theorem hbmRequest_groups (s : State) (a : Nat) (inner write : Bool) : (hbmRequest s a inner write).groups = s.groups := rfl
@[simp] theorem hbmRequest_fab (s : State) (a : Nat) (inner write : Bool) : (hbmRequest s a inner write).fab = s.fab := rfl
@[simp] theorem hbmRequest_host (s : State) (a : Nat) (inner write : Bool) : (hbmRequest s a inner write).host = s.host := rfl
@[simp] theorem hbmRequest_evs (s : State) (a : Nat) (inner write : Bool) : (hbmRequest s a inner write).evs = s.evs := rfl
@[simp] theorem hbmRequest_trust (s : State) (a : Nat) (inner write : Bool) : (hbmRequest s a inner write).trust = s.trust := rfl
@[simp] theorem hbmRequest_flt (s : State) (a : Nat) (inner write : Bool) : (hbmRequest s a inner write).flt = s.flt := rfl
@[simp] theorem hbmRequest_time (s : State) (a : Nat) (inner write : Bool) : (hbmRequest s a inner write).time = s.time := rfl
@[simp] theorem hbmRequest_pwr (s : State) (a : Nat) (inner write : Bool) : (hbmRequest s a inner write).pwr = s.pwr := rfl
@[simp] theorem hbmRequest_freeCtr (s : State) (a : Nat) (inner write : Bool) : (hbmRequest s a inner write).freeCtr = s.freeCtr := rfl

/-! ### `advance` -/

@[simp] theorem advance_pending (s : State) (t : W64) : (advance s t).pending = s.pending := by unfold advance; split <;> rfl
@[simp] theorem advance_mem (s : State) (t : W64) : (advance s t).mem = s.mem := by unfold advance; split <;> rfl
@[simp] theorem advance_poison (s : State) (t : W64) : (advance s t).poison = s.poison := by unfold advance; split <;> rfl
@[simp] theorem advance_count (s : State) (t : W64) : (advance s t).count = s.count := by unfold advance; split <;> rfl
@[simp] theorem advance_heldData (s : State) (t : W64) : (advance s t).heldData = s.heldData := by unfold advance; split <;> rfl
@[simp] theorem advance_lines (s : State) (t : W64) : (advance s t).lines = s.lines := by unfold advance; split <;> rfl
@[simp] theorem advance_sc (s : State) (t : W64) : (advance s t).sc = s.sc := by unfold advance; split <;> rfl
@[simp] theorem advance_units (s : State) (t : W64) : (advance s t).units = s.units := by unfold advance; split <;> rfl
@[simp] theorem advance_ctxs (s : State) (t : W64) : (advance s t).ctxs = s.ctxs := by unfold advance; split <;> rfl
@[simp] theorem advance_res (s : State) (t : W64) : (advance s t).res = s.res := by unfold advance; split <;> rfl
@[simp] theorem advance_order (s : State) (t : W64) : (advance s t).order = s.order := by unfold advance; split <;> rfl
@[simp] theorem advance_signals (s : State) (t : W64) : (advance s t).signals = s.signals := by unfold advance; split <;> rfl
@[simp] theorem advance_se (s : State) (t : W64) : (advance s t).se = s.se := by unfold advance; split <;> rfl
@[simp] theorem advance_smp (s : State) (t : W64) : (advance s t).smp = s.smp := by unfold advance; split <;> rfl
@[simp] theorem advance_eval (s : State) (t : W64) : (advance s t).eval = s.eval := by unfold advance; split <;> rfl
@[simp] theorem advance_sets (s : State) (t : W64) : (advance s t).sets = s.sets := by unfold advance; split <;> rfl
@[simp] theorem advance_slots (s : State) (t : W64) : (advance s t).slots = s.slots := by unfold advance; split <;> rfl
@[simp] theorem advance_turns (s : State) (t : W64) : (advance s t).turns = s.turns := by unfold advance; split <;> rfl
@[simp] theorem advance_sends (s : State) (t : W64) : (advance s t).sends = s.sends := by unfold advance; split <;> rfl
@[simp] theorem advance_drv (s : State) (t : W64) : (advance s t).drv = s.drv := by unfold advance; split <;> rfl
@[simp] theorem advance_adp (s : State) (t : W64) : (advance s t).adp = s.adp := by unfold advance; split <;> rfl
@[simp] theorem advance_streams (s : State) (t : W64) : (advance s t).streams = s.streams := by unfold advance; split <;> rfl
@[simp] theorem advance_dlmEn (s : State) (t : W64) : (advance s t).dlmEn = s.dlmEn := by unfold advance; split <;> rfl
@[simp] theorem advance_diverts (s : State) (t : W64) : (advance s t).diverts = s.diverts := by unfold advance; split <;> rfl
@[simp] theorem advance_stray (s : State) (t : W64) : (advance s t).stray = s.stray := by unfold advance; split <;> rfl
@[simp] theorem advance_ports (s : State) (t : W64) : (advance s t).ports = s.ports := by unfold advance; split <;> rfl
@[simp] theorem advance_groups (s : State) (t : W64) : (advance s t).groups = s.groups := by unfold advance; split <;> rfl
@[simp] theorem advance_fab (s : State) (t : W64) : (advance s t).fab = s.fab := by unfold advance; split <;> rfl
@[simp] theorem advance_host (s : State) (t : W64) : (advance s t).host = s.host := by unfold advance; split <;> rfl
@[simp] theorem advance_evs (s : State) (t : W64) : (advance s t).evs = s.evs := by unfold advance; split <;> rfl
@[simp] theorem advance_trust (s : State) (t : W64) : (advance s t).trust = s.trust := by unfold advance; split <;> rfl
@[simp] theorem advance_flt (s : State) (t : W64) : (advance s t).flt = s.flt := by unfold advance; split <;> rfl
@[simp] theorem advance_pwr (s : State) (t : W64) : (advance s t).pwr = s.pwr := by unfold advance; split <;> rfl
@[simp] theorem advance_freeCtr (s : State) (t : W64) : (advance s t).freeCtr = s.freeCtr := by unfold advance; split <;> rfl

/-! ### `bump` -/

@[simp] theorem bump_pending (s : State) : (bump s).pending = s.pending := rfl
@[simp] theorem bump_mem (s : State) : (bump s).mem = s.mem := rfl
@[simp] theorem bump_poison (s : State) : (bump s).poison = s.poison := rfl
@[simp] theorem bump_count (s : State) : (bump s).count = s.count := rfl
@[simp] theorem bump_heldData (s : State) : (bump s).heldData = s.heldData := rfl
@[simp] theorem bump_lines (s : State) : (bump s).lines = s.lines := rfl
@[simp] theorem bump_hbm (s : State) : (bump s).hbm = s.hbm := rfl
@[simp] theorem bump_sc (s : State) : (bump s).sc = s.sc := rfl
@[simp] theorem bump_units (s : State) : (bump s).units = s.units := rfl
@[simp] theorem bump_ctxs (s : State) : (bump s).ctxs = s.ctxs := rfl
@[simp] theorem bump_res (s : State) : (bump s).res = s.res := rfl
@[simp] theorem bump_order (s : State) : (bump s).order = s.order := rfl
@[simp] theorem bump_signals (s : State) : (bump s).signals = s.signals := rfl
@[simp] theorem bump_se (s : State) : (bump s).se = s.se := rfl
@[simp] theorem bump_smp (s : State) : (bump s).smp = s.smp := rfl
@[simp] theorem bump_eval (s : State) : (bump s).eval = s.eval := rfl
@[simp] theorem bump_sets (s : State) : (bump s).sets = s.sets := rfl
@[simp] theorem bump_slots (s : State) : (bump s).slots = s.slots := rfl
@[simp] theorem bump_turns (s : State) : (bump s).turns = s.turns := rfl
@[simp] theorem bump_sends (s : State) : (bump s).sends = s.sends := rfl
@[simp] theorem bump_drv (s : State) : (bump s).drv = s.drv := rfl
@[simp] theorem bump_adp (s : State) : (bump s).adp = s.adp := rfl
@[simp] theorem bump_streams (s : State) : (bump s).streams = s.streams := rfl
@[simp] theorem bump_dlmEn (s : State) : (bump s).dlmEn = s.dlmEn := rfl
@[simp] theorem bump_diverts (s : State) : (bump s).diverts = s.diverts := rfl
@[simp] theorem bump_stray (s : State) : (bump s).stray = s.stray := rfl
@[simp] theorem bump_ports (s : State) : (bump s).ports = s.ports := rfl
@[simp] theorem bump_groups (s : State) : (bump s).groups = s.groups := rfl
@[simp] theorem bump_fab (s : State) : (bump s).fab = s.fab := rfl
@[simp] theorem bump_host (s : State) : (bump s).host = s.host := rfl
@[simp] theorem bump_evs (s : State) : (bump s).evs = s.evs := rfl
@[simp] theorem bump_trust (s : State) : (bump s).trust = s.trust := rfl
@[simp] theorem bump_flt (s : State) : (bump s).flt = s.flt := rfl
@[simp] theorem bump_time (s : State) : (bump s).time = s.time := rfl
@[simp] theorem bump_pwr (s : State) : (bump s).pwr = s.pwr := rfl

/-! ### What each update writes, read back -/

@[simp] theorem scOf_setSc_same (s : State) (r : Nat) (x : ScSt) : scOf (setSc s r x) r = x := Tbl.get_put_same _ _ _ _
theorem scOf_setSc_other (s : State) (r q : Nat) (x : ScSt) (h : q ≠ r) : scOf (setSc s r x) q = scOf s q := Tbl.get_put_other _ _ _ _ _ h
@[simp] theorem unitOf_setUnit_same (s : State) (u : Nat) (x : UnitSt) : unitOf (setUnit s u x) u = x := Tbl.get_put_same _ _ _ _
theorem unitOf_setUnit_other (s : State) (u q : Nat) (x : UnitSt) (h : q ≠ u) : unitOf (setUnit s u x) q = unitOf s q :=
  Tbl.get_put_other _ _ _ _ _ h
@[simp] theorem unitOf_updUnit_same (s : State) (u : Nat) (f : UnitSt → UnitSt) : unitOf (updUnit s u f) u = f (unitOf s u) :=
  unitOf_setUnit_same _ _ _
theorem unitOf_updUnit_other (s : State) (u q : Nat) (f : UnitSt → UnitSt) (h : q ≠ u) : unitOf (updUnit s u f) q = unitOf s q :=
  unitOf_setUnit_other _ _ _ _ h
@[simp] theorem ctxOf_setCtx_same (s : State) (c : Nat) (x : Ctx) : ctxOf (setCtx s c x) c = some x := Tbl.find?_put_same _ _ _
theorem ctxOf_setCtx_other (s : State) (c d : Nat) (x : Ctx) (h : d ≠ c) : ctxOf (setCtx s c x) d = ctxOf s d := Tbl.find?_put_other _ _ _ _ h
theorem ctxOf_updCtx_same (s : State) (c : Nat) (f : Ctx → Ctx) : ctxOf (updCtx s c f) c = (ctxOf s c).map f := by
  unfold updCtx
  split
  · rename_i h
    simp [h]
  · rename_i x h
    simp [h]
theorem ctxOf_updCtx_other (s : State) (c d : Nat) (f : Ctx → Ctx) (h : d ≠ c) : ctxOf (updCtx s c f) d = ctxOf s d := by
  unfold updCtx
  split
  · rfl
  · exact ctxOf_setCtx_other _ _ _ _ h
@[simp] theorem resOf_setRes_same (s : State) (u c : Nat) (x : Res) : resOf (setRes s u c x) u c = some x := Tbl.find?_put_same _ _ _
theorem resOf_setRes_other (s : State) (u c v d : Nat) (x : Res) (h : resKey v d ≠ resKey u c) : resOf (setRes s u c x) v d = resOf s v d :=
  Tbl.find?_put_other _ _ _ _ h
theorem resOf_updRes_same (s : State) (u c : Nat) (f : Res → Res) : resOf (updRes s u c f) u c = (resOf s u c).map f := by
  unfold updRes
  split
  · rename_i h
    simp [h]
  · rename_i x h
    simp [h]
theorem resOf_updRes_other (s : State) (u c v d : Nat) (f : Res → Res) (h : resKey v d ≠ resKey u c) : resOf (updRes s u c f) v d = resOf s v d := by
  unfold updRes
  split
  · rfl
  · exact resOf_setRes_other _ _ _ _ _ _ h
@[simp] theorem seOf_setSe_same (s : State) (st : Nat) (x : SeSt) : seOf (setSe s st x) st = x := Tbl.get_put_same _ _ _ _
theorem seOf_setSe_other (s : State) (st q : Nat) (x : SeSt) (h : q ≠ st) : seOf (setSe s st x) q = seOf s q := Tbl.get_put_other _ _ _ _ _ h
@[simp] theorem seOf_updSe_same (s : State) (st : Nat) (f : SeSt → SeSt) : seOf (updSe s st f) st = f (seOf s st) := seOf_setSe_same _ _ _
theorem seOf_updSe_other (s : State) (st q : Nat) (f : SeSt → SeSt) (h : q ≠ st) : seOf (updSe s st f) q = seOf s q := seOf_setSe_other _ _ _ _ h
@[simp] theorem ringOf_setRing_same (s : State) (r : Nat) (x : RingSt) : ringOf (setRing s r x) r = x := Tbl.get_put_same _ _ _ _
theorem ringOf_setRing_other (s : State) (r q : Nat) (x : RingSt) (h : q ≠ r) : ringOf (setRing s r x) q = ringOf s q :=
  Tbl.get_put_other _ _ _ _ _ h
@[simp] theorem bump_freeCtr (s : State) : (bump s).freeCtr = s.freeCtr + 1 := rfl
theorem raiseEv_evs (s : State) (code cls a b : Nat) : (raiseEv s code cls a b).evs
    = s.evs ++ [{ code := code, cls := cls, arg0 := BitVec.ofNat 32 a, arg1 := BitVec.ofNat 64 b, time := s.time.now }] := rfl

end Sys2Proof.Machine
end

