-- ==== Sys2Proof/Laws/Memory.lean ====
section
/-!
SUPPORT. Sys2Proof/Laws/Memory.lean: every operation over memory keeps its canonical form (log entry 2), and what a byte reads as after a
write of bytes.
-/

namespace Sys2Proof.Tbl

variable {α : Type}

/-- Every listed key is at least k. -/
def above (k : Nat) (m : List (Nat × α)) : Prop := ∀ c ∈ m, k ≤ c.1

theorem sorted_cons (j : Nat) (w : α) (m : List (Nat × α)) : sorted ((j, w) :: m) = true ↔ above (j + 1) m ∧ sorted m = true := by
  induction m generalizing j w with
  | nil => simp [sorted, above]
  | cons p t ih =>
    obtain ⟨i, v⟩ := p
    rw [sorted, Bool.and_eq_true, decide_eq_true_eq]
    constructor
    · rintro ⟨h1, h2⟩
      refine ⟨fun c hc => ?_, h2⟩
      rcases List.mem_cons.1 hc with rfl | hc
      · exact h1
      · have := ((ih i v).1 h2).1 c hc
        omega
    · rintro ⟨h1, h2⟩
      exact ⟨h1 (i, v) (List.mem_cons_self ..), h2⟩

theorem above_put {m : List (Nat × α)} {j k : Nat} {v : α} (h : above j m) (hk : j ≤ k) : above j (put m k v) := by
  induction m with
  | nil => intro c hc; simp [put] at hc; simp [hc, hk]
  | cons p t ih =>
    obtain ⟨i, w⟩ := p
    have h1 : j ≤ i := h (i, w) (List.mem_cons_self ..)
    have h2 : above j t := fun c hc => h c (List.mem_cons_of_mem _ hc)
    unfold put
    intro c hc
    split at hc
    · rcases List.mem_cons.1 hc with rfl | hc
      · exact hk
      · exact h c hc
    · split at hc
      · rcases List.mem_cons.1 hc with rfl | hc
        · exact hk
        · exact h2 c hc
      · rcases List.mem_cons.1 hc with rfl | hc
        · exact h1
        · exact ih h2 c hc

theorem sorted_put {m : List (Nat × α)} {k : Nat} {v : α} (h : sorted m = true) : sorted (put m k v) = true := by
  induction m with
  | nil => rfl
  | cons p t ih =>
    obtain ⟨i, w⟩ := p
    obtain ⟨h1, h2⟩ := (sorted_cons i w t).1 h
    unfold put
    split
    · refine (sorted_cons _ _ _).2 ⟨fun c hc => ?_, h⟩
      rcases List.mem_cons.1 hc with rfl | hc
      · assumption
      · have := h1 c hc
        omega
    · split
      · rename_i _ he
        subst he
        exact (sorted_cons _ _ _).2 ⟨h1, h2⟩
      · exact (sorted_cons _ _ _).2 ⟨above_put h1 (by omega), ih h2⟩

theorem del_eq_filter (m : List (Nat × α)) (k : Nat) : del m k = m.filter (fun c => c.1 != k) := by
  induction m with
  | nil => rfl
  | cons p t ih =>
    obtain ⟨i, w⟩ := p
    unfold del
    split
    · rename_i h
      simp [h, ih]
    · rename_i h
      simp [h, ih]

theorem sorted_filter {m : List (Nat × α)} (p : Nat × α → Bool) (h : sorted m = true) : sorted (m.filter p) = true := by
  induction m with
  | nil => rfl
  | cons q t ih =>
    obtain ⟨i, w⟩ := q
    obtain ⟨h1, h2⟩ := (sorted_cons i w t).1 h
    rw [List.filter_cons]
    split
    · exact (sorted_cons _ _ _).2 ⟨fun c hc => h1 c ((List.mem_filter.1 hc).1), ih h2⟩
    · exact ih h2

theorem mem_put {m : List (Nat × α)} {k : Nat} {v : α} {c : Nat × α} (h : c ∈ put m k v) : c = (k, v) ∨ c ∈ m := by
  induction m with
  | nil => simpa [put] using h
  | cons p t ih =>
    obtain ⟨i, w⟩ := p
    unfold put at h
    split at h
    · exact List.mem_cons.1 h
    · split at h
      · rcases List.mem_cons.1 h with h | h
        · exact .inl h
        · exact .inr (List.mem_cons_of_mem _ h)
      · rcases List.mem_cons.1 h with h | h
        · exact .inr (h ▸ List.mem_cons_self ..)
        · exact (ih h).imp id (List.mem_cons_of_mem _)

/-- A key below every listed key reads as nothing. -/
theorem find?_above {m : List (Nat × α)} {j k : Nat} (h : above k m) (hj : j < k) : find? m j = none := by
  induction m with
  | nil => rfl
  | cons p t ih =>
    obtain ⟨i, w⟩ := p
    have h1 : k ≤ i := h (i, w) (List.mem_cons_self ..)
    simp [find?, show i ≠ j by omega, ih (fun c hc => h c (List.mem_cons_of_mem _ hc))]

end Sys2Proof.Tbl

namespace Sys2Proof.Machine

open Sys2Proof

theorem Memory.wf_iff (m : List Host.Cell) : Memory.wf m = true ↔ Tbl.sorted m = true ∧ ∀ c ∈ m, c.2 ≠ 0 := by
  simp [Memory.wf]

theorem Memory.wf_reset : Memory.wf State.reset.mem = true := rfl

theorem Memory.wf_filter {m : List Host.Cell} (p : Host.Cell → Bool) (h : Memory.wf m = true) : Memory.wf (m.filter p) = true := by
  rw [Memory.wf_iff] at h ⊢
  exact ⟨Tbl.sorted_filter p h.1, fun c hc => h.2 c ((List.mem_filter.1 hc).1)⟩

theorem Memory.wf_set {m : List Host.Cell} (a : Nat) (b : Byte) (h : Memory.wf m = true) : Memory.wf (Tbl.set 0 m a b) = true := by
  unfold Tbl.set
  split
  · rw [Tbl.del_eq_filter]
    exact Memory.wf_filter _ h
  · rename_i hb
    rw [Memory.wf_iff] at h ⊢
    refine ⟨Tbl.sorted_put h.1, fun c hc => ?_⟩
    rcases Tbl.mem_put hc with rfl | hc
    · exact hb
    · exact h.2 c hc

theorem Memory.wf_putBytes {m : List Host.Cell} (a : Nat) (bs : List Byte) (h : Memory.wf m = true) : Memory.wf (putBytes m a bs) = true := by
  induction bs generalizing m a with
  | nil => exact h
  | cons b t ih => exact ih _ (Memory.wf_set a b h)

/-! ## What a byte reads as after bytes are put -/

theorem putBytes_below (m : List Host.Cell) (a : Nat) (bs : List Byte) (b : Nat) (h : b < a) :
    Tbl.get 0 (putBytes m a bs) b = Tbl.get 0 m b := by
  induction bs generalizing m a with
  | nil => rfl
  | cons x t ih => rw [putBytes, ih _ _ (by omega), Tbl.get_set_other _ _ _ _ _ (by omega)]

theorem putBytes_beyond (m : List Host.Cell) (a : Nat) (bs : List Byte) (b : Nat) (h : a + bs.length ≤ b) :
    Tbl.get 0 (putBytes m a bs) b = Tbl.get 0 m b := by
  induction bs generalizing m a with
  | nil => rfl
  | cons x t ih =>
    simp only [List.length_cons] at h
    rw [putBytes, ih _ _ (by omega), Tbl.get_set_other _ _ _ _ _ (by omega)]

theorem putBytes_in (m : List Host.Cell) (a : Nat) (bs : List Byte) (i : Nat) (h : i < bs.length) :
    Tbl.get 0 (putBytes m a bs) (a + i) = bs[i] := by
  induction bs generalizing m a i with
  | nil => simp at h
  | cons x t ih =>
    rw [putBytes]
    cases i with
    | zero => rw [putBytes_below _ _ _ _ (by omega)]; exact Tbl.get_set_same _ _ _ _
    | succ i =>
      have := ih (Tbl.set 0 m a x) (a + 1) i (by simpa using h)
      rw [show a + 1 + i = a + (i + 1) by omega] at this
      simpa using this

/-! ## The operations of Machine/Ops.lean keep the form -/

/-- Whatever an invariant of the state is, a fold keeps it when each of its steps does. -/
theorem foldl_keeps {α β : Type} (P : β → Prop) (f : β → α → β) (l : List α) (b : β) (h : P b) (hs : ∀ b a, a ∈ l → P b → P (f b a)) :
    P (l.foldl f b) := by
  induction l generalizing b with
  | nil => exact h
  | cons a t ih => exact ih _ (hs b a (List.mem_cons_self ..) h) (fun b c hc => hs b c (List.mem_cons_of_mem _ hc))

@[simp] theorem holdBit_mem (s : State) (a : Nat) : (holdBit s a).mem = s.mem := by
  unfold holdBit; split <;> rfl

@[simp] theorem countAccess_mem (s : State) (k : Nat) (hit : Bool) : (countAccess s k hit).mem = s.mem := by
  cases hit <;> rfl

@[simp] theorem dropClean_mem (s : State) (a n : Nat) : (dropClean s a n).mem = s.mem := rfl

@[simp] theorem markRx_mem (s : State) (a n : Nat) : (markRx s a n).mem = s.mem := by
  unfold markRx; split <;> rfl

theorem writeBack_wf {s : State} (k : Nat) (l : ScLine) (h : Memory.wf s.mem = true) : Memory.wf (writeBack s k l).mem = true :=
  Memory.wf_putBytes _ _ h

theorem evictLine_wf {s : State} (p : Nat × ScLine) (h : Memory.wf s.mem = true) : Memory.wf (evictLine s p).mem = true := by
  unfold evictLine
  dsimp only
  split
  · exact writeBack_wf _ _ h
  · exact h

theorem allocLine_wf {s : State} (k hint : Nat) (part : Option Nat) (l : ScLine) (h : Memory.wf s.mem = true) :
    Memory.wf (allocLine s k hint part l).mem = true := by
  unfold allocLine putLine
  dsimp only
  split
  · split
    · exact h
    · split
      · exact h
      · split
        · exact evictLine_wf _ h
        · split
          · exact writeBack_wf _ _ h
          · exact h
  · exact h

theorem unitReadLine_wf {s : State} (k hint : Nat) (part : Option Nat) (h : Memory.wf s.mem = true) :
    Memory.wf (unitReadLine s k hint part).1.mem = true := by
  unfold unitReadLine
  split
  · exact h
  · split
    · exact h
    · dsimp only
      split
      · exact h
      · split
        · exact h
        · exact allocLine_wf _ _ _ _ h

theorem devReadPiece_wf {s : State} (a n hint : Nat) (part : Option Nat) (h : Memory.wf s.mem = true) :
    Memory.wf (devReadPiece s a n hint part).1.mem = true := by
  unfold devReadPiece
  split
  · exact unitReadLine_wf _ _ _ h
  · split
    · exact h
    · simpa using h

theorem devRead_wf {s : State} (a n hint : Nat) (part : Option Nat) (h : Memory.wf s.mem = true) :
    Memory.wf (devRead s a n hint part).1.mem = true :=
  foldl_keeps (fun x : State × List Byte × Bool => Memory.wf x.1.mem = true) _ _ _ h (fun _ p _ hb => devReadPiece_wf p.1 p.2 hint part hb)

theorem ctxRead_wf {s : State} (x : Ctx) (a n hint : Nat) (h : Memory.wf s.mem = true) : Memory.wf (ctxRead s x a n hint).1.mem = true :=
  foldl_keeps (fun r : State × List Byte × Bool => Memory.wf r.1.mem = true) _ _ _ h (fun _ p _ hb => devRead_wf p.1 p.2 hint (some x.part) hb)

/-- A read of anything but HBM leaves the bytes as they are. -/
theorem devReadPiece_mem (s : State) (a n hint : Nat) (part : Option Nat) (ha : isHbm a = false) : (devReadPiece s a n hint part).1.mem = s.mem := by
  unfold devReadPiece
  simp only [ha, Bool.false_eq_true, if_false]
  split <;> simp

theorem rawPiece_wf {s : State} (a : Nat) (bs : List Byte) (h : Memory.wf s.mem = true) : Memory.wf (rawPiece s a bs).1.mem = true := by
  unfold rawPiece
  dsimp only
  split
  · exact h
  · exact Memory.wf_putBytes _ _ (by simpa using h)

theorem rawWrite_wf {s : State} (a : Nat) (bs : List Byte) (h : Memory.wf s.mem = true) : Memory.wf (rawWrite s a bs).1.mem = true :=
  foldl_keeps (fun x : State × Bool => Memory.wf x.1.mem = true) _ _ _ h (fun _ p _ hb => rawPiece_wf p.1 p.2 hb)

theorem hostPiece_wf {s : State} (a : Nat) (bs : List Byte) (h : Memory.wf s.mem = true) : Memory.wf (hostPiece s a bs).mem = true := by
  unfold hostPiece
  dsimp only
  split <;> exact Memory.wf_putBytes _ _ h

theorem hostWrite_wf {s : State} (a : Nat) (bs : List Byte) (h : Memory.wf s.mem = true) : Memory.wf (hostWrite s a bs).mem = true :=
  foldl_keeps (fun s : State => Memory.wf s.mem = true) _ _ _ h (fun _ p _ hb => hostPiece_wf p.1 p.2 hb)

theorem zeroRange_wf {s : State} (lo n : Nat) (h : Memory.wf s.mem = true) : Memory.wf (zeroRange s lo n).mem = true := Memory.wf_filter _ h

theorem unitWriteLine_wf {s : State} (k off : Nat) (bs : List Byte) (hint : Nat) (part : Option Nat) (h : Memory.wf s.mem = true) :
    Memory.wf (unitWriteLine s k off bs hint part).1.mem = true := by
  unfold unitWriteLine
  dsimp only
  split
  · exact h
  · split
    · split
      · exact rawPiece_wf _ _ (by simpa using h)
      · split
        · simpa using h
        · split
          · exact allocLine_wf _ _ _ _ (by simpa using h)
          · exact rawPiece_wf _ _ (by simpa using h)
    · split
      · split
        · exact h
        · simpa using h
      · split
        · exact h
        · split
          · exact allocLine_wf _ _ _ _ (by simpa using h)
          · exact rawPiece_wf _ _ (by simpa using h)

theorem cleanRange_wf {s : State} (a n : Nat) (h : Memory.wf s.mem = true) : Memory.wf (cleanRange s a n).mem = true := by
  unfold cleanRange
  refine foldl_keeps (fun s : State => Memory.wf s.mem = true) _ _ _ h (fun b p _ hb => ?_)
  dsimp only
  split
  · exact writeBack_wf p.1 p.2 hb
  · exact hb

theorem devWrite_wf {s : State} (a : Nat) (bs : List Byte) (hint : Nat) (part : Option Nat) (h : Memory.wf s.mem = true) :
    Memory.wf (devWrite s a bs hint part).1.mem = true := by
  unfold devWrite
  split
  · exact foldl_keeps (fun x : State × Bool => Memory.wf x.1.mem = true) _ _ _ h (fun _ p _ hb => unitWriteLine_wf _ _ p.2 hint part hb)
  · split
    · exact h
    · split
      · exact hostWrite_wf _ _ h
      · exact rawWrite_wf _ _ h

theorem ctxWrite_wf {s : State} (x : Ctx) (a : Nat) (bs : List Byte) (hint : Nat) (h : Memory.wf s.mem = true) :
    Memory.wf (ctxWrite s x a bs hint).1.mem = true := by
  unfold ctxWrite
  exact foldl_keeps (fun r : (State × Bool) × List Byte => Memory.wf r.1.1.mem = true) _ _ _ h
    (fun r p _ hb => devWrite_wf p.1 (r.2.take p.2) hint (some x.part) hb)

theorem shareWrite_wf {s : State} (x : Ctx) (u off : Nat) (bs : List Byte) (h : Memory.wf s.mem = true) :
    Memory.wf (shareWrite s x u off bs).1.mem = true := rawWrite_wf _ _ h

theorem finishJob_wf {s : State} (j : Job) (code check : Nat) (detail : W64) (h : Memory.wf s.mem = true) :
    Memory.wf (finishJob s j code check detail).mem = true := by
  unfold finishJob
  dsimp only
  split
  · simpa using h
  · split
    · simpa using hostWrite_wf _ _ h
    · simpa using h

/-- A save writes the bytes of the image over those it takes away. -/
theorem writeSave_wf {s : State} (u : Nat) (x : Ctx) (k : Core) (h : Memory.wf s.mem = true) : Memory.wf (writeSave s u x k).mem = true := by
  unfold writeSave
  generalize saveImage k = im
  exact foldl_keeps (fun m : List Host.Cell => Memory.wf m = true) _ im _ (Memory.wf_filter _ h) (fun _ p _ hb => Memory.wf_putBytes _ p.2 hb)

/-! ## Restart, loss of V12 and Standby keep host memory, and the form -/

theorem hostMem_wf {s : State} (h : Memory.wf s.mem = true) : Memory.wf (hostMem s) = true := Memory.wf_filter _ h

theorem applyRepair_mem (s : State) (k a : Nat) : (applyRepair s k a).mem = s.mem := by
  unfold applyRepair
  split <;> simp [updFlt, updPort, setPort]

theorem applyRecord_mem (s : State) : (applyRecord s).mem = s.mem := by
  let keep (x : State) : Prop := x.mem = s.mem
  unfold applyRecord
  refine foldl_keeps keep _ _ _ ?_ (fun b u _ hb => by simpa [keep] using hb)
  refine foldl_keeps keep _ _ _ ?_ (fun b p _ hb => (applyRepair_mem b _ _).trans hb)
  refine foldl_keeps keep _ _ _ ?_ (fun b p _ hb => (applyRepair_mem b _ _).trans hb)
  exact foldl_keeps keep _ _ _ rfl (fun b u _ hb => (applyRepair_mem b _ _).trans hb)

theorem applySupp_mem (s : State) : (applySupp s).mem = s.mem := by
  unfold applySupp
  exact foldl_keeps (fun x : State => x.mem = s.mem) _ _ _ (applyRecord_mem s) (fun b e _ hb => (applyRepair_mem b _ _).trans hb)

theorem restart_wf {s : State} (h : Memory.wf s.mem = true) : Memory.wf (restart s).mem = true := hostMem_wf h

theorem loseV12_wf {s : State} (h : Memory.wf s.mem = true) : Memory.wf (loseV12 s).mem = true := by
  unfold loseV12
  split
  · rw [applySupp_mem]
    exact hostMem_wf h
  · exact hostMem_wf h

theorem dropCompute_wf {s : State} (h : Memory.wf s.mem = true) : Memory.wf (dropCompute s).mem = true := hostMem_wf h

end Sys2Proof.Machine
end

