-- ==== Sys2Proof/Laws/Ops.lean ====
section
/-!
SUPPORT. Sys2Proof/Laws/Ops.lean: what each shared operation of the meanings does, said once.
-/

namespace Sys2Proof.Machine

open Sys2Proof

/-! ## Harts -/

theorem withHart_at {s : State} {h : Nat} {t : Hart} {k : Core} {x : Ctx} (ha : Claims.At s h t k x) (f : Hart → Core → Ctx → State) :
    withHart s h f = f t k x := by
  obtain ⟨h1, h2, h3⟩ := ha
  simp [withHart, h1, h2, h3]

/-- A meaning over a hart either runs its function on the hart, its core and its context, or leaves the state alone. -/
theorem withHart_cases (s : State) (h : Nat) (f : Hart → Core → Ctx → State) :
    withHart s h f = s ∨ ∃ t k x, Claims.At s h t k x ∧ withHart s h f = f t k x := by
  unfold withHart
  split
  · exact .inl rfl
  · rename_i t ht
    split
    · rename_i k x hk hx
      exact .inr ⟨t, k, x, ⟨ht, hk, hx⟩, rfl⟩
    · exact .inl rfl

theorem withRun_at {s : State} {h : Nat} {t : Hart} {k : Core} {x : Ctx} (ha : Claims.Runs s h t k x) (f : Hart → Core → Ctx → State) :
    withRun s h f = f t k x := by
  unfold withRun
  rw [withHart_at ha.1]
  simp [ha.2]

/-- A meaning over a hart that issues either runs its function, or leaves the state alone. -/
theorem withRun_cases (s : State) (h : Nat) (f : Hart → Core → Ctx → State) :
    withRun s h f = s ∨ ∃ t k x, Claims.Runs s h t k x ∧ withRun s h f = f t k x := by
  rcases withHart_cases s h (fun t k x => if issues s t then f t k x else s) with e | ⟨t, k, x, ha, e⟩
  · exact .inl e
  · by_cases hi : issues s t = true
    · exact .inr ⟨t, k, x, ⟨ha, hi⟩, by rw [withRun, e, if_pos hi]⟩
    · exact .inl (by rw [withRun, e, if_neg hi])

theorem withIr_issues {s : State} {h : Nat} {t : Hart} {k : Core} {x : Ctx} {c : Nat} {w : W64} (hi : Claims.Issues s h t k x c w)
    {ok : Nat → Bool} (hok : ok (iOp w) = true) (f : Hart → Core → Ctx → W64 → State) : withIr s h c ok f = f t k x w := by
  obtain ⟨ha, h1, h2, h3, h4⟩ := hi
  unfold withIr
  rw [withRun_at ha]
  simp [h1, h2, h3, h4, hok]

/-- A row of the sequencer either carries out an instruction of its own that can issue, or leaves the state alone. -/
theorem withIr_cases (s : State) (h c : Nat) (ok : Nat → Bool) (f : Hart → Core → Ctx → W64 → State) :
    withIr s h c ok f = s ∨ ∃ t k x w, Claims.Issues s h t k x c w ∧ ok (iOp w) = true ∧ withIr s h c ok f = f t k x w := by
  have e := withRun_cases s h (fun t k x => match k.ir with
    | none => s
    | some w => if iClass w == c && ok (iOp w) && k.wait == .none && !(seqHeld k w) then f t k x w else s)
  change withIr s h c ok f = s ∨ ∃ t k x, Claims.Runs s h t k x ∧ withIr s h c ok f = _ at e
  rcases e with e | ⟨t, k, x, ha, e⟩
  · exact .inl e
  · cases hir : k.ir with
    | none => exact .inl (by rw [e, hir])
    | some w =>
      rw [hir] at e
      by_cases hc : (iClass w == c && ok (iOp w) && k.wait == .none && !(seqHeld k w)) = true
      · simp only [hc, if_true] at e
        simp only [Bool.and_eq_true, beq_iff_eq, Bool.not_eq_true'] at hc
        exact .inr ⟨t, k, x, w, ⟨ha, hir, hc.1.2, hc.2, hc.1.1.1⟩, hc.1.1.2, e⟩
      · exact .inl (by simpa [hc] using e)

theorem scalar_issues {s : State} {h : Nat} {t : Hart} {k : Core} {x : Ctx} {c : Nat} {w : W64} (hi : Claims.Issues s h t k x c w)
    {ok : Nat → Bool} (hok : ok (iOp w) = true) (f : Core → W64 → Core) :
    scalar s h c ok f = setHartCore s t (retire (f k w)) := by
  unfold scalar
  exact withIr_issues hi hok _

/-! ## Engines: the rows over the head of a queue -/

/-- A row of an array's acceptance either works on the head entry of its queue, an instruction of its own, or leaves the state alone. -/
theorem withAq_cases (s : State) (h n op : Nat) (f : Hart → Core → Ctx → QEnt → State) :
    withAq s h n op f = s ∨ ∃ t k x e, Claims.AqFront s h n t k x e ∧ iOp e.w = op ∧ withAq s h n op f = f t k x e := by
  unfold withAq
  refine (withRun_cases s h _).elim .inl ?_
  rintro ⟨t, k, x, ha, e⟩
  · rw [e]
    split
    · exact .inl rfl
    · rename_i q hq
      split
      · rename_i hc
        obtain ⟨h1, h2, h3, h4⟩ := hc
        exact .inr ⟨t, k, x, q, ⟨ha, h1, hq, by simpa using h2, h3⟩, h4, rfl⟩
      · exact .inl rfl

theorem withAq_front {s : State} {h n : Nat} {t : Hart} {k : Core} {x : Ctx} {e : QEnt} (ha : Claims.AqFront s h n t k x e)
    (f : Hart → Core → Ctx → QEnt → State) : withAq s h n (iOp e.w) f = f t k x e := by
  obtain ⟨h1, h2, h3, h4, h5⟩ := ha
  unfold withAq
  rw [withRun_at h1]
  simp [aqHead, h3, h2, h4, h5]

/-- A row of the vector engine either works on the head entry of VQ, an instruction of its own, or leaves the state alone. -/
theorem withVq_cases (s : State) (h cls : Nat) (ok : W64 → Bool) (f : Hart → Core → Ctx → QEnt → State) :
    withVq s h cls ok f = s ∨ ∃ t k x e, Claims.VqFront s h t k x cls e ∧ ok e.w = true ∧ withVq s h cls ok f = f t k x e := by
  unfold withVq
  refine (withRun_cases s h _).elim .inl ?_
  rintro ⟨t, k, x, ha, e⟩
  · rw [e]
    split
    · exact .inl rfl
    · rename_i q l hq
      split
      · rename_i hc
        simp only [Bool.and_eq_true, beq_iff_eq, Bool.not_eq_true'] at hc
        exact .inr ⟨t, k, x, q, ⟨ha, by simp [hq], hc.1.1, hc.1.2⟩, hc.2, rfl⟩
      · exact .inl rfl

theorem withVq_front {s : State} {h cls : Nat} {t : Hart} {k : Core} {x : Ctx} {e : QEnt} (ha : Claims.VqFront s h t k x cls e)
    {ok : W64 → Bool} (hok : ok e.w = true) (f : Hart → Core → Ctx → QEnt → State) : withVq s h cls ok f = f t k x e := by
  obtain ⟨h1, h2, h3, h4⟩ := ha
  unfold withVq
  rw [withRun_at h1]
  cases hq : k.vq with
  | nil => simp [hq] at h2
  | cons a l =>
    obtain rfl : a = e := by simpa [hq] using h2
    simp [h3, h4, hok]

/-- A vector row whose whole effect is on the core. -/
theorem vecStep_front {s : State} {h cls : Nat} {t : Hart} {k : Core} {x : Ctx} {e : QEnt} (ha : Claims.VqFront s h t k x cls e)
    {ok : W64 → Bool} (hok : ok e.w = true) (f : Core → QEnt → Core) :
    vecStep s h cls ok f = setHartCore s t (vqDone (f k e) e) := withVq_front ha hok _

/-- A row over an engine that runs on while its context is being saved either runs on the hart, or leaves the state alone. -/
theorem withEng_cases (s : State) (h : Nat) (f : Hart → Core → Ctx → State) :
    withEng s h f = s ∨ ∃ t k x, engHart s h = some t ∧ hartCore s t = some k ∧ ctxOf s (hartCtx s t) = some x ∧ withEng s h f = f t k x := by
  unfold withEng
  split
  · exact .inl rfl
  · rename_i t ht
    split
    · rename_i k x hk hx
      exact .inr ⟨t, k, x, ht, hk, hx, rfl⟩
    · exact .inl rfl

/-! ## Mover queues -/

/-- A row of a mover entry either works on the first entry that it picks, or leaves the state alone. -/
theorem withMvEnt_cases (s : State) (h q : Nat) (ok : MvEnt → Bool) (f : Hart → Core → Ctx → MvEnt → State) :
    withMvEnt s h q ok f = s
      ∨ ∃ t k x m, Claims.At s h t k x ∧ (mqOf k q).ents.find? ok = some m ∧ ok m = true ∧ withMvEnt s h q ok f = f t k x m := by
  unfold withMvEnt withHart
  split
  · exact .inl rfl
  · rename_i t ht
    split
    · rename_i k x hk hx
      have ha : Claims.At s h t k x := ⟨ht, hk, hx⟩
      dsimp only
      split
      · exact .inl rfl
      · rename_i m hm
        exact .inr ⟨t, k, x, m, ha, hm, List.find?_some hm, rfl⟩
    · exact .inl rfl

/-- A row that begins an entry either works on the entry at the place of beginning, or leaves the state alone. -/
theorem withBegin_cases (s : State) (h q : Nat) (ok : W64 → Bool) (f : Hart → Core → Ctx → QEnt → State) :
    withBegin s h q ok f = s ∨ ∃ t k x e, Claims.At s h t k x ∧ issues s t = true ∧ beginEnt (mqOf k q) = some e ∧ ok e.w = true
      ∧ withBegin s h q ok f = f t k x e := by
  unfold withBegin withHart
  split
  · exact .inl rfl
  · rename_i t ht
    split
    · rename_i k x hk hx
      have ha : Claims.At s h t k x := ⟨ht, hk, hx⟩
      dsimp only
      split
      · exact .inl rfl
      · rename_i hi
        split
        · exact .inl rfl
        · rename_i m hm
          split
          · rename_i ho
            exact .inr ⟨t, k, x, m, ha, by simpa using hi, hm, ho, rfl⟩
          · exact .inl rfl
    · exact .inl rfl

/-! ## Host commands and stack commands -/

/-- A host-command row either works on the accepted command, of its own operation and no longer current, or leaves the state alone. -/
theorem withCur_cases (s : State) (opc : Nat) (f : HostCmd → State → State) :
    withCur s opc f = s ∨ ∃ h, s.host.cur = some h ∧ h.job.opc = opc ∧ withCur s opc f = f h { s with host := { s.host with cur := none } } := by
  unfold withCur
  split
  · exact .inl rfl
  · rename_i h hh
    split
    · rename_i ho
      exact .inr ⟨h, hh, ho, rfl⟩
    · exact .inl rfl

theorem withCur_eq {s : State} {h : HostCmd} (hc : s.host.cur = some h) (f : HostCmd → State → State) :
    withCur s h.job.opc f = f h { s with host := { s.host with cur := none } } := by
  simp [withCur, hc]

/-- A row of a stack command either works on command k of stack st, running and not done, or leaves the state alone. -/
theorem withCmd_cases (s : State) (st k op : Nat) (f : SeCmd → Eng → State) :
    withCmd s st k op f = s ∨ ∃ m e, (seOf s st).cmds[k]? = some m ∧ m.running = true ∧ m.done = false ∧ m.op = op ∧ e.s = s
      ∧ withCmd s st k op f = f m e := by
  unfold withCmd
  split
  · exact .inl rfl
  · rename_i m hm
    split
    · rename_i hc
      simp only [Bool.and_eq_true, beq_iff_eq, Bool.not_eq_true'] at hc
      split
      · exact .inr ⟨m, _, hm, hc.1.1.1.1, hc.1.1.1.2, hc.1.2, rfl, rfl⟩
      · split
        · exact .inl rfl
        · exact .inr ⟨m, _, hm, hc.1.1.1.1, hc.1.1.1.2, hc.1.2, rfl, rfl⟩
    · exact .inl rfl

end Sys2Proof.Machine
end

