-- ==== Sys2Proof/WellFormed.lean ====
section
/-!
DEFINITION. Sys2Proof/WellFormed.lean: the ranges of a command's operands, one check per kind of operand. A meaning gives a state
for every operand, well-formed or not; outside these ranges an operand names nothing of the device.
-/

namespace Sys2Proof.WellFormed

/-- A hart: a unit, an instance of a stack program, or a resident context of a unit. -/
def hartOk (h : Nat) : Bool := decide (h < 448 ∨ (65536 ≤ h ∧ h < 65536 + 2 ^ 20))
/-- A matrix array (R137). -/
def arrayOk (h : Nat) : Bool := decide (h < 3)
/-- A mover queue (Table 5.2). -/
def queueOk (h : Nat) : Bool := decide (h < 8)
/-- A LUN (R44). -/
def unitOk (h : Nat) : Bool := decide (h < 256)
/-- A context identifier (Table 5.4). -/
def ctxOkNo (h : Nat) : Bool := decide (h < 4096)
/-- Row pairs of a sweep (R148). -/
def pairsOk (h : Nat) : Bool := decide (1 ≤ h ∧ h ≤ 32)
/-- A barrier level (R411). -/
def levelOk (h : Nat) : Bool := decide (h < 3)
/-- A command ring (R565). -/
def ringOk (h : Nat) : Bool := decide (h < 16)
/-- A stack (R39). -/
def stackOk (h : Nat) : Bool := decide (h < 24)
/-- A region (Table 1.2). -/
def regionOk (h : Nat) : Bool := decide (h < 16)
/-- A collective group (Table 14.7). -/
def groupOk (h : Nat) : Bool := decide (h < 1024)
/-- A Rhoef port (R512). -/
def portOk (h : Nat) : Bool := decide (h < 12)
/-- A drove channel (Table 12.11). -/
def channelOk (h : Nat) : Bool := decide (h < 64)
/-- A partition (R198). -/
def partOk (h : Nat) : Bool := decide (h < 64)
/-- A cluster (Table 1.2). -/
def clusterOk (h : Nat) : Bool := decide (h < 64)
/-- A clock island: a cluster, or 64 + region for a spare site (R50, R666). -/
def islandOk (h : Nat) : Bool := decide (h < 80)
/-- A compute die (R39). -/
def dieOk (h : Nat) : Bool := decide (h < 8)
/-- An MSI-X vector (R560). -/
def vectorOk (h : Nat) : Bool := decide (h < 64)
/-- A receive window (R534). -/
def windowNoOk (h : Nat) : Bool := decide (h < 64)
/-- A register of a receive window. -/
def fieldOk (h : Nat) : Bool := decide (h < 3)
/-- A route entry (R532). -/
def routeOk (h : Nat) : Bool := decide (h < 256)
/-- A device identifier (R47). -/
def deviceOk (h : Nat) : Bool := decide (h < 2 ^ 20)
/-- A device address (R268). -/
def addrOk (h : Nat) : Bool := decide (h < 2 ^ 48)
/-- A receiver of a drove channel (R466). -/
def receiverOk (h : Nat) : Bool := decide (h < 256)
/-- A lane of a port (R644). -/
def laneOk (h : Nat) : Bool := decide (h < 9)
/-- A module of the host port (R560). -/
def moduleOk (h : Nat) : Bool := decide (h < 4)
/-- A base address register (R561). -/
def barOk (h : Nat) : Bool := decide (h = 0 ∨ h = 2)
/-- An offset in BAR0 or BAR2 (R561). -/
def offOk (h : Nat) : Bool := decide (h < 2 ^ 36)
/-- A credit class (R523). -/
def classOk (h : Nat) : Bool := decide (h < 3)
/-- A virtual channel (R523). -/
def vcOk (h : Nat) : Bool := decide (h < 2)
/-- A hop count (R533). -/
def hopsOk (h : Nat) : Bool := decide (h < 256)
/-- A packet type (Table 14.5). -/
def typeOk (h : Nat) : Bool := decide (h < 16)
/-- A phase that powering reaches (Table 16.8). -/
def phaseOk (h : Nat) : Bool := decide (2 ≤ h ∧ h ≤ 5)
/-- A payload in bytes (R513). -/
def payloadOk (h : Nat) : Bool := decide (h ≤ 8192)
/-- A source of a package fault (Table 15.6). -/
def packageSrcOk (h : Nat) : Bool := decide (1 ≤ h ∧ h ≤ 8)
/-- A steward controller (R647). -/
def stewardOk (h : Nat) : Bool := decide (h < 2)
/-- What a read of a line finds: no error, a corrected one, an uncorrectable one. -/
def errOk (h : Nat) : Bool := decide (h < 3)
/-- A packet has a port, 16-bit sequences, and TSEQ 0 where its ORD is 0 (R520). -/
def hdrOk (l : LinkHdr) : Bool := portOk l.port && decide (l.lseq < 65536 ∧ l.tseq < 65536) && (l.ord || l.tseq == 0)

/-- An access lies within its BAR: BAR0 is 256 MiB, BAR2 64 GiB (R561). -/
def accessOk (bar off size : Nat) : Bool := decide (1 ≤ size ∧ off + size ≤ (if bar = 0 then 2 ^ 28 else 2 ^ 36))

/-- Every operand of the command lies in its range. -/
def wellFormed (i : Instr) : Bool :=
  match i with
  | .instructionFetch h => hartOk h
  | .icacheFill h => hartOk h
  | .engineDispatch h => hartOk h
  | .add h => hartOk h
  | .shift h => hartOk h
  | .mul h => hartOk h
  | .div h => hartOk h
  | .min h => hartOk h
  | .slt h => hartOk h
  | .sel h => hartOk h
  | .clz h => hartOk h
  | .pCmp h => hartOk h
  | .pAnd h => hartOk h
  | .pGet h => hartOk h
  | .pPut h => hartOk h
  | .addi h => hartOk h
  | .shli h => hartOk h
  | .muli h => hartOk h
  | .slti h => hartOk h
  | .pCmpi h => hartOk h
  | .li h => hartOk h
  | .liHi h => hartOk h
  | .br h => hartOk h
  | .brCall h => hartOk h
  | .brInd h => hartOk h
  | .brCallInd h => hartOk h
  | .brDec h => hartOk h
  | .ld h => hartOk h
  | .st h => hartOk h
  | .mmClr h n => hartOk h && arrayOk n
  | .mmAcc h n => hartOk h && arrayOk n
  | .mmDrainTile h n => hartOk h && arrayOk n
  | .mmDrainUs h n => hartOk h && arrayOk n
  | .feederFetch h n => hartOk h && arrayOk n
  | .kStep h n => hartOk h && arrayOk n
  | .drainStart h n => hartOk h && arrayOk n
  | .drainComplete h n => hartOk h && arrayOk n
  | .vxArith h => hartOk h
  | .vxFma h => hartOk h
  | .vxMin h => hartOk h
  | .vxAbs h => hartOk h
  | .vxDiv h => hartOk h
  | .vxSqrt h => hartOk h
  | .vxTranscendental h => hartOk h
  | .vxCvt h => hartOk h
  | .vxAddI h => hartOk h
  | .vxMulI h => hartOk h
  | .vxMinI h => hartOk h
  | .vxLogic h => hartOk h
  | .vxShift h => hartOk h
  | .vxSel h => hartOk h
  | .vxCmp h => hartOk h
  | .vxKand h => hartOk h
  | .vxKnot h => hartOk h
  | .vxKmov h => hartOk h
  | .vxKset h => hartOk h
  | .vxPopc h => hartOk h
  | .vxKget h => hartOk h
  | .vxBcast h => hartOk h
  | .vxLane h => hartOk h
  | .vxIota h => hartOk h
  | .vxLfMask h => hartOk h
  | .vxLfClr h => hartOk h
  | .vxCurSet h => hartOk h
  | .vxCurGet h => hartOk h
  | .vxLdOc h => hartOk h
  | .vxStOc h => hartOk h
  | .vxGather h => hartOk h
  | .vxScatter h => hartOk h
  | .vxLdUs h => hartOk h
  | .vxStUs h => hartOk h
  | .vtLd h => hartOk h
  | .vtSt h => hartOk h
  | .vtZero h => hartOk h
  | .vxScan h => hartOk h
  | .vxPerm h => hartOk h
  | .vxPerm2 h => hartOk h
  | .vxShufXor h => hartOk h
  | .vxShufRot h => hartOk h
  | .vxPackH h => hartOk h
  | .vxPackB h => hartOk h
  | .vxUnpackH h => hartOk h
  | .vxUnpackBQ h => hartOk h
  | .vxCompress h => hartOk h
  | .vxExpand h => hartOk h
  | .vxCompressSt h => hartOk h
  | .vxExpandLd h => hartOk h
  | .vtRed h => hartOk h
  | .sweepForm h pairs => hartOk h && pairsOk pairs
  | .cxXln h _ => hartOk h
  | .syWait h => hartOk h
  | .syMark h => hartOk h
  | .markRelease h q => hartOk h && queueOk q
  | .waitResume h => hartOk h
  | .sySleep h => hartOk h
  | .sySig h => hartOk h
  | .signalDeliver _ => true
  | .sySigrd h => hartOk h
  | .syBar h => hartOk h
  | .barrierComplete c level u => ctxOkNo c && levelOk level && unitOk u
  | .barrierFail c level u => ctxOkNo c && levelOk level && unitOk u
  | .syCtr h => hartOk h
  | .wakeLineFire u c => unitOk u && ctxOkNo c
  | .sleepTimeout u c _ => unitOk u && ctxOkNo c
  | .cxShape h => hartOk h
  | .cxFlags h => hartOk h
  | .cxFlagsClr h => hartOk h
  | .cxAflag h => hartOk h
  | .cxTime h => hartOk h
  | .cxEvent h => hartOk h
  | .cxYield h => hartOk h
  | .cxHalt h => hartOk h
  | .mvGet h q => hartOk h && queueOk q
  | .mvPut h q => hartOk h && queueOk q
  | .mvCopy h q => hartOk h && queueOk q
  | .mvDescBlock h q => hartOk h && queueOk q
  | .mvDescList h q => hartOk h && queueOk q
  | .listEntryRead h q => hartOk h && queueOk q
  | .mvDescRemote h q => hartOk h && queueOk q
  | .mvDescStream h q => hartOk h && queueOk q
  | .mvAtom h q => hartOk h && queueOk q
  | .mvRed h q => hartOk h && queueOk q
  | .mvFlag h q => hartOk h && queueOk q
  | .mvLim h q => hartOk h && queueOk q
  | .mvCancel h q => hartOk h && queueOk q
  | .cancelComplete h q => hartOk h && queueOk q
  | .moverEntryBegin h q => hartOk h && queueOk q
  | .transferIssue h q => hartOk h && queueOk q
  | .transferPerformed h q _ => hartOk h && queueOk q
  | .moverEntryComplete h q => hartOk h && queueOk q
  | .remoteAckTimeout h q => hartOk h && queueOk q
  | .streamSlotFilled h q => hartOk h && queueOk q
  | .streamReleaseCredit h q => hartOk h && queueOk q
  | .atomicLineOp h q => hartOk h && queueOk q
  | .rickPush h q => hartOk h && queueOk q
  | .rickSeal h q => hartOk h && queueOk q
  | .rickPop h q => hartOk h && queueOk q
  | .rickFrameFree h => hartOk h
  | .rickStall h q => hartOk h && queueOk q
  | .seRun s _ => stackOk s
  | .seGather s _ => stackOk s
  | .seScatter s _ => stackOk s
  | .seAttn s _ => stackOk s
  | .seOpt s _ => stackOk s
  | .seRelayout s _ => stackOk s
  | .seDigest s _ => stackOk s
  | .sePrefix s _ => stackOk s
  | .seCommandAccept h => hartOk h
  | .seCommandStart s _ => stackOk s
  | .seCommandComplete s _ => stackOk s
  | .seRunTimeLimit s _ => stackOk s
  | .digestReverify s _ => stackOk s
  | .sePatrolScrub s err => stackOk s && errOk err
  | .setWriteHeld h => hartOk h
  | .saDraw h q => hartOk h && queueOk q
  | .saVerify h q => hartOk h && queueOk q
  | .samplerRow r => regionOk r
  | .dlmExamine _ => true
  | .clBcast h => hartOk h
  | .clReduce h => hartOk h
  | .collOpen l g src _ _ => hdrOk l && groupOk g && deviceOk src
  | .collJoin l g src _ _ _ _ _ _ _ _ => hdrOk l && groupOk g && deviceOk src
  | .collVerdict l g src _ _ _ _ => hdrOk l && groupOk g && deviceOk src
  | .collData l g src _ _ _ _ _ => hdrOk l && groupOk g && deviceOk src
  | .collTrailer l g src _ _ _ _ _ _ _ _ => hdrOk l && groupOk g && deviceOk src
  | .collDone l g src _ => hdrOk l && groupOk g && deviceOk src
  | .collFinal l g src _ _ _ _ _ _ _ _ _ _ _ => hdrOk l && groupOk g && deviceOk src
  | .collLeave l g src _ _ _ => hdrOk l && groupOk g && deviceOk src
  | .collRootTimeout g _ => groupOk g
  | .collMemberTimeout g _ => groupOk g
  | .writeReceived l src a _ _ => hdrOk l && deviceOk src && addrOk a
  | .flagReceived l src a _ _ => hdrOk l && deviceOk src && addrOk a
  | .reshardReceived l src a _ _ _ _ => hdrOk l && deviceOk src && addrOk a
  | .ackReceived l src _ _ => hdrOk l && deviceOk src
  | .nackReceived l src _ _ => hdrOk l && deviceOk src
  | .packetForward l typ hops dst src a _ _ => hdrOk l && typeOk typ && hopsOk hops && deviceOk dst && deviceOk src && addrOk a
  | .ident p dev port => portOk p && deviceOk dev && portOk port
  | .keepalive p _ _ => portOk p
  | .keepaliveSend p => portOk p
  | .answer p _ => portOk p
  | .timing p _ _ _ _ _ => portOk p
  | .timingSend p _ => portOk p
  | .credit p cls vc _ => portOk p && classOk cls && vcOk vc
  | .ackseq p _ => portOk p
  | .replay p _ => portOk p
  | .linkSilence p => portOk p
  | .trainingTimeout p => portOk p
  | .portRetrain p => portOk p
  | .laneFail p lane => portOk p && laneOk lane
  | .planEntrySend s => stackOk s
  | .planAckTimeout _ _ => true
  | .droveSend h q => hartOk h && queueOk q
  | .droveEntryDeliver ch => channelOk ch
  | .droveRelease ch rcv => channelOk ch && receiverOk rcv
  | .droveStall ch => channelOk ch
  | .droveBreak ch => channelOk ch
  | .droveCloseDrained ch => channelOk ch
  | .sqrDb ring _ => ringOk ring
  | .descriptorAccept => true
  | .resultStampWrite ring => ringOk ring
  | .eventWrite => true
  | .msixSend vec _ => vectorOk vec
  | .resHead ring _ => ringOk ring
  | .evqHead _ => true
  | .sqrCtl ring _ => ringOk ring
  | .evqCtl _ => true
  | .hostBarAccess bar off write size data => barOk bar && accessOk bar off size && (!write || data.length == size)
  | .hostLinkDown => true
  | .hostLinkRestored _ => true
  | .nop => true
  | .partition => true
  | .ctxLoad => true
  | .ctxUnload => true
  | .ctxPreempt => true
  | .ctxResume => true
  | .rick => true
  | .evalOpen => true
  | .evalClose => true
  | .evalWindowOpen part => partOk part
  | .setDefine => true
  | .setRemove => true
  | .slotAdmit => true
  | .slotSwitch => true
  | .slotRelease => true
  | .setReceive => true
  | .setSend => true
  | .adpDefine => true
  | .adpRemove => true
  | .adpAdmit => true
  | .adpRelease => true
  | .stream => true
  | .drove => true
  | .group => true
  | .seHost => true
  | .shardLoad => true
  | .shardLoadComplete _ _ => true
  | .attest _ => true
  | .keyDeliver => true
  | .reloadShard => true
  | .spare => true
  | .throttle => true
  | .powerState => true
  | .standbyReturnComplete => true
  | .turnArm part _ => partOk part
  | .turnResend part => partOk part
  | .turnAbort part => partOk part
  | .turnDone part => partOk part
  | .scFlush r => regionOk r
  | .scFlushComplete r => regionOk r
  | .scWayRsv r off _ => regionOk r && offOk off
  | .scPatrolScrub r _ => regionOk r
  | .usPatrolScrub u _ _ _ => unitOk u
  | .refThr _ => true
  | .devId _ => true
  | .routeCtl _ => true
  | .portCtl p _ => portOk p
  | .rtRange e _ _ => routeOk e
  | .rxWin w field _ => windowNoOk w && fieldOk field
  | .fwCtlWrite _ => true
  | .fwCtlCommit => true
  | .bootCtlRestart => true
  | .kemCtlNext => true
  | .timeSet _ => true
  | .timeCtl _ => true
  | .thArm _ => true
  | .thTrip _ => true
  | .fltArm _ => true
  | .registerWrite a _ => addrOk a
  | .sliceEnd u _ => unitOk u
  | .saveComplete u c => unitOk u && ctxOkNo c
  | .unitSelect u => unitOk u
  | .contextFault c => ctxOkNo c
  | .scrubComplete c => ctxOkNo c
  | .unitLogicError u => unitOk u
  | .spareSubstitute u _ _ _ => unitOk u
  | .unitReturn u _ _ => unitOk u
  | .clusterClockFault cl _ => clusterOk cl
  | .scUncorrectable r _ _ => regionOk r
  | .hbmReadError a _ _ => addrOk a
  | .stackFail s => stackOk s
  | .regulatorFault d => dieOk d
  | .packageFault src => packageSrcOk src
  | .hbmRowSpare a => addrOk a
  | .hbmBankSpare a => addrOk a
  | .hbmPcSpare a => addrOk a
  | .hbmSpareCopyDone s => stackOk s
  | .stewardWatchdog n => stewardOk n
  | .stewardResume n => stewardOk n
  | .sensorRead _ => true
  | .levelChangeRelock cl => islandOk cl
  | .islandStart cl => islandOk cl
  | .islandStop cl => islandOk cl
  | .regionGate r => regionOk r
  | .regionWake r => regionOk r
  | .stackSelfRefresh s => stackOk s
  | .stackSrExit s => stackOk s
  | .disciplineLoss _ _ => true
  | .ppsIn _ => true
  | .ppsOut _ => true
  | .fabricTimeApproach _ => true
  | .standbyBoot _ => true
  | .powering _ n => phaseOk n
  | .resetN => true
  | .v12Fault => true
  | .v3p3sbFault _ => true
  | .refclkLoss => true
  | .packetCrcError p _ _ _ _ _ typ dst n => portOk p && typeOk typ && deviceOk dst && payloadOk n
  | .moduleLost m => moduleOk m
  | .hostSnoop a => addrOk a
  | .cacheEnChange _ => true
  | .ref10mInReturn => true
  | .stewardMemoryUe n => stewardOk n
  | .stewardBeat n => stewardOk n
  | .fwStageComplete _ => true
  | .reloadShardComplete _ => true
  | .hbmRowRepairDone s => stackOk s

end Sys2Proof.WellFormed
end

