-- ==== Sys2Proof/Tests/Slice0.lean ====
section
/-!
SUPPORT. Sys2Proof/Tests/Slice0.lean: the model's own tests: an ill-formed command for each check, words written out from the spec's
encoding, one step on a small state, and for each statement with hypotheses a state and operands that meet them.
-/

namespace Sys2Proof.Tests

open Sys2Proof Sys2Proof.Machine

/-! ## Small states -/

/-- An instruction word: class, OP and the rest of its bits [47:0]. -/
def word (cls op low : Nat) : W64 := BitVec.ofNat 64 (cls * 2 ^ 60 + op * 2 ^ 48 + low)

/-- Layout S (Table 6.3): GD, GA, GB, PS. -/
def wordS (op gd ga gb ps : Nat) : W64 := word 0 op (gd * 2 ^ 43 + ga * 2 ^ 38 + gb * 2 ^ 33 + ps * 2 ^ 30)

/-- Layout I: GD, GA, IMM. -/
def wordI (cls op gd ga imm : Nat) : W64 := word cls op (gd * 2 ^ 43 + ga * 2 ^ 38 + imm)

/-- Context 5 of partition 0 on unit 0: 1 MiB of unit store from 0, 64 KiB of operand cache, 1 MiB of host memory readable and
executable at context address 0x10000. -/
def ctx5 : Ctx :=
  { units := [0], usSize := 16, ocSize := 1, saveOff := 1024, swait := true,
    extents := [{ kind := 1, r := true, x := true, cbase := 0x10000, size := 256, dbase := 0x800004000000 },
      { kind := 2, r := true, w := true, a := true, s := true, cbase := 0x40000000, size := 4096, dbase := 0, stackSet := 1 }] }

/-- Context 5 runs on unit 0 with core k. -/
def unitState (k : Core) : State :=
  { State.reset with
    units := [(0, { running := some 5, part := some 0 })], ctxs := [(5, ctx5)], res := [(5, { st := .running, core := k })] }

/-- g1 and g2 hold operands; word w has been fetched from the first word of the code. -/
def coreWith (w : W64) (a b : W64) : Core := { g := [(1, a), (2, b)], pc := 0x10000, ir := some w }

def issuing (w : W64) (a b : W64) : State := unitState (coreWith w a b)
/-! ## An ill-formed command for each check, and its neighbour that passes -/

open Sys2Proof.WellFormed in
theorem test_wf_hart : wellFormed (.add 447) = true ∧ wellFormed (.add 448) = false ∧ wellFormed (.add 65535) = false ∧ wellFormed (.add (65536 + 2 ^ 20)) = false := by decide
open Sys2Proof.WellFormed in
theorem test_wf_array : wellFormed (.mmClr 0 2) = true ∧ wellFormed (.mmClr 0 3) = false := by decide
open Sys2Proof.WellFormed in
theorem test_wf_queue : wellFormed (.mvGet 0 7) = true ∧ wellFormed (.mvGet 0 8) = false := by decide
open Sys2Proof.WellFormed in
theorem test_wf_unitCtx : wellFormed (.wakeLineFire 255 4095) = true ∧ wellFormed (.wakeLineFire 256 4095) = false ∧ wellFormed (.wakeLineFire 255 4096) = false := by decide
open Sys2Proof.WellFormed in
theorem test_wf_level : wellFormed (.barrierComplete 0 2 0) = true ∧ wellFormed (.barrierComplete 0 3 0) = false := by decide
open Sys2Proof.WellFormed in
theorem test_wf_ring : wellFormed (.sqrDb 15 0) = true ∧ wellFormed (.sqrDb 16 0) = false := by decide
open Sys2Proof.WellFormed in
theorem test_wf_stackErr : wellFormed (.sePatrolScrub 23 2) = true ∧ wellFormed (.sePatrolScrub 24 2) = false ∧ wellFormed (.sePatrolScrub 23 3) = false := by decide
open Sys2Proof.WellFormed in
theorem test_wf_region : wellFormed (.scFlush 15) = true ∧ wellFormed (.scFlush 16) = false := by decide
open Sys2Proof.WellFormed in
theorem test_wf_portGroupDevice : wellFormed (.collDone { port := 11 } 1023 0xFFFFF 0) = true ∧ wellFormed (.collDone { port := 12 } 1023 0xFFFFF 0) = false
    ∧ wellFormed (.collDone { port := 11 } 1024 0xFFFFF 0) = false ∧ wellFormed (.collDone { port := 11 } 1023 0x100000 0) = false
    ∧ wellFormed (.collDone { port := 11, lseq := 0xFFFF, ord := true, tseq := 0xFFFF } 1023 0xFFFFF 0) = true ∧ wellFormed (.collDone { port := 11, lseq := 0x10000 } 1023 0xFFFFF 0) = false
    ∧ wellFormed (.collDone { port := 11, ord := true, tseq := 0x10000 } 1023 0xFFFFF 0) = false
    ∧ wellFormed (.collDone { port := 11, tseq := 1 } 1023 0xFFFFF 0) = false := by decide
open Sys2Proof.WellFormed in
theorem test_wf_channelReceiver : wellFormed (.droveRelease 63 255) = true ∧ wellFormed (.droveRelease 64 255) = false ∧ wellFormed (.droveRelease 63 256) = false := by decide
open Sys2Proof.WellFormed in
theorem test_wf_partition : wellFormed (.turnArm 63 0) = true ∧ wellFormed (.turnArm 64 0) = false := by decide
open Sys2Proof.WellFormed in
theorem test_wf_clusterDie : wellFormed (.islandStart 63) = true ∧ wellFormed (.islandStart 79) = true ∧ wellFormed (.islandStart 80) = false ∧ wellFormed (.regulatorFault 7) = true ∧ wellFormed (.regulatorFault 8) = false := by decide
open Sys2Proof.WellFormed in
theorem test_wf_vector : wellFormed (.msixSend 63 0) = true ∧ wellFormed (.msixSend 64 0) = false := by decide
open Sys2Proof.WellFormed in
theorem test_wf_window : wellFormed (.rxWin 63 2 0) = true ∧ wellFormed (.rxWin 64 2 0) = false ∧ wellFormed (.rxWin 63 3 0) = false := by decide
open Sys2Proof.WellFormed in
theorem test_wf_route : wellFormed (.rtRange 255 true 0) = true ∧ wellFormed (.rtRange 256 true 0) = false := by decide
open Sys2Proof.WellFormed in
theorem test_wf_address : wellFormed (.hbmRowSpare (2 ^ 48 - 1)) = true ∧ wellFormed (.hbmRowSpare (2 ^ 48)) = false := by decide
open Sys2Proof.WellFormed in
theorem test_wf_laneModule : wellFormed (.laneFail 0 8) = true ∧ wellFormed (.laneFail 0 9) = false ∧ wellFormed (.moduleLost 3) = true ∧ wellFormed (.moduleLost 4) = false := by decide
open Sys2Proof.WellFormed in
theorem test_wf_bar : wellFormed (.hostBarAccess 2 (2 ^ 36 - 1) true 1 [0]) = true ∧ wellFormed (.hostBarAccess 1 0 false 1 []) = false
    ∧ wellFormed (.hostBarAccess 0 (2 ^ 28) false 1 []) = false ∧ wellFormed (.hostBarAccess 0 0 true 2 [0]) = false ∧ wellFormed (.scWayRsv 0 (2 ^ 36) 0) = false := by decide
open Sys2Proof.WellFormed in
theorem test_wf_credit : wellFormed (.credit 0 2 1 5) = true ∧ wellFormed (.credit 0 3 1 5) = false ∧ wellFormed (.credit 0 2 2 5) = false := by decide
open Sys2Proof.WellFormed in
theorem test_wf_packet : wellFormed (.packetForward {} 15 255 0 0 0 0 []) = true ∧ wellFormed (.packetForward {} 16 255 0 0 0 0 []) = false
    ∧ wellFormed (.packetForward {} 15 256 0 0 0 0 []) = false := by decide
open Sys2Proof.WellFormed in
theorem test_wf_packageSteward : wellFormed (.packageFault 8) = true ∧ wellFormed (.packageFault 0) = false ∧ wellFormed (.packageFault 9) = false ∧ wellFormed (.stewardBeat 1) = true
    ∧ wellFormed (.stewardBeat 2) = false := by decide

/-! ## Words written out from the spec's encoding (Tables 6.1 to 6.19) -/

/-- `add g3, g1, g2`: class 0x0, predicate p0 true, OP 0x00; OP 0x17 is no instruction of the class. -/
theorem test_decode_scalar : decodeWord true false 0x0000184400000000 = .go ∧ (iGD 0x0000184400000000, iGA 0x0000184400000000, iGB 0x0000184400000000) = (3, 1, 2)
    ∧ decodeWord true false 0x0017000000000000 = .illegal := by decide
/-- A word with NEG = 1 is skipped where its predicate is true. -/
theorem test_decode_predicate : decodeWord true false 0x0800184400000000 = .skip ∧ decodeWord false false 0x0800184400000000 = .go := by decide
/-- A reserved bit of an otherwise lawful word makes it illegal, and so does class 0xD. -/
theorem test_decode_reserved : decodeWord true false 0x0000184400000001 = .illegal ∧ decodeWord true false 0xD000000000000000 = .illegal := by decide

/-! ## Witnesses: the sequencer -/

theorem witness_stepRunsFront : ({ State.reset with pending := [.nop] } : State).pending = .nop :: [] := by decide
theorem witness_stepIdle : State.reset.pending = [] := by decide

theorem witness_fetch_denied :
    let k : Core := { pc := 0x20000000 }
    Claims.At (unitState k) 0 (.res 0 5) k ctx5 ∧ k.wait = .none ∧ k.ir = none ∧ k.miss = none
      ∧ fetchAt (unitState k) (.res 0 5) k ctx5 = .denied := by decide
set_option maxRecDepth 20000 in
theorem witness_fetch_miss :
    let k : Core := { pc := 0x10F8 * 16 }
    Claims.At (unitState k) 0 (.res 0 5) k ctx5 ∧ fetchAt (unitState k) (.res 0 5) k ctx5 = .miss 0x10F := by decide

/-- A state whose instruction cache holds a line of eight-byte copies of word w. -/
def cached (w : W64) (k : Core) : State :=
  { unitState k with units := [(0, { running := some 5, part := some 0, icache := [(icKey 5 0x100, leBytes 8 w.toNat)] })] }

def fetchCore : Core := { pc := 0x10000 }
theorem witness_fetch_atHart : Claims.Runs (cached (word 0xF 0 0) fetchCore) 0 (.res 0 5) fetchCore ctx5 := by decide
set_option maxRecDepth 20000 in
theorem witness_fetch_illegalClass : fetchAt (cached (word 0xF 0 0) fetchCore) (.res 0 5) fetchCore ctx5 = .word (word 0xF 0 0) := by decide
set_option maxRecDepth 20000 in
theorem witness_fetch_go : fetchAt (cached (wordS 0 1 1 2 0) fetchCore) (.res 0 5) fetchCore ctx5 = .word (wordS 0 1 1 2 0) := by decide

set_option maxRecDepth 20000 in
theorem witness_fetch_skip :
    let w : W64 := wordS 0 1 1 2 0 + 0x0800000000000000
    fetchAt (cached w fetchCore) (.res 0 5) fetchCore ctx5 = .word w ∧ iClass w < 0xD ∧ pGet fetchCore (iPred w) = iNeg w :=
  ⟨by decide, by decide, by decide⟩
set_option maxRecDepth 20000 in
theorem witness_fetch_noEntry :
    let w : W64 := wordS 0x17 0 0 0 0
    fetchAt (cached w fetchCore) (.res 0 5) fetchCore ctx5 = .word w ∧ iClass w < 0xD ∧ pGet fetchCore (iPred w) ≠ iNeg w ∧ wordOk w = false :=
  ⟨by decide, by decide, by decide, by decide⟩

set_option maxRecDepth 20000 in
theorem witness_icacheFill :
    let k : Core := { pc := 0x10000, miss := some 0x100 }
    let s : State := { unitState k with host := { State.reset.host with cacheEn := true } }
    Claims.At s 0 (.res 0 5) k ctx5 ∧ k.miss = some 0x100 ∧ (devPieces ctx5 (0x100 * 256) 256).any (fun p => addrWaits s p.1) = false
      ∧ (ctxRead s ctx5 (0x100 * 256) 256 0).2.2 = false := by decide
set_option maxRecDepth 20000 in
theorem witness_icacheFill_poison :
    let k : Core := { pc := 0x10000, miss := some 0x100 }
    let s : State := { unitState k with host := { State.reset.host with cacheEn := true }, poison := [0x8000040000C0] }
    Claims.At s 0 (.res 0 5) k ctx5 ∧ (ctxRead s ctx5 (0x100 * 256) 256 0).2.2 = true ∧ ctx5.faulted = false := by decide

theorem witness_dispatch :
    let w := word 5 0x5A (3 * 2 ^ 43)
    let k := coreWith w 1 2
    Claims.At (issuing w 1 2) 0 (.res 0 5) k ctx5 ∧ isEngine w = true ∧ engHeld k w = false ∧ queueFull k (queueOf w) = false := by decide
theorem witness_dispatch_full :
    let w := word 0xB 0 0
    let k : Core := { ir := some w, cq := List.replicate 8 {} }
    Claims.At (unitState k) 0 (.res 0 5) k ctx5 ∧ isEngine w = true ∧ engHeld k w = false ∧ queueFull k (queueOf w) = true := by decide

set_option maxRecDepth 20000 in
theorem witness_scalarAlu :
    ∀ op ∈ List.range 0x17, Claims.Issues (issuing (wordS op 3 1 2 1) (2 ^ 64 - 1) 63) 0 (.res 0 5) (coreWith (wordS op 3 1 2 1) (2 ^ 64 - 1) 63) ctx5 0
        (wordS op 3 1 2 1) ∧ iOp (wordS op 3 1 2 1) = op := by decide
theorem witness_scalarCount :
    ∀ op ∈ [0x18, 0x19, 0x1A], Claims.Issues (issuing (wordS op 3 1 0 0) 0 0) 0 (.res 0 5) (coreWith (wordS op 3 1 0 0) 0 0) ctx5 0 (wordS op 3 1 0 0)
        ∧ inRange 0x18 0x1A (iOp (wordS op 3 1 0 0)) = true := by decide
theorem witness_predicates :
    ∀ op ∈ [0x20, 0x21, 0x22, 0x23, 0x24, 0x25, 0x28, 0x29, 0x2A, 0x2B, 0x2C, 0x2D],
      Claims.Issues (issuing (wordS op 7 1 2 0) 5 5) 0 (.res 0 5) (coreWith (wordS op 7 1 2 0) 5 5) ctx5 0 (wordS op 7 1 2 0)
        ∧ iOp (wordS op 7 1 2 0) = op := by decide
theorem witness_immediates :
    ∀ op ∈ [0, 2, 3, 4, 6, 7, 8, 9, 0x14, 0x15, 0x20, 0x21, 0x22, 0x23, 0x24, 0x25, 0x30, 0x31],
      Claims.Issues (issuing (wordI 1 op 3 1 0xFFFFFFFF) 5 5) 0 (.res 0 5) (coreWith (wordI 1 op 3 1 0xFFFFFFFF) 5 5) ctx5 1 (wordI 1 op 3 1 0xFFFFFFFF)
        ∧ iOp (wordI 1 op 3 1 0xFFFFFFFF) = op := by decide
theorem witness_branches :
    ∀ op ∈ [0, 1, 2, 3, 4],
      Claims.Issues (issuing (wordI 2 op 1 1 0xFFFFFFFF) 8 5) 0 (.res 0 5) (coreWith (wordI 2 op 1 1 0xFFFFFFFF) 8 5) ctx5 2 (wordI 2 op 1 1 0xFFFFFFFF)
        ∧ iOp (wordI 2 op 1 1 0xFFFFFFFF) = op ∧ (gGet (coreWith (wordI 2 op 1 1 0xFFFFFFFF) 8 5) 1).toNat % 8 = 0
        ∧ gGet (gSet (coreWith (wordI 2 op 1 1 0xFFFFFFFF) 8 5) 1 7) 1 ≠ 0 ∧ gGet (gSet (coreWith (wordI 2 op 0 1 0) 1 5) 1 0) 1 = 0 := by decide
theorem witness_branchMisaligned :
    ∀ op ∈ [2, 3], Claims.Issues (issuing (wordI 2 op 1 1 0) 4 5) 0 (.res 0 5) (coreWith (wordI 2 op 1 1 0) 4 5) ctx5 2 (wordI 2 op 1 1 0)
      ∧ (gGet (coreWith (wordI 2 op 1 1 0) 4 5) 1).toNat % 8 ≠ 0 := by decide
set_option maxRecDepth 20000 in
theorem witness_loadStore :
    ∀ op ∈ [0, 1, 2, 3, 4, 5, 6, 8, 9, 0xA, 0xB],
      Claims.Issues (issuing (wordI 3 op 3 1 0xFFFFFFF8) 0x100000 5) 0 (.res 0 5) (coreWith (wordI 3 op 3 1 0xFFFFFFF8) 0x100000 5) ctx5 3
          (wordI 3 op 3 1 0xFFFFFFF8)
        ∧ iOp (wordI 3 op 3 1 0xFFFFFFF8) = op ∧ localSize (issuing 0 0 0) (.res 0 5) ctx5 = 0x100000
        ∧ rawPoison (issuing 0 0 0) (localAddr (issuing 0 0 0) (.res 0 5) ctx5 0xFFFF8) 8 = false := by decide
set_option maxRecDepth 20000 in
theorem witness_accessFaults :
    ∀ op ∈ [1, 6, 9, 0xB],
      Claims.Issues (issuing (wordI 3 op 3 1 0) 0xFFFFF 5) 0 (.res 0 5) (coreWith (wordI 3 op 3 1 0) 0xFFFFF 5) ctx5 3 (wordI 3 op 3 1 0)
        ∧ localSize (issuing 0 0 0) (.res 0 5) ctx5 < 0xFFFFF + 2 := by decide
theorem witness_accessPoison :
    rawPoison { issuing (wordI 3 0 3 1 0) 0 5 with poison := [usWin] } (localAddr State.reset (.res 0 5) ctx5 0) 1 = true := by decide
theorem witness_scalarFrame : ∃ t, exec (.add 0) (issuing (wordS 0 3 1 2 0) 1 2) = .next t := ⟨_, rfl⟩

/-! ## Results of the sequencer on hand-made words -/

/-- g3 of context 5 after a command. -/
def g3After (c : Instr) (s : State) : W64 :=
  match exec c s with
  | .next t => ((resOf t 0 5).map (fun r => gGet r.core 3)).getD 0
  | _ => 0

theorem test_divMostNegative : g3After (.div 0) (issuing (wordS 0x0C 3 1 2 0) (2 ^ 63) (2 ^ 64 - 1)) = 2 ^ 63 := by decide +kernel
theorem test_remNegative : g3After (.div 0) (issuing (wordS 0x0E 3 1 2 0) (-7) 2) = -1 := by decide
theorem test_mulhNegative : g3After (.mul 0) (issuing (wordS 0x0A 3 1 2 0) (-1) 1) = -1 := by decide
theorem test_sraKeepsSign : g3After (.shift 0) (issuing (wordS 8 3 1 2 0) (2 ^ 63) 127) = -1 := by decide +kernel
theorem test_clzOfOne : g3After (.clz 0) (issuing (wordS 0x18 3 1 0 0) 1 0) = 63 := by decide
theorem test_addiSignExtends : g3After (.addi 0) (issuing (wordI 1 0 3 1 0xFFFFFFFF) 5 0) = 4 := by decide
theorem test_andiZeroExtends : g3After (.addi 0) (issuing (wordI 1 2 3 1 0xFFFFFFFF) (-1) 0) = 0xFFFFFFFF := by decide
theorem test_liHi : g3After (.liHi 0) (issuing (wordI 1 0x31 3 1 7) (-1) 0) = 0x7FFFFFFFF := by decide
theorem test_ldSignExtends :
    g3After (.ld 0) { issuing (wordI 3 0 3 1 0) 2 0 with mem := [(usWin + 2, 0x80)] } = 0xFFFFFFFFFFFFFF80 := by decide
theorem test_storeThenLoad :
    (match exec (.st 0) (issuing (word 3 9 (1 * 2 ^ 38 + 2 * 2 ^ 33)) 6 0xABCD) with | .next t => t.mem | _ => [])
      = [(usWin + 6, 0xCD), (usWin + 7, 0xAB)] := by decide

/-- No extent of context 5 grants X at PC 0x900000. -/
theorem witness_fetch_noGrant : ∀ e ∈ ctx5.extents, e.cbase ≤ 0x900000 → 0x900000 < e.cbase + e.size * 4096 → e.x = false := by decide

/-- `shli` with IMM[6] set (R238). -/
theorem witness_shift_immReserved :
    let v := wordI 1 6 2 1 64
    iClass v = 1 ∧ inRange 6 8 (iOp v) = true ∧ 64 ≤ iImm32 v ∧ wordOk v = false := by decide

/-- An extent that grants X and maps its bytes to the share of a unit store. -/
def winExt : Extent := { cbase := 0x400000, size := 1, kind := 1, r := true, x := true, dbase := usWin }
def winCtx : Ctx := { ctx5 with extents := [winExt] }
theorem witness_fetch_window :
    let k : Core := { pc := 0x400010 }
    let s : State := { unitState k with ctxs := [(5, winCtx)] }
    Claims.Runs s 0 (.res 0 5) k winCtx ∧ k.wait = .none ∧ k.ir = none ∧ k.miss = none
      ∧ findExt winCtx k.pc.toNat = some winExt ∧ isUs (extDev winExt k.pc.toNat) = true := by decide

/-! ## Witnesses: the matrix arrays -/

/-- `mm` words: AQ0, fp8 × fp8 (formats 3 and 3), register pairs g2 and g4, dimension register g6. -/
def mmWord (op : Nat) : W64 := word 4 op (3 * 2 ^ 42 + 3 * 2 ^ 38 + 2 * 2 ^ 31 + 4 * 2 ^ 26 + 6 * 2 ^ 21)
/-- Panels at offsets 0 and 0x1000 with stride 64; M = N = 1, K = 2. -/
def mmEnt (op : Nat) : QEnt := { w := mmWord op, pc := 0x10000, seq := 7, g := [(2, 4 * 2 ^ 24), (4, 4 * 2 ^ 24 + 0x1000), (6, 2)] }
def mmCore (op : Nat) (b0 : Bank) (work : List MmCur) (feed : List KData) : Core :=
  { aq0 := [mmEnt op], live := [(7, 0)], arr := [(0, { b0 := b0, work := work, feed := feed })] }
def mmState (k : Core) : State := unitState k
def openB : Bank := { st := .opened, m := 1, n := 1, cells := [{}] }

theorem witness_mmClr :
    Claims.AqFront (mmState (mmCore 0 {} [] [])) 0 0 (.res 0 5) (mmCore 0 {} [] []) ctx5 (mmEnt 0) ∧ mmValuesOk (mmEnt 0) = true
      ∧ mmInShare (mmEnt 0) 0x100000 = true ∧ iOp (mmEnt 0).w = 0 ∧ openBank (arrOf (mmCore 0 {} [] []) 0) = none
      ∧ freeBank (arrOf (mmCore 0 {} [] []) 0) = some false := by decide
theorem witness_mmAcc :
    Claims.AqFront (mmState (mmCore 1 openB [] [])) 0 0 (.res 0 5) (mmCore 1 openB [] []) ctx5 (mmEnt 1) ∧ mmValuesOk (mmEnt 1) = true
      ∧ iOp (mmEnt 1).w = 1 ∧ openBank (arrOf (mmCore 1 openB [] []) 0) = some false
      ∧ openB.m = dimM (cap (mmEnt 1) (iMK (mmEnt 1).w)) ∧ openB.n = dimN (cap (mmEnt 1) (iMK (mmEnt 1).w))
      ∧ openB.int = isInt8 (iFA (mmEnt 1).w) := by decide
/-- `mm.drain` to tile register 3, and to the share at the offset and stride of g3. -/
def drEnt (op : Nat) : QEnt := { w := word 4 op (3 * 2 ^ 41), pc := 0x10000, seq := 7, g := [(3, 2 * 2 ^ 24 + 64)] }
def drCore (op : Nat) (b : Bank) : Core := { aq0 := [drEnt op], live := [(7, 0)], arr := [(0, { b0 := b })] }
theorem witness_mmDrainTile :
    Claims.AqFront (mmState (drCore 2 openB)) 0 0 (.res 0 5) (drCore 2 openB) ctx5 (drEnt 2) ∧ openBank (arrOf (drCore 2 openB) 0) = some false
      ∧ iOp (drEnt 2).w = 2 ∧ tileBusy (drCore 2 openB) (iDst (drEnt 2).w) = false := by decide
theorem witness_mmDrainUs :
    Claims.AqFront (mmState (drCore 3 openB)) 0 0 (.res 0 5) (drCore 3 openB) ctx5 (drEnt 3) ∧ openBank (arrOf (drCore 3 openB) 0) = some false
      ∧ iOp (drEnt 3).w = 3 ∧ drainOff (drEnt 3) % 32 = 0 ∧ roundUp (openB.n * 4) 32 ≤ drainStride (drEnt 3)
      ∧ drainOff (drEnt 3) + (openB.m - 1) * drainStride (drEnt 3) + openB.n * 4 ≤ localSize (mmState (drCore 3 openB)) (.res 0 5) ctx5 := by decide
theorem witness_matrixFaults :
    Claims.AqFront (mmState (mmCore 0 openB [] [])) 0 0 (.res 0 5) (mmCore 0 openB [] []) ctx5 (mmEnt 0)
      ∧ (openBank (arrOf (mmCore 0 openB [] []) 0)).isSome = true ∧ openBank (arrOf (mmCore 1 {} [] []) 0) = none
      ∧ mmValuesOk { mmEnt 0 with g := [] } = false ∧ mmInShare (mmEnt 0) 0x1000 = false
      ∧ Claims.AqFront (mmState (drCore 2 {})) 0 0 (.res 0 5) (drCore 2 {}) ctx5 (drEnt 2)
      ∧ Claims.AqFront (mmState (drCore 3 {})) 0 0 (.res 0 5) (drCore 3 {}) ctx5 (drEnt 3)
      ∧ Claims.AqFront (mmState (mmCore 1 {} [] [])) 0 0 (.res 0 5) (mmCore 1 {} [] []) ctx5 (mmEnt 1) := by decide

def feedCore : Core := mmCore 0 openB [{ ent := mmEnt 0 }] []
theorem witness_feederFetch :
    Claims.EngAt (mmState feedCore) 0 (.res 0 5) feedCore ctx5 ∧ feedNext (arrOf feedCore 0) (feedEnts feedCore 0) = some (mmEnt 0, 0, true)
      ∧ isSaving (mmState feedCore) (.res 0 5) = false ∧ feedRoom (arrOf feedCore 0).feed (fetchK (mmState feedCore) (localAddr (mmState feedCore) (.res 0 5) ctx5) (mmEnt 0) 0) = true
      ∧ (∀ p, p ∈ kRanges (panelA (mmEnt 0)) 0 ++ kRanges (panelB (mmEnt 0)) 0 →
          rawPoison (mmState feedCore) (localAddr (mmState feedCore) (.res 0 5) ctx5 p.1) p.2 = false) := by decide
def stepCore : Core := mmCore 0 openB [{ ent := mmEnt 0, k := 1 }] [{ seq := 7, a := [0x38], b := [0x40] }]
theorem witness_kStep :
    Claims.EngAt (mmState stepCore) 0 (.res 0 5) stepCore ctx5 ∧ (arrOf stepCore 0).work = { ent := mmEnt 0, k := 1 } :: []
      ∧ (arrOf stepCore 0).feed = { seq := 7, a := [0x38], b := [0x40] } :: [] ∧ isMx (iFA (mmEnt 0).w) = false ∧ 1 + 1 = entK (mmEnt 0) := by decide
/-- MX8 operands: format 5 on both sides, K = 32. -/
def mxEnt : QEnt := { mmEnt 0 with w := word 4 0 (5 * 2 ^ 42 + 5 * 2 ^ 38 + 2 * 2 ^ 31 + 4 * 2 ^ 26 + 6 * 2 ^ 21), g := [(6, 32)] }
theorem witness_kStepMx : isMx (iFA mxEnt.w) = true ∧ (31 : Nat) % 32 = 31 ∧ 31 + 1 = entK mxEnt ∧ (30 : Nat) % 32 ≠ 31 ∧ 30 + 1 ≠ entK mxEnt := by decide
def draining (op : Nat) (started : Bool) : Core :=
  { live := [(7, 0)], arr := [(0, { b0 := { st := .draining, m := 1, n := 1, cells := [{ acc := 5, sat := true }], ent := drEnt op, started := started } })] }
theorem witness_drainStart :
    Claims.EngAt (mmState (draining 2 false)) 0 (.res 0 5) (draining 2 false) ctx5 ∧ drainBank (arrOf (draining 2 false) 0) true = none
      ∧ drainBank (arrOf (draining 2 false) 0) false = some false := by decide
theorem witness_drainComplete :
    Claims.EngAt (mmState (draining 2 true)) 0 (.res 0 5) (draining 2 true) ctx5 ∧ drainBank (arrOf (draining 2 true) 0) true = some false
      ∧ drainBank (arrOf (draining 3 true) 0) true = some false ∧ iOp (drEnt 3).w ≠ 2 ∧ 1 * 4 ≤ drainStride (drEnt 3)
      ∧ rawPoison (mmState (draining 3 true)) (localAddr (mmState (draining 3 true)) (.res 0 5) ctx5 64) 4 = false := by decide

/-- 1.0 × 2.0 in E4M3 adds 2.0 to the cell (R75). -/
theorem test_kStepAddsProduct :
    (match exec (.kStep 0 0) (mmState stepCore) with
      | .next t => (resOf t 0 5).map (fun r => ((bankOf (arrOf r.core 0) false).cells, r.core.live))
      | _ => none) = some ([{ acc := 0x40000000 }], []) := by decide

/-- Two instances of a stack program on one engine: while the other holds the open bank, the block has none for this one. -/
theorem witness_blockTaken :
    let s : State := { unitState {} with se := [(2, { inst := [(0, { active := true, core := mmCore 1 openB [] [] }), (1, { active := true })] })] }
    blockTaken s (.inst 2 1) {} = true ∧ blockTaken s (.inst 2 0) (mmCore 1 openB [] []) = false := by decide

/-! ## Witnesses: the vector engine -/

/-- Layout V with ET, FMT and the mask k1: VD 3, VA 1, VB 2. -/
def wordV (cls op fmt et : Nat) : W64 := word cls op (3 * 2 ^ 43 + 1 * 2 ^ 38 + 2 * 2 ^ 33 + 1 * 2 ^ 25 + et * 2 ^ 14 + fmt * 2 ^ 10)
/-- Captured: g1 = 64, g2 = 32; the mask k1 has lanes 0 and 1. -/
def vEnt (w : W64) : QEnt := { w := w, pc := 0x10000, seq := 9, g := [(1, 64), (2, 32)] }
def vCore (w : W64) : Core := { vq := [vEnt w], live := [(9, 3)], k := [(1, 3)], t := [(3, { v := [], written := true })] }
def vState (w : W64) : State := unitState (vCore w)

theorem witness_elementwise :
    ∀ op ∈ [0, 1, 2, 3, 4, 5, 6, 7, 8, 9, 0x0A, 0x10, 0x18, 0x19, 0x1A, 0x1B, 0x1C, 0x20, 0x21, 0x22, 0x23, 0x24, 0x25, 0x26, 0x28, 0x11, 0x30, 0x35, 0x38,
        0x39, 0x3A, 0x3B, 0x3C, 0x3D, 0x3E, 0x3F, 0x40, 0x41, 0x42, 0x43, 0x44, 0x45, 0x46, 0x58, 0x59, 0x5A],
      Claims.VqFront (vState (wordV 5 op 0 0)) 0 (.res 0 5) (vCore (wordV 5 op 0 0)) ctx5 5 (vEnt (wordV 5 op 0 0))
        ∧ iTF (vEnt (wordV 5 op 0 0)).w = false ∧ iOp (vEnt (wordV 5 op 0 0)).w = op := by decide
theorem witness_sweep :
    let w : W64 := wordV 5 0 0 0 + 2 ^ 18
    Claims.VqFront (vState w) 0 (.res 0 5) (vCore w) ctx5 5 (vEnt w) ∧ iTF w = true ∧ (vEnt w).row < 32 ∧ min 32 ((vEnt w).row + 31) < 32 ∧ min 32 ((vEnt w).row + 32) = 32
      ∧ (∀ r, r ∈ [iGD w, iGA w, iGB w, iVC w] → (tileOf (vCore w) r).v.length = 0 ∨ (tileOf (vCore w) r).v.length = 4096) ∧ (iGD w :: sweepSrcs w).any (tileBusy (vCore w)) = false
      ∧ ((sweepSrcs w).any (fun r => (tileOf (vCore w) r).poison) || ((tileOf (vCore w) (iGD w)).poison && iKM w != 0)) = false := by decide
theorem witness_sweepPoison :
    let w : W64 := wordV 5 0 0 0 + 2 ^ 18
    (sweepSrcs w).any (fun r => (tileOf { vCore w with t := [(1, { poison := true })] } r).poison) = true := by decide
theorem witness_conversion :
    cvtOther (wordV 5 0x11 0xC 0) = (0xC, true) ∧ (cvtOther (wordV 5 0x11 0 0 + 0x80)).2 = false ∧ (cvtOther (wordV 5 0x11 0 0 + 0x80)).1 < 0xD
      ∧ isMx (cvtOther (wordV 5 0x11 0 0 + 0x80)).1 = false
      ∧ (cvtOther (wordV 5 0x11 0xE 0)).1 = 0xE ∧ eOk (cvtE { vEnt (wordV 5 0x11 0xE 0) with g := [(2, 0xFF)] }) = false := by decide

/-- A conversion of registers 1 and 3: its other format, out of FP32 or into it, PART, and VC, VB. -/
def wordCvt (o : Nat) (out : Bool) (part vc vb : Nat) : W64 :=
  word 5 0x11 (3 * 2 ^ 43 + 1 * 2 ^ 38 + vb * 2 ^ 33 + vc * 2 ^ 28 + (if out then o * 2 ^ 10 else o * 64) + part)
def full : List W32 := List.replicate 128 0x3F800000
def cvtCore (w : W64) : Core := { vCore w with v := [(1, full), (3, full), (5, full)] }
theorem witness_conversionForms :
    ∀ p ∈ [(1, 1), (0xA, 3)], cvtOk (wordCvt p.1 true p.2 0 0) = true ∧ isMx p.1 = false ∧ p.1 < 0xC ∧ (cvtOther (wordCvt p.1 true p.2 0 0)).2 = true := by decide
set_option maxRecDepth 20000 in
theorem witness_conversionBlocks :
    (∀ out ∈ [true, false], ∀ part ∈ [0, 3], cvtOk (wordCvt 0xD out part 5 0) = true ∧ (cvtOther (wordCvt 0xD out part 5 0)) = (0xD, out)
      ∧ Claims.VqFront (unitState (cvtCore (wordCvt 0xD out part 5 0))) 0 (.res 0 5) (cvtCore (wordCvt 0xD out part 5 0)) ctx5 5 (vEnt (wordCvt 0xD out part 5 0))
      ∧ (vGet (cvtCore 0) 1).length = 128 ∧ part < (vGet (cvtCore 0) 5).length ∧ iVC (wordCvt 0xD out part 5 0) ≠ iGD (wordCvt 0xD out part 5 0))
    ∧ (∀ out ∈ [true, false], cvtOk (wordCvt 0xE out 3 0 2) = true ∧ cvtOther (wordCvt 0xE out 3 0 2) = (0xE, out) ∧ eOk (cvtE (vEnt (wordCvt 0xE out 3 0 2))) = true)
    ∧ (vGet (cvtCore 0) 3).length = 128 := by decide

/-- A memory form with base g1 = 64 and stride g2 = 32, lanes 0 and 1 active. -/
def wordMem (cls op vd va vb vc : Nat) : W64 := word cls op (vd * 2 ^ 43 + va * 2 ^ 38 + vb * 2 ^ 33 + vc * 2 ^ 28 + 1 * 2 ^ 25)
set_option maxRecDepth 20000 in
theorem witness_loadForms :
    let s := vState 0
    let oc (off : Nat → W64) : Prop := ∀ l, l ∈ [0, 1] → (off l).toNat % 4 = 0 ∧ (off l).toNat + 4 ≤ ocSizeOf s (.res 0 5) ctx5
      ∧ rawPoison s (ocAddrOf s (.res 0 5) ctx5 (off l).toNat) 4 = false
    let e (w : W64) : QEnt := vEnt w
    oc (contig (vecAddr (e (wordMem 5 0x50 3 1 2 0)))) ∧ (vecAddr (e (wordMem 5 0x50 3 1 2 0))).toNat % 4 = 0
      ∧ oc (fun l => cap (e (wordMem 5 0x52 3 4 1 0)) 1 + BitVec.ofNat 64 (4 * (laneOf (vGet (vCore 0) 4) l).toNat))
      ∧ oc (fun l => cap (e (wordMem 5 0x53 0 4 6 1)) 1 + BitVec.ofNat 64 (4 * (laneOf (vGet (vCore 0) 6) l).toNat)) ∧ (cap (e 0) 1).toNat % 4 = 0
      ∧ (usStride (e (wordMem 5 0x54 3 1 2 0)) 2).toNat % 32 = 0 ∧ (vecAddr (e (wordMem 5 0x54 3 1 2 0))).toNat % 32 = 0
      ∧ (∀ l, l ∈ [0, 1] → ((vecAddr (e (wordMem 5 0x54 3 1 2 0))) + BitVec.ofNat 64 (4 * (l % 64))).toNat + 4 ≤ shareSize ctx5
          ∧ rawPoison s (localAddr s (.res 0 5) ctx5 ((vecAddr (e (wordMem 5 0x54 3 1 2 0))) + BitVec.ofNat 64 (4 * (l % 64))).toNat) 4 = false)
      ∧ oc (fun l => (((curGet (vCore 0) 2).setWidth 64 : W64) + BitVec.ofNat 64 (4 * l))) := by decide

theorem witness_loads :
    ∀ op ∈ [0x50, 0x51, 0x52, 0x53, 0x54, 0x55],
      let e := vEnt (wordV 5 op 0 0)
      let s := vState (wordV 5 op 0 0)
      Claims.VqFront s 0 (.res 0 5) (vCore (wordV 5 op 0 0)) ctx5 5 e ∧ iOp e.w = op ∧ (vecAddr e).toNat % 32 = 0 := by decide
theorem witness_active : activeLanes (vCore 0) 1 = [0, 1] := by decide
theorem witness_loadOffsets :
    let e := vEnt (wordV 5 0x50 0 0)
    (∀ l, l ∈ [0, 1] → (contig (vecAddr e) l).toNat % 4 = 0 ∧ (contig (vecAddr e) l).toNat + 4 ≤ ocSizeOf (vState e.w) (.res 0 5) ctx5)
      ∧ (∀ l, l ∈ [0, 1] → (cap e 2 + BitVec.ofNat 64 (4 * (laneOf (vGet (vCore e.w) 1) l).toNat)).toNat % 4 = 0)
      ∧ (usStride e 2).toNat % 32 = 0
      ∧ rawPoison (vState e.w) (ocAddrOf (vState e.w) (.res 0 5) ctx5 (contig (vecAddr e) 1).toNat) 4 = false := by decide
theorem witness_cursorForms :
    ∀ op ∈ [0x12, 0x13],
      Claims.VqFront (vState (wordV 6 op 0 0)) 0 (.res 0 5) (vCore (wordV 6 op 0 0)) ctx5 6 (vEnt (wordV 6 op 0 0)) ∧ iOp (wordV 6 op 0 0) = op
        ∧ iTF (wordV 6 op 0 0) = false ∧ (∀ l, l ∈ [0, 1] → (((curGet (vCore 0) 1).setWidth 64 : W64) + BitVec.ofNat 64 (4 * l)).toNat + 4 ≤ ocSize ctx5) := by decide
theorem witness_accessOutside :
    let e : QEnt := { vEnt (wordV 5 0x50 0 0) with g := [(1, 0x10000)] }
    ocSizeOf (vState e.w) (.res 0 5) ctx5 < (contig (vecAddr e) 0).toNat + 4 := by decide
theorem witness_accessPoisoned :
    let e := vEnt (wordV 5 0x50 0 0)
    poisoned { vState e.w with poison := [ocBase + 64] } (ocAddrOf (vState e.w) (.res 0 5) ctx5 (contig (vecAddr e) 0).toNat) = true := by decide
theorem witness_tiles :
    ∀ op ∈ [0x58, 0x59, 0x5A], iOp (wordV 5 op 0 0) = op ∧ tileBusy (vCore (wordV 5 op 0 0)) 1 = false ∧ tileBusy (vCore (wordV 5 op 0 0)) 3 = false
      ∧ (tileOf (vCore 0) 3).poison = false ∧ (tileOf (vCore 0) 3).v = [] ∧ (tileOf { vCore 0 with t := [(1, { poison := true })] } 1).poison = true := by decide
theorem witness_crossLane :
    ∀ op ∈ [0, 8, 9, 0xA, 0xB, 0xC, 0xD, 0xE, 0xF, 0x10, 0x11, 0x18],
      Claims.VqFront (vState (wordV 6 op 0 0)) 0 (.res 0 5) (vCore (wordV 6 op 0 0)) ctx5 6 (vEnt (wordV 6 op 0 0)) ∧ iOp (wordV 6 op 0 0) = op
        ∧ iTF (wordV 6 op 0 0) = false ∧ (vCore 0).xln = false ∧ ({ vCore 0 with xln := true } : Core).xln = true := by decide

/-- `vx.lane` delivers a lane to its register. -/
theorem test_vxLane :
    g3After (.vxLane 0) (unitState { vCore (word 5 0x41 (3 * 2 ^ 43 + 1 * 2 ^ 38 + 2)) with v := [(1, [7, 8, 9])], pend := [(3, 9)] }) = 9 := by decide
/-- 1.0 + 2.0 in FP32 on lane 0, lane 1 inactive. -/
theorem test_vxAddLane :
    (fpAdd fp32 0 0x3F800000 0x40000000).1 = 0x40400000 := by decide

/-! ## Witnesses: marks, waits, sleeps, signals, barriers, system instructions, unit switching -/

/-- Layout Y: GD 3, GA 1, GB 2, Q, IMM16. -/
def wordY (cls op q imm : Nat) : W64 := word cls op (3 * 2 ^ 43 + 1 * 2 ^ 38 + 2 * 2 ^ 33 + q * 2 ^ 29 + imm)
theorem witness_syWaitMark :
    ∀ op ∈ [0, 1, 2, 3, 4, 5, 6],
      Claims.Issues (issuing (wordY 9 op 13 0x7FFF) 1 2) 0 (.res 0 5) (coreWith (wordY 9 op 13 0x7FFF) 1 2) ctx5 9 (wordY 9 op 13 0x7FFF)
        ∧ iOp (wordY 9 op 13 0x7FFF) = op ∧ iImm16 (wordY 9 op 13 0x7FFF) ≠ 0 ∧ queueFull (coreWith (wordY 9 op 13 0x7FFF) 1 2) 13 = false
        ∧ iQ (wordY 9 op 13 0x7FFF) ≤ 13 ∧ (resOf (issuing (wordY 9 op 13 0x7FFF) 1 2) 0 5).map (·.st) = some .running := by decide
theorem witness_markNop : iImm16 (wordY 9 1 13 0) = 0 := by decide
theorem witness_markFull :
    let k : Core := { ir := some (wordY 9 1 13 1), cq := List.replicate 8 {} }
    Claims.Issues (unitState k) 0 (.res 0 5) k ctx5 9 (wordY 9 1 13 1) ∧ queueFull k 13 = true ∧ iQ (wordY 9 1 13 1) = 13 := by decide
/-- A mark of VQ that awaits entry 4. -/
def markCore (live : List (Nat × Nat)) : Core := { vq := [{ mark := true, seq := 6, awaits := [4] }], live := live, wait := .queues [4] }
theorem witness_markRelease :
    Claims.Runs (unitState (markCore [(6, 3)])) 0 (.res 0 5) (markCore [(6, 3)]) ctx5
      ∧ freeMark (markCore [(6, 3)]) 3 = some { mark := true, seq := 6, awaits := [4] } ∧ (markCore [(6, 3)]).wait = .queues [4]
      ∧ (∀ n, n ∈ [4] → ∀ p, p ∈ (markCore [(6, 3)]).live → p.1 ≠ n) := by decide
theorem witness_markHeld :
    Claims.Runs (unitState (markCore [(4, 0)])) 0 (.res 0 5) (markCore [(4, 0)]) ctx5 ∧ ∃ p, p ∈ (markCore [(4, 0)]).live ∧ p.1 = 4 :=
  ⟨by decide, (4, 0), by decide, rfl⟩

theorem witness_sleepIssue :
    condOk (1 * 2 ^ 32 + 0xFFF * 2 ^ 20) = true ∧ watchOk ctx5 (1 * 2 ^ 32) = true ∧ condPoison State.reset 0 ctx5 (1 * 2 ^ 32) = false
      ∧ condMet (1 * 2 ^ 32) 0 = false ∧ condMet (1 * 2 ^ 32) 1 = true ∧ condOk (2 ^ 16) = false
      ∧ cSrc ((0x100000 - 4) * 2 ^ 32 + 2 ^ 15) = 2 ∧ condOk ((0x100000 - 4) * 2 ^ 32 + 2 ^ 15) = true ∧ shareSize ctx5 < cValue ((0x100000 - 4) * 2 ^ 32 + 2 ^ 15) + 8 := by decide
def sleeping (v : W64) (bars : List (Nat × Nat)) : State :=
  { unitState {} with res := [(5, { st := .running, core := { wait := .sleep 3 v 0 }, barDone := bars, sig := [(0, 9)] })] }
theorem witness_sleepWake :
    live (sleeping 0 []) 5 = true ∧ condMet (9 * 2 ^ 32) 9 = true ∧ condMet (10 * 2 ^ 32 + 2 ^ 19 + 2 ^ 20) 9 = false ∧ cBar (10 * 2 ^ 32 + 2 ^ 19 + 2 ^ 20) = true
      ∧ condPoison (sleeping 0 []) 0 ctx5 (10 * 2 ^ 32) = false ∧ cTimeout (10 * 2 ^ 32 + 2 ^ 19 + 2 ^ 20) ≠ 0 ∧ (State.reset.time.now - 0 : W64) < 2 ^ 63
      ∧ (resOf (sleeping 0 [(0, 1)]) 0 5).map (·.barDone) = some [(0, 1)] := by decide

theorem witness_signalDelivery :
    let g : Signal := { fromC := 5, target := 5 * 2 ^ 20 + 15 * 2 ^ 16, value := 7, op := 2 }
    let s : State := { unitState {} with signals := [g] }
    (resOf s (g.target.toNat % 256) (g.target.toNat / 2 ^ 20)).isSome = true ∧ ctxPart s 5 = some 0 ∧ g.target.toNat / 2 ^ 20 = 5
      ∧ s.signals[0]? = some g ∧ s.signals.take 0 = [] ∧ sameWay s g g = true := by decide
theorem witness_signalLost : resOf (unitState {}) 1 5 = none := by decide

theorem witness_syBar :
    (resOf (issuing (wordY 9 5 0 4) 1 2) 0 5).map (·.arrived.contains 0) = some false ∧ bit (wordY 9 5 0 4) 2 = true ∧ fld (wordY 9 5 0 4) 1 0 = 0 := by decide
def arrivedState : State := { unitState {} with res := [(5, { st := .saved, arrived := [1], core := { wait := .bar 3 1 } })], flt := { State.reset.flt with clkFault := [0] } }
theorem witness_barrier :
    participants ctx5 1 0 = [0] ∧ (∀ v, v ∈ participants ctx5 1 0 → hasArrived arrivedState 5 1 v = true) ∧ hasArrived arrivedState 5 2 0 = false
      ∧ arrivedState.flt.clkFault.contains (islandOf arrivedState 0) = true ∧ State.reset.flt.clkFault = []
      ∧ (resOf arrivedState 0 5).map (fun r => retired r.core && !r.held) = some true := by decide

theorem witness_system :
    ∀ op ∈ [0, 1, 2, 3, 4, 5, 6, 7, 8],
      Claims.Issues (issuing (wordY 0xC op 0 0x15) 1 2) 0 (.res 0 5) (coreWith (wordY 0xC op 0 0x15) 1 2) ctx5 0xC (wordY 0xC op 0 0x15)
        ∧ iOp (wordY 0xC op 0 0x15) = op ∧ queueFull (coreWith (wordY 0xC op 0 0x15) 1 2) 3 = false := by decide
theorem witness_xlnEntry :
    let e : QEnt := { w := word 0xC 1 1, seq := 2 }
    Claims.VqFront (unitState { vq := [e] }) 0 (.res 0 5) { vq := [e] } ctx5 0xC e ∧ iOp e.w = 1 := by decide
theorem witness_haltInstance :
    let k : Core := { ir := some (word 0xC 8 0) }
    let s : State := { unitState {} with se := [(2, { inst := [(1, { active := true, core := k, ctx := 5 })] })] }
    Claims.Issues s (256 + 8 * 2 + 1) (.inst 2 1) k ctx5 0xC (word 0xC 8 0) ∧ iOp (word 0xC 8 0) = 8 ∧ k.live = [] := by decide

def readyState : State :=
  { unitState {} with units := [(0, { part := some 0 })], res := [(5, { st := .ready })], pwr := { State.reset.pwr with st := .active } }
theorem witness_unitSelect :
    (unitOf readyState 0).running = none ∧ (unitOf readyState 0).en = true ∧ (unitOf readyState 0).quar = .inService ∧ powered readyState = true
      ∧ bestReady readyState 0 = some (5, { st := .ready }) ∧ savePoison readyState ctx5 0 = [] ∧ resOf readyState 0 5 = some { st := .ready }
      ∧ (unitOf readyState 0).next = none ∧ mayRun readyState (5, { st := .ready }) = true ∧ islandReady readyState (islandOf readyState 0) = true := by decide
def savingState : State := { unitState {} with res := [(5, { st := .saving })] }
theorem witness_saveComplete :
    resOf savingState 0 5 = some { st := .saving } ∧ ctxOf savingState 5 = some ctx5 ∧ live savingState 5 = true ∧ arraysStill {} = true
      ∧ ctx5.preempt = [] ∧ (unitOf savingState 0).running = some 5 := by decide
theorem witness_sliceEnd :
    let s : State := { unitState {} with ctxs := [(5, { ctx5 with slice := 2 })], time := { State.reset.time with now := 32000 } }
    live s 5 = true ∧ (unitOf s 0).running = some 5 ∧ s.time.now.toNat % (2 * 16000) = 0 ∧ (32001 : Nat) % (2 * 16000) ≠ 0 := by decide

/-- A signal that adds reaches its word; the wake code of a host resume is 4. -/
theorem test_wakeByHost :
    (match exec .ctxResume { sleeping (10 * 2 ^ 32) [] with host := { State.reset.host with cur := some { job := { opc := 5 }, ws := [0, 0, 5, 0, 0, 0, 0, 0] } } } with
      | .next t => (resOf t 0 5).map (fun r => gGet r.core 3)
      | _ => none) = some (BitVec.ofNat 64 (9 * 2 ^ 32 + 4)) := by decide

/-! ## Witnesses: movers -/

/-- A mover instruction whose QD, QA, QB and QC name g3, g1, g2 and g4: Layout Q (Table 6.9). -/
def mvWord (op : Nat) : W64 := word 7 op (3 * 2 ^ 40 + 1 * 2 ^ 35 + 2 * 2 ^ 30 + 4 * 2 ^ 25)
def mvEntry (op : Nat) (a b c : W64) : QEnt := { w := mvWord op, pc := 0x10000, g := [(1, a), (2, b), (4, c)], seq := 7 }
/-- Queue 0 of a core holds one entry with its progress. -/
def mvCore (m : MvEnt) : Core := { mq := [(0, { ents := [m] })], live := [(7, 4)], pend := [(3, 7)] }

theorem witness_mvDest : iQD (mvWord 0) = 3 ∧ iQA (mvWord 0) = 1 ∧ iQB (mvWord 0) = 2 ∧ iQC (mvWord 0) = 4 := by decide
/-- A get of 64 bytes of the code extent, with its ends. -/
theorem witness_mvGet :
    let e := mvEntry 0 0x10000 0 64
    let k := mvCore { ent := e }
    Claims.Begins (unitState k) 0 0 (.res 0 5) k ctx5 e ∧ isMv 0 e.w = true ∧ isPop (.res 0 5) ctx5 e = false
      ∧ endOk (unitState k) (.res 0 5) ctx5 .ctx (·.r) 0x10000 64 = true ∧ endOk (unitState k) (.res 0 5) ctx5 .share (·.w) 0 64 = true
      ∧ endOk (unitState k) (.res 0 5) ctx5 .share (·.w) 0xFFFC1 64 = false ∧ endRick ctx5 .ctx 0x10000 64 = false := by decide
theorem witness_mvPutCopy :
    (let e := mvEntry 1 0 0x40000000 64
     let k := mvCore { ent := e }
     Claims.Begins (unitState k) 0 0 (.res 0 5) k ctx5 e ∧ isMv 1 e.w = true ∧ isPush (.res 0 5) ctx5 e = false ∧ isSend (unitState k) (.res 0 5) e = false)
    ∧ (let e := mvEntry 2 0x10000 0x40000000 0
       let k := mvCore { ent := e }
       Claims.Begins (unitState k) 0 0 (.res 0 5) k ctx5 e ∧ isMv 2 e.w = true ∧ ((mqOf k 0).ents.map (·.ent.seq)).Nodup ∧ mvDest e = 3) := by decide

/-- Bytes of descriptor words in memory from an address. -/
def memWords (a : Nat) (ws : List W64) : List Host.Cell := putBytes [] a (ws.map (fun w => leBytes 8 w.toNat)).flatten
/-- Context 5's share on unit 0 starts with the words. -/
def shareWords (k : Core) (ws : List W64) : State := { unitState k with mem := memWords (usAddr 0 0) ws }
/-- Words 0 of descriptors: KIND and COUNT. -/
def dw0 (kind count : Nat) : W64 := BitVec.ofNat 64 (kind * 2 ^ 60 + count)

set_option maxRecDepth 20000 in
theorem witness_mvDescBlock :
    let ws : List W64 := [dw0 1 2, 0x10000, 0x40000000, 64 * 2 ^ 32 + 64, 64, 0, 0, 0]
    let e := mvEntry 3 0 0 0
    let k := mvCore { ent := e }
    let d := leWords 8 (memBytes (shareWords k ws) (localAddr (shareWords k ws) (.res 0 5) ctx5 0) 64)
    Claims.Begins (shareWords k ws) 0 0 (.res 0 5) k ctx5 e ∧ isMv 3 e.w = true ∧ d = ws ∧ dKind d = 1 ∧ blockOk d = true ∧ dCount d = 2
      ∧ rawPoison (shareWords k ws) (localAddr (shareWords k ws) (.res 0 5) ctx5 0) 64 = false
      ∧ endOk (shareWords k ws) (.res 0 5) ctx5 (srcSpace d) (·.r) (0x10000 + 1 * 64) 64 = true
      ∧ endOk (shareWords k ws) (.res 0 5) ctx5 (dstSpace d) (·.w) (0x40000000 + 1 * 64) 64 = true := by decide
theorem witness_mvDescKinds :
    listOk [dw0 2 1, 0x40, 0, 0, 0, 0, 0, 0] = true ∧ dKind [dw0 2 1] = 2 ∧ listOk [dw0 2 1, 0x41, 0, 0, 0, 0, 0, 0] = false
      ∧ remoteOk [dw0 3 1, 0x10000, 0x40000000, 0, 64, 7, 0, 0] = true ∧ dKind [dw0 3 1] = 3 ∧ dDevice [dw0 3 1, 0, 0, 0, 0, 7] = 7
      ∧ streamOk [BitVec.ofNat 64 (4 * 2 ^ 60 + 2 ^ 56 + 2), 0x10000, 0, 0x10000, 4096, 4096, 0, 0] = true
      ∧ dKind [dw0 5 0] = 5 ∧ blockOk [dw0 1 0, 0, 0, 0, 64, 0, 0, 0] = false := by decide
theorem witness_mvLim :
    let e : QEnt := { w := word 7 0x18 5, seq := 7 }
    let k := mvCore { ent := e }
    Claims.Begins (unitState k) 0 0 (.res 0 5) k ctx5 e ∧ isMv 0x18 e.w = true ∧ mvDest e = 0 ∧ iImm9 e.w = 5 := by decide
set_option maxRecDepth 20000 in
theorem witness_listEntryRead :
    let m : MvEnt := { ent := mvEntry 3 0 0 0, kind := .list, listLeft := 1, listAt := 0, sp := .ctx, dp := .ctx }
    let s := shareWords (mvCore m) [BitVec.ofNat 64 (64 * 2 ^ 48 + 0x10000), 0x40000000]
    Claims.At s 0 (.res 0 5) (mvCore m) ctx5 ∧ issues s (.res 0 5) = true
      ∧ (mqOf (mvCore m) 0).ents.find? (fun m => m.kind == .list && !m.stop && decide (m.rows ≤ m.row) && decide (0 < m.listLeft)) = some m
      ∧ wf (leWords 2 (memBytes s (localAddr s (.res 0 5) ctx5 0) 16)) 0 63 48 = 64 ∧ wf (leWords 2 (memBytes s (localAddr s (.res 0 5) ctx5 0) 16)) 1 63 48 = 0
      ∧ endOk s (.res 0 5) ctx5 .ctx (·.r) 0x10000 64 = true ∧ endOk s (.res 0 5) ctx5 .ctx (·.w) 0x40000000 64 = true := by decide

def putEnt : MvEnt := { ent := mvEntry 1 0 0x40000000 64, kind := .copy, sp := .share, src := 0, dp := .ctx, dst := 0x40000000, rowBytes := 64, rows := 1, total := 64 }
theorem witness_transferIssue :
    let k := mvCore putEnt
    let y : Xfer := { sp := .share, sa := 0, dp := .ctx, da := 0x40000000, len := 64, row := 64 }
    Claims.At (unitState k) 0 (.res 0 5) k ctx5 ∧ (mqOf k 0).cancel = none ∧ (mqOf k 0).ents.any isCancel = false ∧ issueEnt (mqOf k 0) = some putEnt
      ∧ nextXfer putEnt = some y ∧ clear (unitState k) (.res 0 5) ctx5 (mqOf k 0) y = true ∧ outstanding (mqOf k 0) < (mqOf k 0).limit
      ∧ (∀ p ∈ List.range 8, (p + 7 - k.mqRr % 8) % 8 < (0 + 7 - k.mqRr % 8) % 8 → (readyXfer (unitState k) (.res 0 5) ctx5 (mqOf k p)).isNone = true)
      ∧ piecesWait (unitState k) (endPieces (unitState k) (.res 0 5) ctx5 y.sp y.sa y.len) = false := by decide
theorem witness_transferPerformed :
    let y : Xfer := { sp := .ctx, sa := 0x10000, dp := .share, da := 32, len := 2, row := 2, data := [1, 2] }
    let m : MvEnt := { ent := mvEntry 0 0x10000 32 2, kind := .copy, rowBytes := 2, rows := 1, row := 1, total := 2, out := [y] }
    kthOut (mqOf (mvCore m) 0) 0 = some (m, 0, y) ∧ addrWaits (unitState (mvCore m)) (localAddr (unitState (mvCore m)) (.res 0 5) ctx5 32) = false
      ∧ poisoned (unitState (mvCore m)) (localAddr (unitState (mvCore m)) (.res 0 5) ctx5 32 + 1) = false := by decide
theorem witness_mvDone :
    (∀ kd ∈ [MvKind.copy, .list, .push, .atom, .red], mvDone { ent := mvEntry 8 0 0 0, kind := kd, rows := 1, row := 1 } = true) ∧ iAOP (mvWord 8) < 0xA
      ∧ mvDone { kind := .remote, stop := true } = true ∧ mvDone { kind := .flag, acked := 8 } = true ∧ mvDone { kind := .stream } = true := by decide
theorem witness_mvFlag :
    let e := mvEntry 0x10 0x40 9 7
    let k := mvCore { ent := e }
    Claims.Begins (unitState k) 0 0 (.res 0 5) k ctx5 e ∧ isMv 0x10 e.w = true ∧ (unitState k).fab.hold = false ∧ fld (cap e (iQC e.w)) 19 0 = 7
      ∧ (unitState k).fab.devId ≠ 7 ∧ (cap e (iQA e.w)).toNat = 0x40 := by decide
theorem witness_mvStream :
    let d : List W64 := [BitVec.ofNat 64 (4 * 2 ^ 60 + 2 ^ 56 + 2), 0x10000, 0, 0x10000, 4096, 4096, 0, 0]
    meet (dDst d, dCount d * dRow d) (dDstride d, 16) = false ∧ touchesRick ctx5 (dSrc d) (dTotal d) = false ∧ dEng d = false
      ∧ dDst d + dCount d * dRow d ≤ shareSize ctx5 ∧ dDstride d + 16 ≤ shareSize ctx5 ∧ dTotal d = 4096
      ∧ ctxOk (unitState {}) ctx5 (fun y => y.r && (!(dEng d) || y.s)) (dSrc d) (dTotal d) = true := by decide
theorem witness_remoteTimeout :
    let m : MvEnt := { ent := mvEntry 3 0 0 0, kind := .remote, tag := 4096, acked := 16 }
    let s : State := { unitState (mvCore m) with fab := { State.reset.fab with unacked := [(4096, 48)] } }
    Claims.At s 0 (.res 0 5) (mvCore m) ctx5
      ∧ (mqOf (mvCore m) 0).ents.find? (fun e => (e.kind == .remote || e.kind == .flag) && decide (0 < Tbl.get 0 s.fab.unacked e.tag)) = some m
      ∧ (mqOf (mvCore { m with cancel := true }) 0).ents.find? (fun e => (e.kind == .remote || e.kind == .flag) && decide (0 < Tbl.get 0 s.fab.unacked e.tag))
        = some { m with cancel := true } := by decide
def streamEnt (fill : Nat) : MvEnt :=
  { ent := mvEntry 3 0 0 0, kind := .stream, desc := [BitVec.ofNat 64 (4 * 2 ^ 60 + 2 ^ 56 + 2 ^ 54 + 2), 0x10000, 0, 0x10000, 4096, 8192], rowBytes := 4096, total := 8192,
    fill := fill, slotB := [(fill, 4096)] }
theorem witness_streamSlot :
    (mqOf (mvCore (streamEnt 1)) 0).ents.find? (fun e => e.kind == .stream && !e.cancel && !e.stop && decide (e.fill < streamSlots e)
        && Tbl.get 0 e.slotB e.fill == slotSize e e.fill) = some (streamEnt 1)
      ∧ dSigen (streamEnt 1).desc = true ∧ rawPoison (unitState (mvCore (streamEnt 1))) (localAddr (unitState {}) (.res 0 5) ctx5 0x10000) 8 = false := by decide
theorem witness_streamRelease :
    let s : State := { unitState (mvCore (streamEnt 1)) with mem := memWords (usAddr 0 0x10008) [1] }
    leNat (memBytes s (localAddr s (.res 0 5) ctx5 0x10008) 8) = 1 ∧ (streamEnt 1).release ≤ 1 ∧ 1 ≤ (streamEnt 1).fill ∧ (streamEnt 0).fill < 1 := by decide
theorem witness_mvCancel :
    let c : MvEnt := { ent := { w := mvWord 0x19, seq := 8 } }
    let k : Core := { mq := [(0, { ents := [putEnt, c] })] }
    Claims.At (unitState k) 0 (.res 0 5) k ctx5 ∧ issues (unitState k) (.res 0 5) = true ∧ (mqOf k 0).ents.find? isCancel = some c
      ∧ ((mqOf k 0).ents.takeWhile (fun e => e.ent.seq != c.ent.seq)).filter (fun e => !(mvDone e)) = [putEnt] ∧ carried putEnt = false
      ∧ (mqOf ({ mq := [(0, { ents := [c] })] } : Core) 0).ents.takeWhile (fun e => e.ent.seq != c.ent.seq) = [] := by decide
theorem witness_cancelComplete :
    let k : Core := { mq := [(0, { ents := [{ putEnt with cancel := true }], cancel := some { ent := { w := mvWord 0x19, seq := 8 }, covers := [7] } })] }
    ((mqOf k 0).ents.filter (fun e => ([7] : List Nat).contains e.ent.seq)).all (fun e => e.cancel && cancelReady (unitState k) e) = true
      ∧ mvDest { w := mvWord 0x19, seq := 8 } = 3 ∧ cancelReady (unitState k) { putEnt with out := [{}] } = false := by decide

/-- An add of 32 bits at 0x40000010, in context 5's stack-local extent. -/
def atomWord : W64 := word 7 8 (3 * 2 ^ 40 + 1 * 2 ^ 35 + 2 * 2 ^ 30 + 4 * 2 ^ 25)
def atomEnt : MvEnt := { ent := { w := atomWord, g := [(1, 0x40000010), (2, 5)], seq := 7 }, kind := .atom, dst := 0x40000010, elem := 1, rows := 1 }
theorem witness_mvAtom :
    let e : QEnt := { w := atomWord, g := [(1, 0x40000010), (2, 5)], seq := 7 }
    let k := mvCore { ent := e }
    Claims.Begins (unitState k) 0 0 (.res 0 5) k ctx5 e ∧ isMv 8 e.w = true ∧ iAOP e.w = 0 ∧ tgtBytes e.w = 4 ∧ touchesRick ctx5 0x40000010 4 = false
      ∧ targetOk (unitState k) ctx5 e.w 0x40000010 1 = true ∧ targetOk (unitState k) ctx5 e.w 0x40000012 1 = false := by decide
theorem witness_mvRed :
    let e : QEnt := { w := mvWord 9, g := [(1, 0), (2, 0x40000010), (4, 3)], seq := 7 }
    let k := mvCore { ent := e }
    Claims.Begins (unitState k) 0 0 (.res 0 5) k ctx5 e ∧ isMv 9 e.w = true ∧ targetOk (unitState k) ctx5 e.w 0x40000010 3 = true
      ∧ (cap e (iQC e.w)).toNat = 3 ∧ 0 + 4 * 3 ≤ shareSize ctx5 := by decide
theorem witness_atomicLineOp :
    let s := unitState (mvCore atomEnt)
    (mqOf (mvCore atomEnt) 0).ents.find? (fun e => (e.kind == .atom || e.kind == .red) && decide (e.row < e.rows)) = some atomEnt
      ∧ iAOP atomEnt.ent.w < 0xA ∧ atomEnt.dst % tgtBytes atomEnt.ent.w = 0 ∧ ctxDev ctx5 atomEnt.dst = some 0x10 ∧ isHbm 0x10 = true
      ∧ addrFailed s 0x10 = false ∧ addrWaits s 0x10 = false ∧ lineOf s 0 = none ∧ poisoned s 0 = false
      ∧ goesOn s (.res 0 5) (mvCore atomEnt) 0 atomEnt = true ∧ s.lines = [] := by decide

/-- Context 5 with a rick held in its unit store from 0x80000. -/
def rickBind : RickBind := { fold := true, handle := 0x700000, ctlOff := 0x1000, foldOff := 0x80000, foldBytes := 4096 }
def ctxR : Ctx := { ctx5 with rick := some rickBind }
def rickState (k : Core) (r : RickSt) : State := { unitState k with ctxs := [(5, ctxR)], res := [(5, { st := .running, core := k, rick := r })] }
def rickFrame : Frame := { bytes := 256, pushes := 1 }
theorem witness_rickPush :
    let e := mvEntry 1 0 0x700000000 128
    let k := mvCore { ent := e }
    Claims.Begins (rickState k {}) 0 0 (.res 0 5) k ctxR e ∧ isPush (.res 0 5) ctxR e = true ∧ lenOf e = 128 ∧ pushLenOk rickBind e = true
      ∧ pushRoom rickBind {} 128 = true ∧ endOk (rickState k {}) (.res 0 5) ctxR .share (·.r) 0 128 = true
      ∧ rawPoison (rickState k {}) (localAddr (rickState k {}) (.res 0 5) ctxR 0x1000) 64 = false
      ∧ pushRoom rickBind { frames := [{ sealed := true, fin := 9 }] } 128 = false := by decide
theorem witness_rickSeal :
    let e := mvEntry 1 0 0x700000000 0
    let k := mvCore { ent := e }
    let r : RickSt := { push := 256, frames := [rickFrame] }
    Claims.Begins (rickState k r) 0 0 (.res 0 5) k ctxR e ∧ isPush (.res 0 5) ctxR e = true ∧ lenOf e = 0 ∧ openFrame r = some rickFrame ∧ rickFrame.fin = 0
      ∧ pushesLeft k 0 = false ∧ (mqOf k 0).ents.find? (fun e => e.kind == .seal) = none ∧ ((mqOf k 0).ents.map (·.ent.seq)).Nodup := by decide
theorem witness_rickPop :
    let e := mvEntry 0 0x700000000 0 128
    let k := mvCore { ent := e }
    let f : Frame := { rickFrame with sealed := true, fin := 384, pop := 256 }
    let r : RickSt := { push := 384, frames := [f] }
    Claims.Begins (rickState k r) 0 0 (.res 0 5) k ctxR e ∧ isPop (.res 0 5) ctxR e = true ∧ popFrame r = some f ∧ 128 ≤ f.pop - f.base
      ∧ rickWaits (.res 0 5) ctxR rickBind {} e = true ∧ mvEntOf (rickState k {}) (.res 0 5) 0 7 = some { ent := e } := by decide
theorem witness_rickFrameFree :
    let f : Frame := { rickFrame with sealed := true, fin := 384, pop := 0 }
    Claims.At (rickState {} { push := 384, frames := [f] }) 0 (.res 0 5) {} ctxR ∧ f.pop = f.base ∧ f.busy = 0 ∧ f.fin ≠ 0 := by decide

/-! ### Stack engines, sampling units, the deadline monitor -/

/-- A stack-engine or sampler command whose descriptor lies at offset g1 of the share. -/
def sqEnt (cls op off : Nat) : QEnt := { w := word cls op (3 * 2 ^ 40 + 1 * 2 ^ 35), pc := 0x10000, g := [(1, BitVec.ofNat 64 off)], seq := 7 }
def sqCore (op off : Nat) : Core := { sq := [sqEnt 8 op off], live := [(7, 12)], pend := [(3, 7)] }
/-- `se.digest` of 128 bytes at context address a, the digest to 0x40001000. -/
def digestDesc (a : Nat) (ok : Bool) : List W64 :=
  [BitVec.ofNat 64 (6 * 2 ^ 56 + if ok then 0 else 1), BitVec.ofNat 64 a, 128, 0x40001000, 0, 0, 0, 0]
def digestState (ws : List W64) : State := shareWords (sqCore 6 0) ws
def sqReady (s : State) (k : Core) (op off : Nat) : Prop :=
  Claims.At s 0 (.res 0 5) k ctx5 ∧ issues s (.res 0 5) = true ∧ sqHead s 0 5 k = some (sqEnt 8 op off) ∧ iClass (sqEnt 8 op off).w = 8

theorem witness_sqExtent : ∀ off ∈ [0x10, 0x100000 - 32],
    sqReady (unitState (sqCore 6 off)) (sqCore 6 off) 6 off ∧ (off % 32 ≠ 0 ∨ shareSize ctx5 < off + 64) := by
  unfold sqReady; decide
theorem witness_sqPoison :
    let s := { digestState [] with poison := [usAddr 0 0] }
    Claims.At s 0 (.res 0 5) (sqCore 6 0) ctx5 ∧ sqHead s 0 5 (sqCore 6 0) = some (sqEnt 8 6 0) ∧ rawPoison s (shareAddr ctx5 0 0) 64 = true
      ∧ issues s (.res 0 5) = true := by decide
set_option maxRecDepth 20000 in
theorem witness_sqReserved :
    let s := digestState (digestDesc 0x40000000 false)
    let d := leWords 8 (memBytes s (shareAddr ctx5 0 0) 64)
    Claims.At s 0 (.res 0 5) (sqCore 6 0) ctx5 ∧ sqHead s 0 5 (sqCore 6 0) = some (sqEnt 8 6 0) ∧ rawPoison s (shareAddr ctx5 0 0) 64 = false
      ∧ d = digestDesc 0x40000000 false ∧ (parseSe 6 d).ok = false := by decide
set_option maxRecDepth 20000 in
theorem witness_sqExtentFault :
    let s := digestState (digestDesc 0x10000 true)
    let d := leWords 8 (memBytes s (shareAddr ctx5 0 0) 64)
    (parseSe 6 d).ok = true ∧ (parseSe 6 d).ops.any (fun o => touchesRick ctx5 o.a o.n) = false ∧ (parseSe 6 d).ops.all (opndOk s ctx5) = false := by decide
set_option maxRecDepth 20000 in
theorem witness_sqAccepts :
    let s := digestState (digestDesc 0x40000000 true)
    let d := leWords 8 (memBytes s (shareAddr ctx5 0 0) 64)
    let p := parseSe 6 d
    p.ok = true ∧ p.ops.any (fun o => touchesRick ctx5 o.a o.n) = false ∧ p.ops.all (opndOk s ctx5) = true
      ∧ (p.ops.head?.map (enginesOf ctx5 6)) = some [0] ∧ (placed 6 p.ops).all (opndOn ctx5 [0]) = true ∧ seWeights 6 = false
      ∧ conflictLines s (opRanges ctx5 p.ops (fun _ => true)) = []
      ∧ (seOf s 0).cmds.length = 0 ∧ opRanges ctx5 (keptOps 6 d [] p.ops) (fun o => o.w) = [(0x1000, 32)] ∧ heldBy s 0 5 (sqCore 6 0) ctx5 = none := by decide
/-- Stack 0's first MiB is a Live set's; the digest's destination lies in it. -/
def liveSet1 : SetSt := { st := .live, slot := some 0, stackSet := 1, sizes := [(0, 256)] }
set_option maxRecDepth 20000 in
theorem witness_sqHeld :
    let s := { digestState (digestDesc 0x40000000 true) with sets := [(1, liveSet1)] }
    liveSetMeets s [(0x1000, 32)] = some 1 ∧ heldBy s 0 5 (sqCore 6 0) ctx5 = some 1 ∧ (sqCore 6 0).sqHeld = false
      ∧ heldBy s 0 5 { sqCore 6 0 with sqHeld := true } ctx5 = some 1 := by decide

/-- A window of partition 0 holds a weight-writing command of another context. -/
theorem witness_sqWindow :
    let s := { shareWords (sqCore 5 0) [] with eval := [(0, { st := .opened, ctxs := [6] })] }
    sqHead s 0 5 (sqCore 5 0) = some (sqEnt 8 5 0) ∧ seWeights 5 = true ∧ evalWaits s ctx5.part 0 5 7 = true ∧ evalHolds s ctx5.part 5 = true := by decide
/-- Stack 0 holds one command of context 5. -/
def seCmdOf (op : Nat) (d : List W64) : SeCmd := { ctx := some 5, unit := 0, ent := sqEnt 8 op 0, op := op, desc := d, rd := [(0, 128)], wr := [(0x1000, 32)] }
def seState (m : SeCmd) (k : Core) : State := { unitState k with se := [(0, { cmds := [m] })] }
theorem witness_seStart :
    let m := seCmdOf 6 (digestDesc 0x40000000 true)
    (seOf (seState m {}) 0).cmds[0]? = some m ∧ mayStart (seOf (seState m {}) 0) 0 m = true ∧ m.done = false
      ∧ mayStart (seOf (seState { m with running := true } {}) 0) 0 { m with running := true } = false := by decide
theorem witness_seComplete :
    let m := { seCmdOf 6 (digestDesc 0x40000000 true) with running := true, done := true }
    let s := seState m (sqCore 6 0)
    (seOf s 0).cmds[0]? = some m ∧ m.done = true ∧ m.stream = false ∧ m.op ≠ 0 ∧ m.setEmit = false ∧ m.job = none ∧ m.ctx = some 5 ∧ live s 5 = true
      ∧ (resOf s m.unit 5).isSome = true ∧ conflictLines s m.wr = [] ∧ stackServes (seOf s 0) = true
      ∧ stackServes { seOf s 0 with held := true } = false
      ∧ conflictLines { s with lines := [(32, { dirty := true, data := zeros 128 })] } m.wr ≠ [] := by decide
theorem witness_seRunComplete :
    let m := { seCmdOf 0 [] with running := true, done := true }
    let s := seState m (sqCore 0 0)
    m.op = 0 ∧ instsLeft (seOf s 0) m = false ∧ sameRun (removeCmd s 0 0) m = false ∧ stackServes (seOf s 0) = true
      ∧ instsLeft { seOf s 0 with inst := [(1, { active := true, ctx := 5, unit := 0, seq := 7 })] } m = true := by decide
theorem witness_seKernels : ∀ op ∈ [1, 2, 3, 4, 5, 6, 7],
    let m := { seCmdOf op (digestDesc 0x40000000 true) with running := true }
    let s := seState m {}
    (seOf s 0).cmds[0]? = some m ∧ m.running = true ∧ m.done = false ∧ m.stream = false ∧ stackServes (seOf s 0) = true ∧ m.ctx = some 5
      ∧ ctxOf s 5 = some ctx5 ∧ m.op = op := by decide
theorem witness_seDigest :
    let d : List W64 := [BitVec.ofNat 64 (6 * 2 ^ 56 + 2 ^ 54), 0x40000000, 128, 0x40001000, 0x40002000, 0, 0, 0]
    let m := { seCmdOf 6 d with running := true }
    let s := seState m {}
    let g : Eng := { s := s, c := 5, x := ctx5, st := 0 }
    wf d 0 55 54 = 1 ∧ engOk g true (·.r) (addr d 1) (wd d 2).toNat = true ∧ touchesRick ctx5 (addr d 1) (wd d 2).toNat = false
      ∧ (devPieces ctx5 (addr d 1) (wd d 2).toNat).any (fun p => rawPoison s p.1 p.2) = false ∧ engOk g true (·.w) (addr d 3) 32 = true
      ∧ devPieces ctx5 (addr d 3) 32 = [(0x1000, 32)] ∧ rawPoison s 0x1000 32 = false ∧ engOk g true (·.r) (addr d 4) 32 = true
      ∧ devPieces ctx5 (addr d 4) 32 = [(0x2000, 32)] ∧ rawPoison s 0x2000 32 = false := by decide

/-- `se.run` of two instances with one share unit each, 256 bytes of code, a limit of 1 µs. -/
def runDesc : List W64 := [BitVec.ofNat 64 (2 * 2 ^ 52 + 1 * 2 ^ 48 + 1), BitVec.ofNat 64 (1 * 2 ^ 55 + 0x40000000), 0x40001000, 1, 2, 3, 4, 0]
theorem witness_seRun :
    let m := { seCmdOf 0 runDesc with running := true }
    let s := seState m {}
    (seOf s 0).cmds[0]? = some m ∧ m.running = true ∧ m.stream = false ∧ m.op = 0 ∧ m.ctx = some 5 ∧ ctxOf s 5 = some ctx5 ∧ m.done = false
      ∧ stackServes (seOf s 0) = true ∧ (parseSe 0 runDesc).ok = true
      ∧ (devPieces ctx5 (addr m.desc 1) (wf m.desc 1 63 55 * 256)).any (fun p => rawPoison s p.1 p.2) = false
      ∧ ((freePlaces (seOf s 0)).take (wf m.desc 0 55 52)) = [0, 1] := by decide
theorem witness_seRunLimit :
    let m := { seCmdOf 0 runDesc with running := true, done := true }
    let i : Inst := { active := true, ctx := 5, unit := 0, seq := 7, idx := 1 }
    let s : State := { unitState {} with se := [(0, { cmds := [m], inst := [(1, i)] })], time := { State.reset.time with now := 16000 } }
    m.done = true ∧ instMask (seOf s 0) m = 2 ∧ wf m.desc 0 31 0 = 1 ∧ (s.time.now - m.start).toNat = 1 * 16000 ∧ stackServes (seOf s 0) = true
      ∧ ((15999 : W64) - m.start).toNat < 1 * 16000 := by decide

/-- A sampler entry of one row at the queue's front; its row entry at device address 0, its logits (one token, FP32) at 0x200. -/
def smpDesc (op : Nat) : List W64 := [BitVec.ofNat 64 (op * 2 ^ 56 + 1), 1, 0x40000000, 0, 0, 0, 0, 0]
def smpCore (op off : Nat) : Core := mvCore { ent := sqEnt 10 op off }
set_option maxRecDepth 20000 in
theorem witness_saAccept : ∀ op ∈ [0, 1],
    let s := shareWords (smpCore op 0) (smpDesc op)
    let d := leWords 8 (memBytes s (shareAddr ctx5 0 0) 64)
    Claims.Begins s 0 0 (.res 0 5) (smpCore op 0) ctx5 (sqEnt 10 op 0) ∧ isSa op (sqEnt 10 op 0).w = true ∧ rawPoison s (shareAddr ctx5 0 0) 64 = false
      ∧ smpDescOk op d = true ∧ ctxOk s ctx5 (·.r) (addr d 2) (128 * wf d 0 12 0) = true ∧ (smpOf s 0).cmds.length < 8
      ∧ smpDescOk (1 - op) d = false ∧ ctxOk s ctx5 (·.r) 0x50000000 128 = false ∧ touchesRick ctx5 (addr d 2) (128 * wf d 0 12 0) = false := by decide
/-- A greedy row: TEMP 0, TOPP 1.0, REP 1.0, OUT 0x100. -/
def greedyRow : List W64 := [0, 0, 0x40000200, 0, 0, 0, 0, 0x3F800000, 0x3F800000, 0, 0x100, 0, 0, 0, 0, 0]
def smpCmd0 : SmpCmd := { unit := 0, ctx := 5, q := 0, ent := sqEnt 10 0 0, op := 0, desc := smpDesc 0 }
def smpState (ws : List W64) : State := { unitState {} with smp := [(0, { cmds := [smpCmd0] })], mem := memWords 0 ws }
set_option maxRecDepth 20000 in
theorem witness_smpRowBad :
    let s := smpState [0, 0xFFFF0000, 0x40000200, 0, 0, 0, 0, 0x3F800000, 0x3F800000, 0, 0x100]
    let ent := smpRead (s, false) ctx5 (addr smpCmd0.desc 2) 128
    (smpOf s 0).cmds = [smpCmd0] ∧ ctxOf s 5 = some ctx5 ∧ live s 5 = true ∧ ent.1.2 = false ∧ wf (leWords 16 ent.2) 10 22 0 = 0x100
      ∧ inShare ctx5 0x100 16 = true ∧ rawPoison s (shareAddr ctx5 0 0x100) 16 = false ∧ rowOk 0 1 0 (leWords 16 ent.2) = false := by decide
set_option maxRecDepth 20000 in
theorem witness_smpRowGreedy :
    let s := smpState greedyRow
    let ent := smpRead (s, false) ctx5 (addr smpCmd0.desc 2) 128
    leWords 16 ent.2 = greedyRow ∧ ent.1.2 = false ∧ rowOk 0 1 0 greedyRow = true ∧ (rowRanges 0 smpCmd0.desc greedyRow).all (fun p => ctxOk s ctx5 (·.r) p.1 p.2) = true
      ∧ rangesWait s ctx5 ((0x40000000, 128) :: rowRanges 0 smpCmd0.desc greedyRow) = false
      ∧ (rowRanges 0 smpCmd0.desc greedyRow).any (fun p => touchesRick ctx5 p.1 p.2) = false
      ∧ isGreedy greedyRow = true := by decide
set_option maxRecDepth 20000 in
theorem witness_smpRowPoison :
    let s := { smpState greedyRow with poison := [0] }
    (smpRead (s, false) ctx5 (addr smpCmd0.desc 2) 128).1.2 = true := by decide
theorem witness_dlm :
    let x : StreamSt := { st := .waiting, ttft := 5, itl := 1, margin := 2, tAdm := 0 }
    let s : State := { State.reset with streams := [(9, x)] }
    s.streams = [(9, x)] ∧ x.st = .waiting ∧ x.reports = 0 ∧ x.arm = false ∧ (80000 - s.time.now : W64).toNat < 2 ^ 63 ∧ (80000 - x.tAdm : W64).toNat / 16 = x.ttft * 1000
      ∧ (48000 - x.tAdm : W64).toNat / 16 = (x.ttft - x.margin) * 1000 ∧ (47999 - x.tAdm : W64).toNat / 16 < (x.ttft - x.margin) * 1000 ∧ s.dlmEn = true := by decide

/-! ### Host commands: contexts, ricks, evaluation windows, weight sets, adapters, streams -/

def blk (ws : List Nat) : List Byte := ws.flatMap (leBytes 8)
/-- A command with descriptor words from word 2 on, and its parameter block. -/
def cmdOf (opc : Nat) (ws : List W64) (block : List Nat) : HostCmd := { job := { opc := opc, tag := 3 }, ws := [0, 0] ++ ws, block := blk block }
/-- The command is the device's current one. -/
def atHost (s : State) (h : HostCmd) : State := { s with host := { s.host with cur := some h, modules := 3, link := 2 } }

theorem witness_hostNop : Claims.HostCur (atHost (unitState {}) (cmdOf 0 [] [])) 0x00 (cmdOf 0 [] []) := by decide
/-- The unit set {0} or {1} to partition 3, or to none. -/
def partCmd (none : Bool) (us : W64) : HostCmd := cmdOf 1 [if none then 2 ^ 6 else 3, 0, us, 0, 0, 0] []
theorem witness_partition : ∀ b ∈ [false, true],
    let s := atHost (unitState {}) (partCmd b 1)
    let t := atHost (unitState {}) (partCmd b 2)
    let p : Option Nat := if hf (partCmd b 1) 2 6 6 = 1 then none else some (hf (partCmd b 1) 2 5 0)
    Claims.HostCur s 1 (partCmd b 1) ∧ bit (wd (partCmd b 1).ws 4) 0 = true ∧ (unitOf s 0).part ≠ p ∧ residents s 0 ≠ []
      ∧ bit (wd (partCmd b 2).ws 4) 1 = true ∧ bit (wd (partCmd b 2).ws 4) 0 = false ∧ residents t 1 = [] := by decide
/-- A descriptor for context 6 of partition 0 on unit 0: 128 KiB of share at 1 MiB, 64 KiB of operand cache at 64 KiB, save area at 5 MiB
and one executable extent of the host window. -/
def ctxBlock (w0 : Nat) : List Nat :=
  [6 * 2 ^ 52 + w0, 0x10000, 16 * 2 ^ 57 + 2 * 2 ^ 49 + 1 * 2 ^ 45 + 1 * 2 ^ 40 + 1280 * 2 ^ 29, 0, 1, 0, 0, 0] ++ List.replicate 8 0
  ++ [1 * 2 ^ 60 + 2 ^ 59 + 2 ^ 57 + 0x10000, 256, 0x800004000000, 0] ++ List.replicate 252 0
set_option maxRecDepth 40000 in
theorem witness_ctxLoad :
    let s : State := { unitState {} with ctxs := [(5, { ctx5 with saveOff := 512 })] }
    firstFail (loadChecks s (blk (ctxBlock 0))) = none ∧ (ctxOfBlock (blk (ctxBlock 0))).units = [0] := by decide +kernel
set_option maxRecDepth 40000 in
theorem witness_ctxLoadReserved : firstFail (loadChecks (unitState {}) (blk (ctxBlock 1))) = some 1 := by decide +kernel
theorem witness_ctxCommands :
    let h (opc : Nat) (c : W64) := cmdOf opc [c] []
    let s := unitState {}
    Claims.HostCur (atHost s (h 3 6)) 3 (h 3 6) ∧ hf (h 3 6) 2 11 0 = 6 ∧ ctxOf s 6 = none ∧ live s 6 = false ∧ ctxOf s 5 = some ctx5 ∧ ctx5.stopped = false
      ∧ live s 5 = true ∧ (resOf s 0 5).map (·.st) = some .running ∧ (resOf readyState 0 5).map (·.st) = some .ready
      ∧ (resOf (unitState { wait := .halt }) 0 5).map (·.core.wait) = some .halt := by decide

def faultedCtx : Ctx := { ctx5 with faulted := true, fkind := 4, fpc := 0x10008, flun := 0 }
theorem witness_contextFault :
    let s : State := { unitState {} with ctxs := [(5, faultedCtx)] }
    ctxOf s 5 = some faultedCtx ∧ faultedCtx.faulted = true ∧ faultedCtx.faultEv = false ∧ faultedCtx.stopped = false ∧ (resOf s 0 5).isSome = true
      ∧ ctxOf s 4095 = none ∧ ctx5.faulted = false := by decide
theorem witness_scrubComplete :
    let x : Ctx := { faultedCtx with stopped := true, faultEv := true }
    let s : State := { unitState {} with ctxs := [(5, x)], res := [(5, { st := .faulted })] }
    x.stopped = true ∧ (x.faulted = false ∨ x.faultEv = true) ∧ enginesClear s 5 = true ∧ s.host.cacheEn = false ∧ (unitOf s 0).quar = .inService
      ∧ enginesClear { s with se := [(0, { cmds := [{ seCmdOf 1 [] with running := true }] })] } 5 = false := by decide

/-- A binding of a rick held in the unit store. -/
def rickBlock (en : Nat) (rest : Nat) : List Nat :=
  if en = 1 then [5 * 2 ^ 52 + 2 ^ 51 + 2 ^ 50 + rest, 0x700000 * 4096, 0, 0x1000, 0x80000, 0x10000, 0, 0] else [5 * 2 ^ 52 + rest, 0, 0, 0, 0, 0, 0, 0]
set_option maxRecDepth 20000 in
theorem witness_rick : ∀ en ∈ [0, 1],
    let s := unitState {}
    let d := blockWords (cmdOf 6 [] (rickBlock en 0))
    let e := blockWords (cmdOf 6 [] (rickBlock en 1))
    let checks (d : List W64) := (1, !(live s 5) || rickBusy s 5 ctx5) :: (if wf d 0 51 51 == 1 then rickBindChecks ctx5 d else rickFreeChecks d)
    wf d 0 63 52 = 5 ∧ wf d 0 51 51 = en ∧ firstFail (checks d) = none ∧ firstFail (checks e) = some 5 ∧ ctxOf s 6 = none := by decide
theorem witness_evalOpen :
    let h (c : W64) := cmdOf 7 [0, c] []
    let s := unitState { wait := .halt }
    let checks (h : HostCmd) (s : State) := [(1, (evalOf s 0).st != .closed), (2, (evalNames h).any (fun c => ctxPart s c != some 0)), (3, (evalNames h).any (fun c => !(haltedAll s c)))]
    Claims.HostCur (atHost s (h 5)) 7 (h 5) ∧ hf (h 5) 2 5 0 = 0 ∧ evalNames (h 5) = [5] ∧ firstFail (checks (h 5) s) = none ∧ firstFail (checks (h 6) s) = some 2
      ∧ firstFail (checks (h 5) (unitState {})) = some 3 := by decide
theorem witness_evalWindow :
    let s (st : EvalState) (k : Core) : State := { unitState k with eval := [(0, { st := st, ctxs := [5] })] }
    (evalOf (s .quiescing { wait := .halt }) 0).st = .quiescing ∧ writesLeft (s .quiescing { wait := .halt }) 0 = false ∧ (evalOf (s .opened {}) 0).st ≠ .quiescing
      ∧ writesLeft { s .quiescing {} with eval := [(0, { st := .quiescing })], se := [(0, { cmds := [seCmdOf 4 []] })] } 0 = true
      ∧ evalRuns (s .opened {}) 0 = some 5 ∧ evalRuns (s .opened { wait := .halt }) 0 = none ∧ (evalOf (unitState {}) 0).st = .closed := by decide

/-- A set of 4 KiB on stack 0 at offset 4096 with one shard. -/
def setBlock (w0 : Nat) : List Nat := [1 * 2 ^ 56 + 2 * 2 ^ 40 + w0, 4096, 1, 1, 0, 0, 0, 0, 1, 0] ++ List.replicate 46 0
set_option maxRecDepth 20000 in
theorem witness_setDefine :
    firstFail (setDefineChecks (unitState {}) (blockWords (cmdOf 0x10 [] (setBlock 0)))) = none
      ∧ firstFail (setDefineChecks (unitState {}) (blockWords (cmdOf 0x10 [] (setBlock 1)))) = some 1 := by decide
def setsState (sets : List (Nat × SetSt)) (slots : List (Nat × Nat)) : State := { unitState {} with sets := sets, slots := slots }
theorem witness_setRemove :
    let s := setsState [(1, { st := .filling })] []
    (setOf s 1).st = .filling ∧ loading s 1 = false ∧ loading { s with trust := { s.trust with loads := [{ set := 1 }] } } 1 = true
      ∧ (setOf (setsState [(1, { st := .live })] []) 1).st = .live ∧ (setOf s 2).st = .undefined := by decide
theorem witness_slotAdmit :
    let s := setsState [(1, liveSet1)] [(0, 1)]
    admitCheck s 0 5 0 = none ∧ liveIn s 0 = some 1 ∧ ctxOf s 5 = some ctx5 ∧ shareOff ctx5 + shareSize ctx5 ≤ 2 ^ 23 ∧ rawPoison s (shareAddr ctx5 0 0) 32 = false
      ∧ admitCheck s 1 5 0 = some 1 ∧ admitCheck s 0 6 0 = some 2 ∧ admitCheck s 0 5 0x100000 = some 3
      ∧ admitCheck (setsState [(1, { liveSet1 with inflight := 65535 })] [(0, 1)]) 0 5 0 = some 4 := by decide
theorem witness_slotSwitch :
    let s (n : Nat) := setsState [(1, { liveSet1 with inflight := n }), (2, { st := .complete, epoch := 3 })] [(0, 1)]
    switchCheck (s 0) 0 2 false = none ∧ switchCheck (s 2) 0 2 true = none ∧ liveIn (s 2) 0 = some 1 ∧ switchCheck (s 0) 0 1 false = some 1
      ∧ switchCheck (setsState [(1, { liveSet1 with epoch := 5 }), (2, { st := .complete, epoch := 3 })] [(0, 1)]) 0 2 false = some 3 := by decide
theorem witness_slotRelease :
    let h (n : W64) := cmdOf 0x14 [n * 2 ^ 16 + 1] []
    let s (st : SetState) := setsState [(1, { st := st, slot := some 0, inflight := 2 })] [(0, 1)]
    hf (h 2) 2 7 0 = 1 ∧ hf (h 0) 2 31 16 = 0 ∧ hf (h 2) 2 31 16 = (setOf (s .draining) 1).inflight ∧ (setOf (s .draining) 1).inflight < hf (h 3) 2 31 16
      ∧ hf (h 1) 2 31 16 ≠ (setOf (s .draining) 1).inflight ∧ (setOf (s .live) 1).st ≠ .draining := by decide
theorem witness_setReceive :
    let h (w : W64) (tags : W64) := cmdOf 0x15 [w + 7 * 2 ^ 8 + 1, tags * 2 ^ 32] []
    let s := setsState [(1, { st := .empty })] []
    let checks (h : HostCmd) (s : State) := [(0, !(within 1 4096 (hf h 3 44 32))), (1, !((setOf s 1).st == .empty || (setOf s 1).st == .complete)), (2, targeted s 1 || sending s 1),
          (3, hf h 2 24 24 == 1 && (match liveIn s (hf h 2 31 26) with
            | none => false
            | some o => !(newer (BitVec.ofNat 16 (hf h 2 23 8)) (setOf s o).epoch)))]
    hf (h (2 ^ 25) 1) 2 25 25 = 1 ∧ hf (h 0 4096) 2 25 25 = 0 ∧ firstFail (checks (h 0 4096) s) = none ∧ firstFail (checks (h 0 4097) s) = some 0
      ∧ firstFail (checks (h 0 1) (setsState [(1, { st := .live })] [])) = some 1 := by decide

/-- Generation 2 of adapter 1: 4 KiB on stack 0, BF16, rank 16. -/
def adpBlock : List Nat := [1 * 2 ^ 52 + 2 * 2 ^ 36 + 1 * 2 ^ 28, 0, 0, 0, 0, 0, 0, 0]
def gen2 (n : Nat) : AdpGen := { gen := 2, inflight := n, stackSet := 1, size := 1 }
def adpState (a : AdpSt) : State := { unitState {} with adp := [(1, a)] }
theorem witness_adpRemove :
    let h := cmdOf 0x19 [1 * 2 ^ 52] []
    Claims.HostCur (atHost (adpState {}) h) 0x19 h ∧ hf h 2 63 52 = 1 ∧ (adpOf (adpState {}) 1).cur = none ∧ (adpOf (adpState { cur := some (gen2 0) }) 1).cur = some (gen2 0)
      ∧ (adpOf (adpState { cur := some (gen2 0), ret := some { gen2 1 with gen := 1 } }) 1).ret ≠ none := by decide
theorem witness_adpAdmit :
    let h (c : W64) := cmdOf 0x1A [1 * 2 ^ 52 + c * 2 ^ 40] []
    let s (n : Nat) := adpState { cur := some (gen2 n) }
    let checks (h : HostCmd) (s : State) (g : AdpGen) := [(2, !(isLoaded s (hf h 2 51 40))), (3, !(recordOk s (hf h 2 51 40) (hf h 2 22 0))), (4, decide (65535 ≤ g.inflight))]
    firstFail (checks (h 5) (s 65534) (gen2 65534)) = none ∧ firstFail (checks (h 5) (s 65535) (gen2 65535)) = some 4 ∧ firstFail (checks (h 6) (s 0) (gen2 0)) = some 2 := by decide
theorem witness_adpRelease :
    let h (g n : W64) := cmdOf 0x1B [1 * 2 ^ 52 + g * 2 ^ 36 + n] []
    hf (h 2 0) 2 15 0 = 0 ∧ hf (h 2 3) 2 15 0 = 3 ∧ hf (h 2 3) 2 51 36 = 2 ∧ (gen2 3).gen = 2 ∧ (gen2 2).inflight < 3 ∧ 3 ≤ (gen2 3).inflight
      ∧ (adpOf (adpState { cur := some { gen2 1 with gen := 3 }, ret := some (gen2 3) }) 1).ret = some (gen2 3) ∧ (gen2 0).gen ≠ 3 := by decide
/-- Stream 4 of context 5: TTFT 5 µs, ITL 3 µs, MARGIN 2 µs, records at 0x40 and 0x80. -/
def strBlock (op m : Nat) : List Nat := [4 * 2 ^ 50 + op * 2 ^ 49 + 5 * 2 ^ 30, 5 * 2 ^ 32 + 3, m * 2 ^ 32 + 0x40, 0x80, 0, 0, 0, 0]
set_option maxRecDepth 20000 in
theorem witness_stream :
    let d (op m : Nat) := blockWords (cmdOf 0x1C [] (strBlock op m))
    strReserved (d 1 2) = false ∧ wf (d 0 2) 0 49 49 = 0 ∧ wf (d 1 2) 0 49 49 = 1 ∧ firstFail (strOpenChecks (unitState {}) (d 1 2)) = none
      ∧ firstFail (strOpenChecks (unitState {}) (d 1 3)) = some 5 ∧ strReserved (blockWords (cmdOf 0x1C [] [1, 0, 0, 0, 0, 0, 0, 0])) = true := by decide
theorem witness_adpDefine :
    let h (gen rank : W64) := cmdOf 0x18 [1 * 2 ^ 52 + gen * 2 ^ 36 + rank * 2 ^ 28 + 1, 0, 1, 0] []
    Claims.HostCur (atHost (adpState {}) (h 2 16)) 0x18 (h 2 16) ∧ firstFail (adpDefineChecks (adpState {}) (h 2 16)) = none
      ∧ firstFail (adpDefineChecks (adpState {}) (h 2 17)) = some 1 ∧ firstFail (adpDefineChecks (adpState { cur := some (gen2 0) }) (h 2 16)) = some 2
      ∧ firstFail (adpDefineChecks (adpState { cur := some { gen2 3 with offset := 2 ^ 20 } }) (h 3 16)) = none := by decide

/-! ### Digests of the host, shards, keys, reports, power, temperatures -/

theorem witness_seHost :
    let blk1 : List Nat := [6 * 2 ^ 56, 0, 128, 0x1000, 0, 0, 0, 0]
    let p := parseHostDigest (blockWords (cmdOf 0x22 [0] blk1))
    let q := parseHostDigest (blockWords (cmdOf 0x22 [0] [6 * 2 ^ 56, 64, 128, 0x1000, 0, 0, 0, 0]))
    p.ok = true ∧ p.ops.all (fun o => onOneStack 0 o.a o.n) = true ∧ q.ok = false ∧ opRanges hostView p.ops (fun o => o.w) = [(0x1000, 32)]
      ∧ (liveSetMeets (setsState [(1, liveSet1)] []) [(0x1000, 32)]).isSome = true ∧ (seOf { unitState {} with se := [(0, { failed := true })] } 0).failed = true := by decide
/-- One 4 KiB shard of set 1 on stack 0, from host memory at 0x800000000000 on, status byte at 0x800000002000. -/
def shardSet : SetSt := { st := .empty, stackSet := 1, nshard := 1, sizes := [(0, 1)] }
def loadBlock (mode : Nat) : List Nat := [1 * 2 ^ 56 + 3 * 2 ^ 40 + mode * 2 ^ 38, 1, 0x800000000000, 0, 0, 0x800000002000, 0, 0]
set_option maxRecDepth 20000 in
theorem witness_shardLoad : ∀ mode ∈ [0, 2],
    let h := cmdOf 0x30 [] (loadBlock mode)
    let s := setsState [(1, shardSet)] []
    let l := loadOf s h
    let t : State := { s with trust := { s.trust with loads := [{ set := 2 }, { set := 2 }, { set := 2 }, { set := 2 }] } }
    Claims.HostCur (atHost s h) 0x30 h ∧ l.mode = mode ∧ firstFail (shardLoadChecks s (blockWords h) l) = none
      ∧ firstFail (shardLoadChecks (unitState {}) (blockWords h) l) = some 2 ∧ firstFail (shardLoadChecks t (blockWords h) l) = none ∧ t.trust.loads.length = 4 := by decide
theorem witness_shardLoadComplete :
    let l : LoadSt := { set := 1, count := 1, src := 0x800000000000, stat := 0x800000002000, job := { nores := true } }
    let s0 := setsState [(1, { shardSet with st := .filling })] []
    let s : State := { s0 with trust := { s0.trust with loads := [l] }, host := { s0.host with cacheEn := true } }
    let p := spanOf s l.set l.first
    s.trust.loads[0]? = some l ∧ l.mode = 0 ∧ l.fdig = false ∧ l.stop = false ∧ isHost l.stat = true ∧ s.lines = [] ∧ p = (0, 4096) ∧ p.1 % 128 = 0 ∧ p.2 % 128 = 0
      ∧ isHbm (p.1 + p.2) = true ∧ stackOf (p.1 + p.2) = stackOf p.1 ∧ addrFailed s p.1 = false ∧ addrWaits s p.1 = false ∧ hostWin ≤ l.src ∧ s.poison = [] := by decide
def reloadBlock : List Nat := [1 * 2 ^ 56, 0, 0x800000000000, 0, 0, 0, 0, 0]
set_option maxRecDepth 20000 in
theorem witness_reloadShard :
    let h := cmdOf 0x38 [] reloadBlock
    let s (p : List Nat) (code : Nat) : State := { setsState [(1, { shardSet with shards := [(0, code)] })] [] with poison := p }
    let l := reloadOf (s [] 0) h
    Claims.HostCur (atHost (s [] 0) h) 0x38 h ∧ firstFail (reloadChecks (s [] 0) (blockWords h) l) = none ∧ poisonLines (s [] 0) (spanOf (s [] 0) l.set l.index) = []
      ∧ verifiedCode (shardCode (setOf (s [] 0) l.set) l.index) = true ∧ firstFail (reloadChecks (s [128] 0) (blockWords h) l) = none
      ∧ poisonLines (s [128] 0) (spanOf (s [128] 0) l.set l.index) = [128] ∧ verifiedCode (shardCode (setOf (s [] 3) l.set) l.index) = false
      ∧ firstFail (reloadChecks (unitState {}) (blockWords h) l) = some 2 := by decide
theorem witness_reloadComplete :
    let l : ReloadSt := { set := 1, index := 0, src := 0x800000000000, lines := [128], job := { nores := true } }
    let s0 := setsState [(1, { shardSet with shards := [(0, 3)] })] []
    let s : State := { s0 with trust := { s0.trust with reloads := [l] }, host := { s0.host with cacheEn := true } }
    let p := spanOf s l.set l.index
    s.trust.reloads[0]? = some l ∧ addrWaits s p.1 = false ∧ p = (0, 4096) ∧ l.stop = false ∧ l.mode = 0 ∧ s.lines = []
      ∧ (∀ a, a ∈ l.lines → a % 128 = 0 ∧ p.1 ≤ a ∧ a + 128 ≤ p.1 + p.2 ∧ isHbm a = true ∧ addrFailed s a = false) := by decide
/-- A plain reload passes where its source holds no poison. -/
theorem witness_reloadPasses :
    reloadPasses (unitState {}) { src := 0x800000000000 } 4096 = true
      ∧ reloadPasses { unitState {} with poison := [0x800000000000] } { src := 0x800000000000 } 128 = false := by decide
def keyBlock (w0 : Nat) : List Nat := [1 * 2 ^ 56 + 9 + w0] ++ List.replicate 209 0
set_option maxRecDepth 20000 in
theorem witness_keyDeliver : ∀ install ∈ [0, 1],
    let h := cmdOf 0x31 [] (keyBlock (install * 2 ^ 55))
    let s : State := { unitState {} with trust := { State.reset.trust with identOk := true } }
    let d := blockWords h
    let checks (s : State) := [(1, wf d 0 54 48 != 0 || !(zeroWords d [1, 2, 3, 4, 5, 6, 7])), (2, !s.trust.identOk),
        (3, wf d 0 47 32 != s.trust.kemGen.toNat % 2 ^ 16), (4, slotUsed s 1 || s.trust.keys.any (fun p => p.1 != 1 && p.2.keyId == 9))]
    wf d 0 63 56 = 1 ∧ wf d 0 31 0 = 9 ∧ wf d 0 55 55 = install ∧ firstFail (checks s) = none ∧ firstFail (checks (unitState {})) = some 2 := by decide
/-- Whether a key unwraps is the hardware's to say: either answer meets the premises of its clause. -/
theorem witness_unwrap (s : State) (b : List Byte) : unwrapKey s b 9 1 = none ∨ ∃ key, unwrapKey s b 9 1 = some key := by
  cases unwrapKey s b 9 1 <;> simp
theorem witness_attest :
    let h (out : W64) := cmdOf 0x32 [out, 0, 0, 0, 0, 0] []
    let s0 : State := { unitState {} with trust := { State.reset.trust with identOk := true } }
    let s : State := { s0 with host := { s0.host with cacheEn := true } }
    let checks (h : HostCmd) (s : State) (n : Nat) := [(0, hf h 2 47 0 % 64 != 0), (1, hf h 2 63 49 != 0 || wd h.ws 7 != 0), (2, !(inHost (hf h 2 47 0) n)), (3, !s.trust.identOk), (4, sigsLeft s == 0)]
    (hf (h 0x800000000000) 2 48 48 == 1) = false ∧ firstFail (checks (h 0x800000000000) s 7060) = none ∧ firstFail (checks (h 0x800000000020) s 7060) = some 0
      ∧ firstFail (checks (h 0x40) s 7060) = some 2 ∧ s.host.cacheEn = true ∧ s0.host.cacheEn = false := by decide

theorem witness_throttle :
    let h (w : W64) := cmdOf 0x3C [w, 0, 0, 0, 0, 0] []
    let s := unitState {}
    let checks (h : HostCmd) := [(1, hf h 2 63 10 != 0 || [3, 4, 5, 6, 7].any (fun i => wd h.ws i != 0)), (2, hf h 2 7 0 == 0), (3, (bitList 8 (hf h 2 7 0)).any (dieOutOf s))]
    firstFail (checks (h 0x201)) = none ∧ firstFail (checks (h 0)) = some 2 ∧ hf (h 0x201) 2 9 8 = 2 ∧ s.pwr.throttle = [] ∧ s.pwr.relock = [] ∧ s.pwr.islands = [] := by decide
theorem witness_relock :
    let s : State := { State.reset with pwr := { State.reset.pwr with islands := [2], throttle := [(1, {})], relock := [2] } }
    s.pwr.throttle = [(1, {})] ∧ s.pwr.relock = [2] ∧ 2 ∈ s.pwr.relock ∧ 3 ∉ s.pwr.relock := by decide
theorem witness_powerState :
    let h (w : W64) := cmdOf 0x3D [w, 0, 0, 0, 0, 0] []
    let s (st : PwrState) : State := { State.reset with pwr := { State.reset.pwr with st := st } }
    let checks (h : HostCmd) (s : State) := [(1, hf h 2 1 0 == 3 || hf h 2 63 2 != 0 || [3, 4, 5, 6, 7].any (fun i => wd h.ws i != 0)), (2, hf h 2 1 0 == 2 && standbyBlocked s), (3, s.pwr.job.isSome)]
    firstFail (checks (h 2) (s .active)) = none ∧ firstFail (checks (h 1) (s .standby)) = none ∧ firstFail (checks (h 3) (s .active)) = some 1
      ∧ firstFail (checks (h 2) (unitState {})) = some 2 ∧ hf (h 2) 2 1 0 = 2 ∧ (s .active).pwr.job = none := by decide
theorem witness_islands :
    let s : State := { readyState with pwr := { readyState.pwr with islands := [2], gated := [3] } }
    let stays (cl : Nat) : Bool := s.pwr.islands.contains cl || s.pwr.gated.contains (islandRegion cl) || !(powered s) || !s.pwr.refclk || dieOutOf s (islandDie cl)
    stays 63 = false ∧ stays 64 = false ∧ stays 2 = true ∧ stays 12 = true ∧ stays 67 = true ∧ islandUnits s 2 = [8, 9, 10, 11] ∧ (islandUnits s 2).all (fun u => !(needsClock s u)) = true
      ∧ 0 ∈ islandUnits (unitState {}) 0 ∧ needsClock (unitState {}) 0 = true ∧ needsClock s 0 = true ∧ (unitOf s 0).running = none
      ∧ dieOutOf s 1 = false ∧ dieOutOf { s with flt := { s.flt with dieOut := 2 } } 1 = true := by decide
theorem witness_gateSleep :
    let s : State := { unitState {} with pwr := { State.reset.pwr with gated := [3] } }
    s.pwr.st = .saving ∧ mayGate s 15 = true ∧ 15 ∉ s.pwr.gated ∧ mayGate s 0 = false ∧ 3 ∈ s.pwr.gated
      ∧ (s.pwr.st == .saving && (seOf s 23).cmds.isEmpty && (seOf s 23).copying.isNone && !(seOf s 23).failed) = true
      ∧ ((seOf (seState {} {}) 0).cmds.isEmpty) = false := by decide
/-- REF_THR 80, 90, 100 is in order, 95, 90, 100 is not; sensor 5 twice at 125 °C trips. -/
theorem witness_temperature :
    fld (0x645A50 : W64) 7 0 = 80 ∧ fld (0x645A50 : W64) 15 8 = 90 ∧ fld (0x645A50 : W64) 23 16 = 100 ∧ ¬ (fld (0x64505A : W64) 7 0 < fld (0x64505A : W64) 15 8)
      ∧ tripSensor { State.reset with pwr := { State.reset.pwr with sensors := List.replicate 160 125 } } [0, 0, 0, 0, 0, 125] = some 5
      ∧ tripSensor State.reset (List.replicate 160 125) = none ∧ State.reset.pwr.thermtrip = false := by decide

/-! ### Errors and repair -/

theorem witness_hbmError :
    isHbm 0x80 = true ∧ poisoned State.reset (0x80 / 128 * 128) = false ∧ isHbm 0x800000000000 = false ∧ poisoned { State.reset with poison := [0x80] } (0x80 / 128 * 128) = true
      ∧ stackServes (seOf State.reset 23) = true ∧ (seOf State.reset 23).scrubPos < 2 ^ 37 ∧ poisoned State.reset ((stackBase 23 + (seOf State.reset 23).scrubPos) / 128 * 128) = false
      ∧ stackServes (seOf { State.reset with se := [(23, { held := true })] } 23) = false := by decide
theorem witness_digestReverify :
    let r : Regn := { src := 0, len := 128, digest := [] }
    let s : State := { State.reset with se := [(0, { regns := [r], digestInt := 1 })] }
    (seOf s 0).regns[0]? = some r ∧ (seOf s 0).digestInt ≠ 0 ∧ stackServes (seOf s 0) = true ∧ rawPoison s r.src r.len = false := by decide
/-- A registration may hold the range's own digest, or one that is not: no digest is empty. -/
theorem witness_digestSame (s : State) :
    let r : Regn := { src := 0, len := 128, digest := sha256 (memBytes s 0 128) }
    sha256 (memBytes s r.src r.len) = r.digest := rfl
set_option maxRecDepth 20000 in
theorem witness_scErrors :
    let l : ScLine := { dirty := true, data := zeros 128 }
    let s : State := { State.reset with lines := [(0, l)], sc := [(homeRegion 0, { busy := true })] }
    dirtyAt s (homeRegion 0) [0] = [(0, l)] ∧ dirtyAt s (homeRegion 0) [128] = [] ∧ dirtyAt s (homeRegion 0) (setLines s 0) = [(0, l)]
      ∧ dirtyAt { s with lines := [] } (homeRegion 0) (setLines { s with lines := [] } 0) = [] ∧ mappedTo ctx5 0 = true ∧ (scOf s (homeRegion 0)).busy = true ∧ addrWaits s 0 = false ∧ Tbl.sorted s.lines = true
      ∧ (∀ p, p ∈ s.lines → p.2.data.length = 128) ∧ addrWaits { s with se := [(0, { held := true })] } (0 * 128) = true := by decide
set_option maxRecDepth 20000 in
/-- The one line stands in way 23, which becomes a drove way, and waits while its stack is held. -/
theorem witness_droveWays :
    let s : State := { State.reset with lines := [(0, { dirty := true, way := 23, data := zeros 128 })] }
    let t : State := { s with se := [(0, { held := true })] }
    waysOk (scOf s 0).wayRsv 1 = true ∧ homeRegion (0 * 128) = 0 ∧ 24 - 1 ≤ 23 ∧ stackWaits s (0 * 128) = false ∧ stackWaits t (0 * 128) = true ∧ Tbl.sorted s.lines = true
      ∧ (∀ p, p ∈ s.lines → p.2.data.length = 128) ∧ (∀ p, p ∈ s.lines → p.2.dirty = true ∧ p.2.way = 23) := by decide
theorem witness_wayRsv :
    waysOk (scOf State.reset 0).wayRsv 8 = true ∧ waysOk [(0, 0x1FFFFF)] 0 = false ∧ waysOk [(0, 0xFFFFF)] 0 = true ∧ waysOk [(0, 0x800000)] 1 = false
      ∧ Tbl.set 0 (scOf State.reset 0).wayRsv 63 (BitVec.ofNat 24 (fld 0 23 0)) = [] := by decide
theorem witness_usScrub :
    regionOf 255 ∉ State.reset.pwr.gated ∧ (∀ o, o ∈ [0, 0x7FFFE0] → o < 0x800000) ∧ (∀ o, o ∈ [0xFFFE0] → o < 0x100000)
      ∧ wordOwners (unitState {}) 0 [0] [] = [5] ∧ regionOf 0 ∈ ({ State.reset with pwr := { State.reset.pwr with gated := [0] } } : State).pwr.gated := by decide
def unitIn (q : QuarSt) : State := { unitState {} with units := [(0, { running := some 5, part := some 0, quar := q, epoch := 1 })] }
theorem witness_unitRepair :
    (unitOf (unitIn .inService) 0).en = true ∧ (unitOf (unitIn .inService) 0).quar = .inService ∧ (unitOf (unitIn .inService) 0).running = some 5
      ∧ (resOf (unitIn .inService) 0 5).isSome = true ∧ (unitOf (unitIn .substituting) 0).quar = .substituting ∧ State.reset.flt.down1 = false
      ∧ (unitOf (unitIn .retesting) 0).quar = .retesting ∧ (unitOf (unitIn .retesting) 0).epoch ≠ (unitOf (unitIn .retesting) 0).recEpoch ∧ residents (unitIn .retesting) 0 ≠ []
      ∧ (unitOf State.reset 0).epoch = (unitOf State.reset 0).recEpoch ∧ (unitOf (unitIn .quarantined) 0).quar ≠ .inService := by decide
set_option maxRecDepth 20000 in
theorem witness_spare : ∀ act ∈ [0, 1, 2],
    let h := cmdOf 0x39 [BitVec.ofNat 64 (act * 2 ^ 8), 0, 0, 0, 0, 0] []
    let s := unitIn .quarantined
    let t : State := { s with res := [] }
    Claims.HostCur (atHost s h) 0x39 h ∧ hf h 2 7 0 = 0 ∧ hf h 2 9 8 = act ∧ firstFail (spareChecks s h) = none ∧ firstFail (spareChecks t h) = none ∧ residents t 0 = []
      ∧ firstFail (spareChecks { s with trust := { s.trust with cfgA := { s.trust.cfgA with items := { disabled := [0] } } } } h) = some 2 := by decide
theorem witness_faults :
    (seOf State.reset 23).failed = false ∧ (seOf { State.reset with se := [(23, { failed := true })] } 23).failed = true ∧ State.reset.flt.dieOut.getLsbD 7 = false
      ∧ onStack ctx5 0 = true ∧ (0 : Nat) / 4 = 0 ∧ 0 ∈ ctx5.units ∧ State.reset.trust.supp.length < suppRoom
      ∧ dieOutOf { State.reset with flt := { State.reset.flt with dieOut := 1 } } (dieOf 0) = true
      ∧ (unitOf { unitState {} with units := [(0, { spareIn := true })] } 0).spareIn = true := by decide
theorem witness_hbmSpare :
    let s : State := { State.reset with flt := { State.reset.flt with arm := 0xF } }
    let t : State := { s with se := [(0, { rowSpares := [(hbmBank 0, 4)], pcSpares := [(0, 64), (1, 65)] })] }
    mayRepair s 0 = true ∧ s.flt.arm.getLsbD 1 = true ∧ Tbl.get 0 (seOf s 0).rowSpares (hbmBank 0) < 4 ∧ s.flt.arm.getLsbD 2 = true ∧ bankReserve (seOf s 0) = some 65
      ∧ Tbl.find? (seOf s 0).bankSpares (hbmBank 0) = none ∧ s.flt.arm.getLsbD 3 = true ∧ pcReserve (seOf s 0) = some 64 ∧ mayRepair t 0 = true ∧ pcReserve (seOf t 0) = none
      ∧ 4 ≤ Tbl.get 0 (seOf t 0).rowSpares (hbmBank 0) ∧ mayRepair s 0x800000000000 = false := by decide
theorem witness_steward :
    let s : State := { State.reset with flt := { State.reset.flt with resetAt := [(1, 0), (1, 0)], heldDown := [0], down0 := true } }
    recentResets s 1 = 2 ∧ recentResets s 0 = 0 ∧ s.flt.down1 = false ∧ s.flt.down0 = true ∧ 0 ∈ s.flt.heldDown ∧ 1 ∉ s.flt.heldDown := by decide

/-! ### Ports and their link words -/

def portState (x : PortSt) : State := { unitState {} with ports := [(3, x)] }
def upPort : PortSt := { st := .up, en := true, nbDev := 9, credits := [(0, 2)] }
def pkt0 : Pkt := { typ := 1, dst := 9, src := 0xFFFFF, a := 0x1000, data := zeros 64 }
theorem witness_portStates :
    (portOf (portState { st := .training }) 3).st = .training ∧ (portOf (portState { st := .training }) 3).secondLane = false
      ∧ (portOf (portState upPort) 3).st = .up ∧ (portOf (portState { st := .down }) 3).st = .down ∧ (portOf State.reset 11).st = .disabled
      ∧ (portOf (portState { st := .training, trainWarn := some 0 }) 3).trainWarn = some 0 ∧ ((159999999999 : W64) - 0).toNat < 160000000000
      ∧ (∀ t, t < 12 → 3 ∉ trunkPorts (portState upPort) t) := by decide
/-- Ports 3 and 4 form trunk 0; the neighbour of port 4 is device 8. -/
def trunkState : State :=
  { unitState {} with ports := [(3, { st := .training }), (4, { upPort with nbDev := 8 })], fab := { State.reset.fab with trunk := [(0, 0x18)] } }
theorem witness_trunkCheck :
    (trunkPorts trunkState 0).contains 3 = true ∧ (trunkPorts trunkState 0).any (fun q => q != 3 && isUp trunkState q && (portOf trunkState q).nbDev != 9) = true
      ∧ (trunkPorts trunkState 0).any (fun q => q != 3 && isUp trunkState q && (portOf trunkState q).nbDev != 8) = false := by decide
theorem witness_portCtl :
    bit (1 : W64) 0 = true ∧ bit (0 : W64) 0 = false ∧ State.reset.fab.devId = 0xFFFFF ∧ (portOf State.reset 3).st = .disabled
      ∧ ({ State.reset with fab := { State.reset.fab with devId := 1 } } : State).fab.devId ≠ 0xFFFFF ∧ (portOf (portState upPort) 3).st ≠ .disabled := by decide
theorem witness_laneFail :
    laneUsed upPort 7 = true ∧ laneUsed upPort 8 = false ∧ laneUsed { upPort with laneFail := 2, spareIn := true } 8 = true ∧ upPort.spareIn = false
      ∧ State.reset.flt.arm.getLsbD 4 = false ∧ (0x10 : BitVec 5).getLsbD 4 = true ∧ State.reset.flt.down1 = false := by decide
theorem witness_linkWords :
    let x : PortSt := { upPort with replayBuf := [{ pkt0 with lseq := 1 }, { pkt0 with lseq := 2 }], lseq := 3, replays := [(1, 15)] }
    (portOf (portState x) 3).st = .up ∧ x.txq = [] ∧ x.unacked = 0 ∧ x.replayBuf.filter (fun k => !(seqCovered 1 k.lseq)) = [{ pkt0 with lseq := 2 }]
      ∧ (x.replayBuf.filter (fun k => seqCovered k.lseq 1)).map (·.lseq) = [1, 2] ∧ Tbl.get 0 x.replays 1 = 15 ∧ ([1, 2] : List Nat).Nodup
      ∧ upPort.replayBuf.filter (fun k => seqCovered k.lseq 1) = [] ∧ (∀ r, r ∈ upPort.replays → r.2 < 15) ∧ x.rxBad = false := by decide
theorem witness_credit :
    let x : PortSt := { upPort with txq := [pkt0], credits := [] }
    x.txq = [pkt0] ∧ pktKey pkt0 = 0 * 2 + 0 ∧ Tbl.get 0 x.credits (0 * 2 + 0) = 0 ∧ listBytes x.replayBuf + pktBytes pkt0 ≤ 262144
      ∧ (3 : Nat) % 65536 ≠ ({ upPort with rxBad := true } : PortSt).rxSeq ∧ (0 : Nat) % 65536 = ({ upPort with rxBad := true } : PortSt).rxSeq := by decide
theorem witness_fabricRegs :
    (State.reset.ports.all (fun p => p.2.st == .disabled) && State.reset.ctxs.isEmpty) = true ∧ ((unitState {}).ports.all (fun p => p.2.st == .disabled) && (unitState {}).ctxs.isEmpty) = false
      ∧ lquiet State.reset = true ∧ lquiet { State.reset with fab := { State.reset.fab with unacked := [(4096, 8)] } } = false := by decide
/-- Window 0 over 4 KiB at 0x1000, admitting WRITE and FLAG from device 9. -/
def winState (ps : List Nat) : State :=
  { portState upPort with
    fab := { State.reset.fab with winA := [(0, 0xE000000000001000)], winS := [(0, 1)], winR := [(0, 9 * 2 ^ 20 + 9)], rtRange := [(0, 0x800008FFFFF00000)] }
    poison := ps }
theorem witness_rxWin :
    winLegal (winState []) 0x1000 4096 = true ∧ winLegal (setsState [(1, liveSet1)] []) 0x1000 4096 = false ∧ winLegal (winState []) 0x800000000000 4096 = false
      ∧ (winA 0x8000000000001000).getLsbD 63 = true := by decide

/-! ### Packets -/

/-- The header of the next packet on port 3: with ORD = 1, TSEQ 0 of its trunk. -/
def hdr3 (ord : Bool) : LinkHdr := { port := 3, ord := ord }
theorem witness_arrives : ∀ b ∈ [false, true], Claims.Arrives (winState []) (hdr3 b) ∧ linkOk (winState []) { hdr3 b with lseq := 1 } = false := by decide
theorem witness_requests :
    (∀ i, i < 64 → winAdmits (winState []) 62 8 i = false) ∧ winAdmits (winState []) 61 9 0 = true ∧ winRange (winState []) 0 = (0x1000, 0x1000)
      ∧ windowGuard (winState []) 0x1FF8 8 = true ∧ targetPoison (winState []) 0x1FF8 8 = false ∧ targetPoison (winState [0x1F80]) 0x1FF8 8 = true
      ∧ (addrWaits (winState []) 0x1FF8 || addrWaits (winState []) (0x1FF8 + 7)) = false ∧ admitted (winState []) 62 9 0x1000 64 = true ∧ admitted (winState []) 62 9 0x1FF8 16 = false
      ∧ targetPoison (winState [0x1000]) 0x1000 64 = true ∧ Claims.LinesWf (winState []) ∧ addrWaits { winState [] with se := [(0, { held := true })] } 0x1000 = true := by decide
/-- Its stack held, the window's state; packet r waits, or is held for TSEQ 0. -/
def waitState (held : Bool) (wait hold : List RxPkt) : State :=
  { winState [] with se := [(0, { held := held })], fab := { (winState []).fab with rxWait := wait, rxHold := hold } }
def rxPkt (t : Nat) : RxPkt := { c := .flagReceived { hdr3 true with tseq := t } 9 0x1000 5 1, hdr := { hdr3 true with tseq := t }, typ := 2, n := 8, src := 9, dst := 0xFFFFF, key := 19, ok := true }
theorem witness_packetOrder :
    linkOk (waitState true [] []) (hdr3 true) = true ∧ rxTrunk (waitState true [] []) 3 = 19 ∧ rxExpect (waitState true [] []) 19 = 0 ∧ (5 + 65536 - 0) % 65536 < 32768
      ∧ (addrWaits (waitState true [] []) 0x1000 || addrWaits (waitState true [] []) (0x1000 + 7)) = true ∧ rxBlocked (waitState true [rxPkt 0] []) (rxPkt 0).c = true
      ∧ rxBlocked (waitState false [rxPkt 0] []) (rxPkt 0).c = false ∧ (rxPkt 0).dst = (waitState true [] []).fab.devId ∧ isUp (waitState false [] []) 3 = true
      ∧ targetPoison (waitState false [] []) 0x1000 8 = false ∧ (rxPkt 1).key = rxTrunk (waitState true [] [rxPkt 1]) 3
      ∧ (rxPkt 1).hdr.tseq % 65536 = (rxExpect (waitState true [] [rxPkt 1]) 19 + 1) % 65536 := by decide
/-- Partition 2's turn gathers into set 1. -/
def turnState (t : TurnSt) : State := { portState upPort with sets := [(1, { st := .filling, stackSet := 1, sizes := [(0, 256)] })], turns := [(2, t)] }
def gather : TurnSt := { st := .gathering, tgtSet := 1, armSend := true }
theorem witness_reshard :
    setHolding (turnState gather) (0x1000, 64) = some 1 ∧ openTo (turnState gather) 9 1 = true ∧ addrWaits (turnState gather) 0x1000 = false
      ∧ (turnState gather).turns.find? (fun q => (q.2.st == .emitting || q.2.st == .gathering) && q.2.tgtSet == 1) = some (2, gather) ∧ turnOf (turnState gather) 2 = gather
      ∧ tagWhole gather.tags 5 = false ∧ tagWhole [(5, { whole := true })] 5 = true ∧ rawPoison (turnState gather) 0x1000 64 = false
      ∧ openTo (turnState { gather with st := .done }) 9 1 = false ∧ setHolding (turnState gather) (0x100000, 64) = none := by decide
/-- Queue 0 of context 5 owes its completion to tag 4096 at device 9. -/
def tagEnt (c : Bool) : MvEnt := { putEnt with kind := .remote, dev := 9, tag := 4096, cancel := c }
def tagState (c : Bool) : State :=
  { unitState (mvCore (tagEnt c)) with ports := [(3, upPort)], fab := { State.reset.fab with tags := [(4096, 5, 0, 7)], unacked := [(4096, 64)] } }
theorem witness_acks : ∀ c ∈ [false, true],
    tagEntry (tagState c) 9 4096 = some (.res 0 5, 0, tagEnt c) ∧ hartCore (tagState c) (.res 0 5) = some (mvCore (tagEnt c)) ∧ tagEntry (tagState c) 8 4096 = none
      ∧ (tagEnt c).kind = .remote ∧ linkOk (tagState c) (hdr3 true) = true := by decide
def planE (acked : Nat) : PlanEnt := { src := 0x1000, tag := 5, len := 4096, dst := 0x2000, dev := 9, sent := 4096, acked := acked, running := true }
theorem witness_planAcks :
    let t : TurnSt := { gather with plan := [planE 0] }
    let x : SendSt := { set := 1, plan := [planE 4095] }
    planOwner (turnState t) 9 5 = some (.turn 2) ∧ planOwner (turnState t) 8 5 = none ∧ unackedEnts (x.plan.map (ackEnt 9 5 1)) = [] ∧ unackedEnts (x.plan.map (ackEnt 8 5 1)) ≠ []
      ∧ (turnOf (turnState t) 2).plan.any (ackMatches 9 5) = true ∧ (turnState t).sends = [] := by decide
/-- Range 0 routes every device over port 3 and, with ORD, over trunk 0, which holds port 3. -/
def routeState : State := { winState [] with fab := { (winState []).fab with trunk := [(0, 8)], rtPath := [(0, 0)] } }
theorem witness_forwardArrives : ∀ b ∈ [false, true], Claims.Arrives routeState (hdr3 b) := by decide
theorem witness_routing :
    routeOf routeState 9 = some 0 ∧ routeOf State.reset 9 = none ∧ fld (pathWord routeState 0) 63 60 = 0 ∧ trunkPort routeState 0 { pkt0 with tseq := 0 } = some 3
      ∧ leastQueued routeState (pathPorts routeState 0) = some 3 ∧ leastQueued { routeState with ports := [] } (pathPorts { routeState with ports := [] } 0) = none
      ∧ (trunkPorts { routeState with ports := [] } 0).all (fun q => !(isUp { routeState with ports := [] } q)) = true ∧ routeState.fab.hopBudget = 16
      ∧ msPassed routeState none = true ∧ msPassed { routeState with time := { State.reset.time with now := 15999999 } } (some 0) = false ∧ (9 : Nat) ≠ routeState.fab.devId := by decide

/-! ### Turns, set-sends, droves -/

theorem witness_turnArm :
    let t : TurnSt := { tgtSet := 1, tgtEpoch := 3, rxExp := 1 }
    let s : State := { turnState t with sets := [(1, { st := .complete, stackSet := 1, sizes := [(0, 256)] })] }
    let v : W64 := 7
    v.getLsbD 4 = false ∧ v.getLsbD 5 = false ∧ v.getLsbD 0 = true ∧ (turnOf s 2).st = .idle ∧ (turnOf s 2).planN = 0 ∧ armCheck s 2 = none ∧ readPlan s (turnOf s 2) = some []
      ∧ armCheck (turnState t) 2 = some 1 ∧ (turnOf s 2).emitExp = 0 ∧ emitRunning s 2 = false
      ∧ armCheck { s with turns := [(2, { t with planN := 1, planAddr := 0 })], host := { s.host with cacheEn := true } } 2 = some 4 := by decide
theorem witness_turnEnds :
    let s : State := turnState { gather with tags := [(5, { whole := true })], rxExp := 1, armSwitch := true }
    let t := turnOf s 2
    t.st = .gathering ∧ ((!t.armSend || (unackedEnts t.plan).isEmpty) && wholeTags t == t.rxExp) = true ∧ setFailed (setOf s t.tgtSet) = false ∧ liveIn s t.tgtSlot = none ∧ s.slots = []
      ∧ setFailed ({ (setOf s t.tgtSet) with shards := [(0, 3)] } : SetSt) = true
      ∧ ((!gather.armSend || (unackedEnts [planE 0]).isEmpty) && wholeTags gather == gather.rxExp) = false ∧ (turnOf (turnState { gather with st := .held, cause := 2 }) 2).st = .held := by decide
/-- Set 1's plan runs at stack 0: its entry sends 4 KiB from 0x1000 to device 9. -/
def planState (e : PlanEnt) (ps : List Nat) : State := { turnState { gather with plan := [e] } with poison := ps }
def freshE : PlanEnt := { src := 0x1000, tag := 5, len := 4096, dst := 0x2000, dev := 9 }
theorem witness_planEntry :
    stackServes (seOf (planState freshE []) 0) = true ∧ nextEnt (planState freshE []) 0 = some (.turn 2, 0, freshE) ∧ planEntOk (planState freshE []) 1 freshE = true
      ∧ rawPoison (planState freshE []) 0x1000 4096 = false ∧ rawPoison (planState freshE [0x1000]) 0x1000 4096 = true
      ∧ nextEnt (planState { freshE with dev := 0xFFFFF } []) 0 = some (.turn 2, 0, { freshE with dev := 0xFFFFF }) ∧ planEntOk (planState freshE []) 1 { freshE with dev := 0xFFFFF } = false
      ∧ nextEnt { planState freshE [] with turns := [], sends := [{ set := 1, plan := [{ freshE with len := 0, rsvd := true }] }] } 0 = some (.send 0, 0, { freshE with len := 0, rsvd := true })
      ∧ nextEnt (planState (planE 0) []) 0 = none := by decide
theorem witness_planTimeout :
    let late (e : PlanEnt) : Bool := e.tag == 5 && e.running && decide (e.acked < e.len)
    (turnOf (planState (planE 0) []) 2).plan.any late = true ∧ (turnOf (planState (planE 4096) []) 2).plan.any late = false ∧ ([planE 4095]).any late = true ∧ 1 + 64 = 65 := by decide
theorem witness_setSend :
    let h := cmdOf 0x16 [4096 * 2 ^ 32 + 1] []
    let st := (setOf (setsState [(1, liveSet1)] []) 1).st
    Claims.HostCur (atHost (setsState [(1, liveSet1)] []) h) 0x16 h ∧ hf h 2 7 0 = 1 ∧ (st == .complete || st == .live || st == .draining) = true ∧ 1 ≤ hf h 2 44 32
      ∧ ((setOf State.reset 1).st == .complete || (setOf State.reset 1).st == .live || (setOf State.reset 1).st == .draining) = false := by decide
/-- Channel 1 from region 0 to region 0 of context 5: K = 4, two slots at 0x1000, control words at 0x2000, handle 0x700000. -/
def drvBlock (op : Nat) : List Nat := [1 * 2 ^ 58 + op * 2 ^ 57 + 1 * 2 ^ 34 + 1 * 2 ^ 20, 5 * 2 ^ 52 + 5 * 2 ^ 40, 0x700000 * 4096, 0x1000, 0x2000, 0, 0, 0]
set_option maxRecDepth 20000 in
theorem witness_droveOpen :
    let s : State := { unitState {} with sc := [(0, { droveWays := 1 })] }
    let d := blockWords (cmdOf 0x20 [] (drvBlock 1))
    let x := drvOfBlock ctx5 d
    firstFail (drvOpenChecks s d) = none ∧ x.rcvUnits = [0] ∧ x.ctlOff % 32 = 0 ∧ shareOff ctx5 + x.ctlOff + 16 ≤ 0x800000 ∧ rawPoison s (shareAddr ctx5 0 x.ctlOff) 16 = false
      ∧ firstFail (drvOpenChecks (unitState {}) d) = some 6 ∧ wf d 0 57 57 = 1 ∧ wf (blockWords (cmdOf 0x20 [] (drvBlock 0))) 0 57 57 = 0 := by decide
def drv1 : DrvSt := { st := .opened, log2slots := 1, tbuf := 1, sctx := 5, rctx := 5, handle := 0x700000, ringOff := 0x1000, ctlOff := 0x2000, rcvUnits := [0] }
def drvEntry (l : Nat) : DrvEnt := { rcv := 0, l := l, bytes := zeros 32 }
def drvState (x : DrvSt) (k : Core) : State := { unitState k with drv := [(1, x)] }
theorem witness_droveStates :
    let s := drvState drv1 {}
    drvOf s 1 = drv1 ∧ ctxGone s 5 = false ∧ ctxGone { s with ctxs := [(5, faultedCtx)] } 5 = true
      ∧ ({ drv1 with waits := [{ stalled := true }, {}] } : DrvSt).waits = [{ stalled := true }] ++ ({} : DrvWait) :: [] ∧ ({ stalled := true } : DrvWait).stalled = true
      ∧ ({ drv1 with transit := [drvEntry 0] } : DrvSt).transit ≠ [] := by decide
theorem witness_droveRelease :
    let s (v : W64) (ps : List Nat) : State := { drvState { drv1 with rcv := [(0, { fill := 2 })] } {} with mem := memWords (usAddr 0 0x2008) [v], poison := ps }
    let w := drvW drv1
    let a := shareAddr ctx5 0 (drv1.ctlOff + 8)
    let bad (v : Nat) := 2 ^ w ≤ v ∨ 2 ^ (w - 1) ≤ subMod w v 0 ∨ 2 ^ (w - 1) ≤ subMod w 2 v
    leNat (memBytes (s 2 []) a 8) = 2 ∧ ¬ bad 2 ∧ bad 3 ∧ rawPoison (s 2 []) a 8 = false ∧ rawPoison (s 2 [usAddr 0 0x2000]) a 8 = true ∧ ctx5.faulted = false ∧ 0 < drv1.rcvUnits.length := by decide
theorem witness_droveDeliver :
    let x : DrvSt := { drv1 with transit := [drvEntry 1] }
    let a := shareAddr ctx5 0 (x.ringOff + 1 % drvSlots x * drvE x)
    let c := shareAddr ctx5 0 x.ctlOff
    (drvEntry 1).bytes.length = drvE x ∧ rawPoison (drvState x {}) a 32 = false ∧ rawPoison (drvState x {}) c 8 = false ∧ isUs a = true ∧ isUs (c + 7) = true ∧ isUs (a + 32) = true
      ∧ a + 32 ≤ c ∧ (rcvOf x 0).ahead = [] ∧ (rcvOf x 0).fill ≠ 1 ∧ drvW x ≠ 0 := by decide
def sendCore (n : Nat) : Core := mvCore { ent := mvEntry 1 0 0x700000000 (BitVec.ofNat 64 n) }
theorem witness_droveSend :
    let s := drvState drv1 (sendCore 32)
    let e := mvEntry 1 0 0x700000000 32
    Claims.Begins s 0 0 (.res 0 5) (sendCore 32) ctx5 e ∧ issueEnt (mqOf (sendCore 32) 0) = none ∧ isSend s (.res 0 5) e = true ∧ isPush (.res 0 5) ctx5 e = false
      ∧ droveOf s 5 (cap e (iQB e.w)) = some 1 ∧ ¬ (regionOf (hartUnit s (.res 0 5)) ≠ drv1.sreg ∨ (32 : Nat) = 0 ∨ 32 % drvE drv1 ≠ 0) ∧ 33 % drvE drv1 ≠ 0 := by decide
def sendEnt : MvEnt := { ent := mvEntry 1 0 0x700000000 32, kind := .droveSend, sp := .share, rowBytes := 32, rows := 1, total := 32, elem := 1 }
theorem witness_droveSendEntry :
    let k := mvCore sendEnt
    let s := drvState drv1 k
    let bs := memBytes s (localAddr s (.res 0 5) ctx5 (sendEnt.src + sendEnt.row * sendEnt.rowBytes)) sendEnt.rowBytes
    Claims.At s 0 (.res 0 5) k ctx5 ∧ issues s (.res 0 5) = true ∧ issueEnt (mqOf k 0) = some sendEnt ∧ (mqOf k 0).cancel = none ∧ (drvOf s sendEnt.elem).st = .opened
      ∧ entryOk drv1.k bs = true ∧ drvPlace drv1 (leNat (bs.take 4)) = (0, 0) ∧ leaveOf drv1 0 0 = .go ∧ leaveOf drv1 0 2 = .wait ∧ leaveOf { drv1 with transit := [drvEntry 0] } 0 0 = .bad
      ∧ leaveOf { drv1 with rcv := [(0, { fill := 1 })] } 0 0 = .bad ∧ drv1.waits = [] ∧ hartUnit s (.res 0 5) = 0 := by decide

/-! ### Collectives -/

/-- `cl.reduce` (op 1) or `cl.bcast` (op 0) of one element on group 2: SRC, DST and record in stack 0. Root rank 0. -/
def collDesc (op atRoot : Nat) : List W64 :=
  [BitVec.ofNat 64 (op * 2 ^ 60 + 2 * 2 ^ 21), BitVec.ofNat 64 (7 * 2 ^ 32 + 1), 0, if op = 1 ∨ atRoot = 1 then 0x40000000 else 0,
   if op = 1 ∧ atRoot = 1 ∨ op = 0 ∧ atRoot = 0 then 0x40001000 else 0, 0, 0, 0x40002000]
/-- The root with one child (device 9, rank 1), or that child. -/
def rootGrp : GroupSt := { defined := true, ctx := 5, rank := 0, nmemb := 2, children := [(9, 1, 1)] }
def leafGrp : GroupSt := { defined := true, ctx := 5, rank := 1, nmemb := 2, hasp := true, parent := 8 }
def collCore (op : Nat) : Core := { cq := [sqEnt 11 op 0], live := [(7, 13)], pend := [(3, 7)] }
def collState (op : Nat) (d : List W64) (g : GroupSt) : State := { shareWords (collCore op) d with groups := [(2, g)], ports := [(3, upPort)] }
set_option maxRecDepth 20000 in
theorem witness_collLaunch : ∀ op ∈ [0, 1], ∀ g ∈ [rootGrp, leafGrp],
    let d := collDesc op (1 - g.rank)
    let s := collState op d g
    Claims.At s 0 (.res 0 5) (collCore op) ctx5 ∧ issues s (.res 0 5) = true ∧ cqHead s 0 5 (collCore op) = some (sqEnt 11 op 0) ∧ iClass (sqEnt 11 op 0).w = 0xB
      ∧ iOp (sqEnt 11 op 0).w = op ∧ (readDesc s (.res 0 5) ctx5 (sqEnt 11 op 0)).2 = some d ∧ wf d 0 30 21 = 2
      ∧ (collFieldsOk op d g.nmemb (g.rank == cRoot d) && collApart d (g.rank == cRoot d)) = true
      ∧ ((collRanges d (g.rank == cRoot d)).any (fun p => touchesRick ctx5 p.1 p.2)) = false ∧ collOpsOk s ctx5 d (g.rank == cRoot d) = true ∧ cSf d ≠ 0xE
      ∧ collFieldsOk (1 - op) d g.nmemb (g.rank == cRoot d) = false ∧ s.fab.hold = false ∧ g.opens = []
      ∧ (if g.rank = 0 then toward g (cRoot d) = none ∧ awayOf g (cRoot d) = [9] else toward g (cRoot d) = some 8 ∧ awayOf g (cRoot d) = []) := by decide
/-- A group of one, and a member between the root (8) and a child (9). -/
def aloneGrp : GroupSt := { defined := true, ctx := 5, rank := 0, nmemb := 1 }
def midGrp : GroupSt := { defined := true, ctx := 5, rank := 1, nmemb := 3, hasp := true, parent := 8, children := [(9, 2, 2)] }
theorem witness_collLaunchAlone :
    toward aloneGrp 0 = none ∧ neighbours aloneGrp = [] ∧ collFieldsOk 1 (collDesc 1 1) 1 true = true
      ∧ collOpsOk (collState 1 (collDesc 1 1) aloneGrp) ctx5 (collDesc 1 1) true = true ∧ cSeq (collDesc 1 0) = 7 ∧ toward midGrp 0 = some 8 ∧ awayOf midGrp 0 = [9]
      ∧ ({ leafGrp with opens := [(7, 1)] } : GroupSt).opens = [(cSeq (collDesc 1 0), 1)] := by decide
theorem witness_collOpsBad : collOpsOk (unitState {}) ctx5 ((collDesc 1 1).set 7 0x40) true = false ∧ collFieldsOk 1 ((collDesc 1 1).set 7 0x80) 2 true = true := by decide
/-- Group 2 with a collective in a phase. -/
def member (op : Nat) (g : GroupSt) (ph : CollPhase) : CollSt :=
  { phase := ph, unit := 0, ent := sqEnt 11 op 0, desc := collDesc op (1 - g.rank), seq := 7, opened := ph != .idle, rootSig := collSig (collDesc op (1 - g.rank)) }
def activeGrp (op : Nat) (g : GroupSt) (ph : CollPhase) : GroupSt := { g with active := some (member op g ph) }
theorem witness_collGets : ∀ op ∈ [0, 1], ∀ g ∈ [rootGrp, leafGrp], ∀ ph ∈ [CollPhase.launched, .joined, .going, .final],
    Claims.CollGets (collState op [] (activeGrp op g ph)) (hdr3 false) 2 (if g.rank = 0 then 9 else 8) 7 (activeGrp op g ph) (member op g ph) := by decide
theorem witness_collOpen :
    let s := collState 1 [] leafGrp
    Claims.Arrives s (hdr3 false) ∧ linkOk State.reset (hdr3 false) = false ∧ collWaits s 2 = false ∧ (leafGrp.defined && (neighbours leafGrp).contains 8) = true ∧ (leafGrp.defined && (neighbours leafGrp).contains 9) = false
      ∧ collActive leafGrp = false ∧ collActive (activeGrp 1 leafGrp .launched) = true ∧ leafGrp.tombs.contains 7 = false
      ∧ ({ leafGrp with tombs := [7] } : GroupSt).tombs.contains 7 = true ∧ awayOf leafGrp 0 = [] ∧ (∃ n, n ∈ awayOf midGrp 0 ∧ Tbl.find? (member 1 midGrp .launched).joins n = none)
      ∧ collWaits { collState 1 [] (activeGrp 1 leafGrp .launched) with se := [(0, { held := true })] } 2 = true
      ∧ Claims.Arrives { collState 1 [] (activeGrp 1 leafGrp .launched) with se := [(0, { held := true })] } (hdr3 false) := by decide
theorem witness_collJoin :
    let c := member 1 rootGrp .launched
    let j : JoinInfo := { same := 1, early := 1, late := 1, lateRank := 1, earlyRank := 1 }
    let all (c : CollSt) (x : GroupSt) (src : Nat) : Bool := c.phase == .launched && c.opened && (awayOf x (cRoot c.desc)).all (fun n => (Tbl.find? (Tbl.put c.joins src j) n).isSome)
    all c rootGrp 9 = true ∧ toward rootGrp (cRoot c.desc) = none ∧ ([j].foldl joinMerge (ownJoin rootGrp c)).diff = 0 ∧ ([j].foldl joinMerge (ownJoin rootGrp c)).same = rootGrp.nmemb ∧ ([{ j with same := 0 }].foldl joinMerge (ownJoin rootGrp c)).same ≠ rootGrp.nmemb
      ∧ ([{ j with diff := 1 }].foldl joinMerge (ownJoin rootGrp c)).diff ≠ 0 ∧ all (member 1 midGrp .launched) midGrp 9 = true ∧ toward midGrp 0 = some 8
      ∧ all (member 1 rootGrp .joined) rootGrp 9 = false ∧ (Tbl.find? [(9, j)] 9).isSome = true
      ∧ (∃ n, n ∈ awayOf midGrp 0 ∧ Tbl.find? (member 1 midGrp .launched).joins n = none) :=
  ⟨by decide, by decide, by decide, by decide, by decide, by decide, by decide, by decide, by decide, by decide, 9, by decide, by decide⟩
theorem witness_collData :
    let c := member 1 rootGrp .going
    let b := member 0 leafGrp .going
    cOp c.desc = 1 ∧ (awayOf rootGrp (cRoot c.desc)).contains 9 = true ∧ hasChunk c 9 0 = false ∧ 0 < chunkCount c.desc ∧ chunkCount c.desc ≤ 1 ∧ cSf c.desc ≠ 0xE ∧ hasTrailer c 9 = false
      ∧ cOp b.desc ≠ 1 ∧ toward leafGrp (cRoot b.desc) = some 8 ∧ 0 ∉ b.finished ∧ devPieces (collCtx (collState 0 [] (activeGrp 0 leafGrp .going)) 2) (addr b.desc 4 + 0 * 8192) (16 * 1) = [(0x1000, 16 * 1)]
      ∧ targetPoison (collState 0 [] (activeGrp 0 leafGrp .going)) 0x1000 16 = false ∧ Claims.LinesWf (collState 0 [] (activeGrp 0 leafGrp .going)) ∧ (chunkElems c.desc 0).head? = some 0
      ∧ 2 ^ 31 < Tbl.get 0 ({ c with counts := [(0, 2 ^ 31)] } : CollSt).counts 0 + 1 ∧ cSf [0xE00000000000000] = 0xE ∧ 0 ∈ ({ b with finished := [0] } : CollSt).finished := by decide
theorem witness_collTrailer :
    let c := member 1 rootGrp .going
    let i : CollIn := (c.ins.find? (fun y => y.src == 9)).getD { src := 9 }
    let b := { member 0 leafGrp .going with finished := [0] }
    let two : GroupSt := { rootGrp with nmemb := 3, children := [(9, 1, 1), (10, 2, 2)] }
    i.trailer = false ∧ i.hash = 0 ∧ i.chunks.length ≠ chunkCount c.desc ∧ chunkCount c.desc = 1 ∧ toward midGrp 0 = some 8 ∧ (10 ∈ awayOf two 0 ∧ (10 : Nat) ≠ 9 ∧ hasTrailer c 10 = false) ∧ b.finished.length = (cCount b.desc + 511) / 512
      ∧ awayOf leafGrp (cRoot b.desc) = [] ∧ b.outSum.toNat % 2 ^ 64 = (0 : BitVec 128).toNat % 2 ^ 64 ∧ b.outSum.toNat % 2 ^ 64 ≠ (1 : BitVec 128).toNat % 2 ^ 64 := by decide
theorem witness_collDone :
    let c := member 0 rootGrp .going
    let two : GroupSt := { rootGrp with nmemb := 3, children := [(9, 1, 1), (10, 2, 2)] }
    (cOp c.desc == 0 && (awayOf rootGrp (cRoot c.desc)).contains 9 && c.phase == .going) = true ∧ (∀ n, n ∈ awayOf rootGrp 0 → n = 9 ∨ n ∈ c.done) ∧ toward rootGrp 0 = none
      ∧ (10 ∈ awayOf two 0 ∧ 10 ∉ c.done) ∧ bcastWhole (member 0 midGrp .going) 8 = false ∧ toward midGrp 0 = some 8
      ∧ bcastWhole { member 0 midGrp .going with finished := [0], ins := [{ src := 8, trailer := true }] } 8 = true
      ∧ bcastSumOk { member 0 midGrp .going with finished := [0], ins := [{ src := 8, trailer := true }] } = true ∧ (cOp (member 1 rootGrp .going).desc == 0) = false := by decide
theorem witness_collTimeouts :
    let s (g : GroupSt) (op : Nat) (now : W64) : State := { collState op [] (activeGrp op g .launched) with time := { State.reset.time with now := now } }
    let due (g : GroupSt) (op : Nat) (now : W64) : Bool := let s1 := advance (s g op now) now
      let x := grpOf s1 2
      let c := collOf s1 2
      collActive x && !(collWaits s1 2) && decide (collTmo s1 c * 16000 + (if x.rank = 0 then 0 else s1.fab.hopBudget * 8000) ≤ (s1.time.now - c.launch).toNat)
    due rootGrp 1 16000000 = true ∧ due rootGrp 1 15999999 = false ∧ due leafGrp 1 16128000 = true ∧ due leafGrp 1 16127999 = false ∧ toward leafGrp 0 ≠ none := by decide
def grpBlock (w : Nat) : List Nat := [2 * 2 ^ 54 + w * 2 ^ 52 + 5 * 2 ^ 40 + 1, 1 * 2 ^ 32, 9 * 2 ^ 44 + 1 * 2 ^ 20 + 1] ++ List.replicate 13 0
set_option maxRecDepth 20000 in
theorem witness_group : ∀ w ∈ [0, 1, 2],
    let d := blockWords (cmdOf 0x21 [] (grpBlock w))
    wf d 0 63 54 = 2 ∧ wf d 0 52 52 = w % 2 ∧ wf d 0 53 53 = w / 2 ∧ firstFail (grpChecks (unitState {}) d) = none
      ∧ grpBits d = false ∧ grpBits (d.set 1 (2 ^ 36)) = true ∧ firstFail (grpChecks (collState 1 [] (activeGrp 1 rootGrp .going)) d) = some 2 ∧ collActive (grpOf (unitState {}) 2) = false := by decide

/-! ### The host interface -/

def ringState (x : RingSt) : State := let s := unitState {}
  { s with host := { s.host with rings := [(2, x)], cacheEn := true, modules := 15, link := 2 }, trust := { s.trust with phase := 5 } }
/-- Ring 2: descriptors at 0x800000100000, results at 0x800000200000, 16 slots. -/
def ring2 : RingSt := { base := 0x800000100000, resBase := 0x800000200000, en := true, tail := 1 }
theorem witness_ringRegs :
    ringBasesOk { ring2 with en := false } = true ∧ ringBasesOk { ring2 with base := 0 } = false ∧ (1 : W64).getLsbD 0 = true ∧ badDoorbell ring2 16 = false ∧ badDoorbell ring2 17 = true
      ∧ badDoorbell ring2 0 = true ∧ badHead 0 3 3 = false ∧ badHead 0 3 4 = true ∧ (ringOf (ringState ring2) 2).en = true ∧ (ringOf (ringState ring2) 3).en = false := by decide
/-- A ring whose next descriptor holds words ws. -/
def descState (ws : List W64) (ps : List Nat) : State := { ringState ring2 with mem := memWords 0x800000100000 ws, poison := ps }
set_option maxRecDepth 20000 in
theorem witness_descAccept :
    let nop : List W64 := [7, 0, 0, 0, 0, 0, 0, 0]
    let blkd : List W64 := [BitVec.ofNat 64 (0x22 * 2 ^ 56 + 7), 0x800000000000, 3, 0, 0, 0, 0, 0]
    acceptsCmds (descState nop []) = true ∧ nextRing (descState nop []) = some 2 ∧ nextDesc (descState nop []) ring2 = some nop ∧ descBad nop = false ∧ blockLen nop = none
      ∧ nextDesc (descState nop [0x800000100000]) ring2 = none ∧ nextRing (descState nop [0x800000100000]) = some 2 ∧ descBad (nop.set 2 1) = true
      ∧ nextDesc (descState blkd []) ring2 = some blkd ∧ descBad blkd = false ∧ blockLen blkd = some 64 ∧ inHost (wf blkd 1 47 0) 64 = true ∧ rawPoison (descState blkd []) 0x800000000000 64 = false
      ∧ inHost 0x1000 64 = false ∧ rawPoison (descState blkd [0x800000000000]) 0x800000000000 64 = true ∧ acceptsCmds (unitState {}) = false ∧ nextRing (ringState { ring2 with tail := 0 }) = none := by decide
theorem witness_resultStamp :
    let x : RingSt := { ring2 with done := [{ w0 := 3 }] }
    x.done = [{ w0 := 3 }] ∧ ((ringState x).host.cacheEn && decide (subMod 32 x.resSeq.toNat x.resHead.toNat < 2 ^ x.log2n)) = true
      ∧ decide (subMod 32 (16 : BitVec 32).toNat (0 : BitVec 32).toNat < 2 ^ x.log2n) = false := by decide
def evState (h : HostSt) (es : List Ev) : State := { unitState {} with host := h, evs := es }
def evHost : HostSt := { evqBase := 0x800000300000, evqEn := true, cacheEn := true, link := 2 }
theorem witness_events :
    let e : Ev := { code := 0x0901, cls := 2 }
    (evHost.evqEn && !evHost.lost.isEmpty && decide (evHost.critRsv < evqFree evHost)) = false ∧ (evHost.evqEn && classOpen evHost 2) = true ∧ (evState evHost [e]).evs = [e]
      ∧ (let h := { evHost with lost := [(1, 2)] }; (h.evqEn && !h.lost.isEmpty && decide (h.critRsv < evqFree h)) = true)
      ∧ classOpen { evHost with evqSeq := 240 } 2 = false ∧ classOpen { evHost with evqSeq := 240 } 3 = true ∧ classOpen { evHost with evqSeq := 239 } 2 = true
      ∧ classOpen { evHost with evqSeq := 256 } 3 = false ∧ evqFree { evHost with cacheEn := false, evqSeq := 255 } = 1 ∧ [e, e][1]? = some e ∧ [e, e][0]? = some e
      ∧ e.cls ≠ 3 ∧ (2 ≤ evHost.link ∧ ({} : RingSt).zeroPend = false ∧ ({} : TurnSt).armPend = false) := by decide
/-- Ring 2's stamps and an arm of partition 2 wait for host memory. -/
def waitingState : State :=
  { ringState { ring2 with zeroPend := true } with turns := [(2, { armPend := true })] }
theorem witness_hostBack :
    (ringOf waitingState 2).zeroPend = true ∧ (ringOf waitingState 3).zeroPend = false ∧ (turnOf waitingState 2).armPend = true ∧ (∀ z, z < 64 → z ≠ 2 → (turnOf waitingState z).armPend = false)
      ∧ 2 ≤ waitingState.host.link ∧ waitingState.host.evqZero = false ∧ (∀ p, p < 64 → (turnOf (ringState ring2) p).armPend = false) := by decide
theorem witness_evqRegs :
    inHost evHost.evqBase (2 ^ evHost.evqLog2n * 32) = true ∧ inHost 0 (2 ^ 8 * 32) = false ∧ (0 : W64).getLsbD 0 = false ∧ (1 : W64).getLsbD 0 = true
      ∧ (let h := { evHost with msixPend := [4], evqMod := 2, msixLast := [(4, 0)] }
         (decide (2 ≤ h.link) && h.msixPend.contains 4 && decide (h.evqMod * 16000 ≤ ((32000 : W64) - 0).toNat)) = true ∧ decide (h.evqMod * 16000 ≤ ((31999 : W64) - 0).toNat) = false) := by decide
theorem witness_hostLink :
    (2 ≤ evHost.link) ∧ State.reset.host.link < 2 ∧ 5 ≤ (ringState ring2).trust.phase ∧ State.reset.trust.phase < 5 ∧ (ringState ring2).host.modules.getLsbD 3 = true
      ∧ (∀ k, k ≠ 0 → (1 : BitVec 4).getLsbD k = false) := by
  refine ⟨by decide, by decide, by decide, by decide, by decide, fun k hk => ?_⟩
  rcases k with _ | _ | _ | _ | k <;> simp_all
/-- Ready with the port Up and the stacks and units powered. -/
def barState : State := { ringState ring2 with pwr := { State.reset.pwr with st := .active } }
theorem witness_barAccess :
    barAddr barState 0 0x230000 8 = some 0x600000230000 ∧ barAddr barState 2 0x1000 8 = some 0x1000 ∧ barAddr barState 1 0 8 = none ∧ barAddr barState 0 (2 ^ 28 - 7) 8 = none
      ∧ linkUp barState = true ∧ linkUp State.reset = false ∧ barState.trust.phase = 5 ∧ isReg 0x600000230000 = true ∧ backed barState 0x600000230000 8 = true
      ∧ served barState 0x600000230000 = true ∧ served State.reset 0x600000230000 = false ∧ backed barState 0x1000 8 = true ∧ isReg 0x1000 = false ∧ barWaits barState 0x1000 8 = false
      ∧ barWaits { barState with se := [(0, { selfRef := true })] } 0x1000 8 = true ∧ backed barState 0x800000000000 8 = false ∧ targetPoison barState 0x1000 8 = false
      ∧ targetPoison { barState with poison := [0x1000] } 0x1000 8 = true := by decide
theorem witness_regWrites :
    (ringOf (ringState ring2) 2).en = true ∧ (ringOf (ringState ring2) 15).en = false ∧ turnArmed (turnOf (turnState gather) 2) = true ∧ turnArmed (turnOf (turnState gather) 63) = false
      ∧ (256 : W64).toNat % 256 = 0 ∧ (255 : W64).toNat % 256 ≠ 0 ∧ evHost.evqEn = true ∧ State.reset.host.evqEn = false := by decide

/-! ### Start-up, supplies, time -/

theorem witness_boot :
    let t : TrustSt := State.reset.trust
    t.phase = 0 ∧ pickSlot (fwUsable t) t.fwA t.fwB = some false ∧ pickSlot (cfgUsable t) t.cfgA t.cfgB = some false
      ∧ fwUsable t { t.fwA with ok := false } = false ∧ fwUsable t t.fwB = false ∧ cfgUsable t { t.cfgA with serial := 1 } = false ∧ cfgUsable t t.cfgB = false
      ∧ fwUsable t { present := true, version := 1 } = true ∧ (1 : Nat) ≠ 0 ∧ (∀ u, u < 256 → (unitOf State.reset u).quar ≠ .quarantined) ∧ State.reset.pwr.thermtrip = false := by decide +kernel
/-- The key and the seed are the silicon's: either answer meets the premises of its clauses. -/
theorem witness_bootKeys (sram : List Byte) (t : TrustSt) :
    (Config.pufKey (sramBlock sram) (helperBytes t) = none ∨ ∃ k, Config.pufKey (sramBlock sram) (helperBytes t) = some k) ∧ ((unsealed t).isSome = true ∨ (unsealed t).isSome = false) := by
  cases Config.pufKey (sramBlock sram) (helperBytes t) <;> cases unsealed t <;> simp
theorem witness_record :
    (cfgIn { State.reset.trust with cfgA := { present := true, items := { disabled := [7], spares := [3] } } } false).items.disabled = [7] ∧ appliedEnts State.reset.trust = []
      ∧ goodSupp State.reset.trust [] State.reset.trust.supp = State.reset.trust.supp := by decide
theorem witness_suppChain (k : List Byte) (e : SuppEnt) : ∃ m, (m ≠ suppMac { State.reset.trust with kPuf := k } [] { e with mac := m }) :=
  ⟨0 :: suppMac { State.reset.trust with kPuf := k } [] e, fun h => by simpa [suppMac, entryBytes] using congrArg List.length h⟩
/-- Start-up in phase p, unit 3 quarantined or not. -/
def bootState (p : Nat) (q : Bool) (l : List Nat) : State :=
  { State.reset with trust := { State.reset.trust with phase := p, retest := l }, units := if q then [(3, { quar := .quarantined })] else [] }
theorem witness_powering :
    (bootState 2 false []).trust.phase = 2 ∧ dieOutOf (bootState 2 false []) 7 = false ∧ (∀ z, z < 256 → (unitOf (bootState 4 false []) z).quar ≠ .quarantined)
      ∧ (spareFree (bootState 4 false []) 5 && !(unitOf (bootState 4 false []) 5).spareIn) = true
      ∧ (let s := { bootState 4 false [] with units := [(5, { spareIn := true })] }; (spareFree s 5 && !(unitOf s 5).spareIn) = false ∧ ∀ z, z < 256 → (unitOf s z).quar ≠ .quarantined)
      ∧ (unitOf (bootState 4 true [3]) 3).quar = .quarantined ∧ (bootState 4 true [3]).trust.retest = [3] ∧ booted (bootState 2 false []).trust = true ∧ booted State.reset.trust = false := by decide +kernel
theorem witness_staging :
    let t : TrustSt := { State.reset.trust with fwBusy := true, stageAddr := 0x800000000000, stageLen := 64 }
    t.fwBusy = true ∧ inHost t.stageAddr t.stageLen = true ∧ inHost 0 t.stageLen = false ∧ rawPoison State.reset t.stageAddr t.stageLen = false
      ∧ rawPoison { State.reset with poison := [0x800000000000] } t.stageAddr t.stageLen = true ∧ State.reset.trust.fwBusy = false := by decide
/-- Whether an object verifies is the hardware's to say: either answer meets the premises of its clauses. -/
theorem witness_objVerifies (cfg : Bool) (bs : List Byte) : objVerifies cfg bs = false ∨ objVerifies cfg bs = true := by cases objVerifies cfg bs <;> simp
theorem witness_supplies : State.reset.pwr.v12 = true ∧ State.reset.pwr.refclk = true ∧ ({ State.reset.pwr with v12 := false, refclk := false } : PwrSt).v12 = false := by decide
theorem witness_timeSet :
    let s (c : List (Nat × Ctx)) : State := { State.reset with ctxs := c, time := { State.reset.time with root := true, now := 100 } }
    (s []).time.root = true ∧ (s []).ctxs = [] ∧ (s [(5, ctx5)]).ctxs ≠ [] ∧ State.reset.time.root = false
      ∧ ¬ ((101 : W64) = (s []).time.now ∨ 2 ^ 63 ≤ ((101 : W64) - (s []).time.now).toNat) ∧ 2 ^ 63 ≤ ((99 : W64) - (s []).time.now).toNat := by decide
/-- A follower whose upstream is port 3, acquiring. -/
def follower (d : Disc) (g : Nat) : State := { portState upPort with time := { State.reset.time with upPorts := 8, upPort := some 3, disc := d, good := g } }
theorem witness_timing :
    (∀ q, q < 12 → (follower .acquiring 99).time.upPorts.getLsbD q = true → q = 3) ∧ (follower .acquiring 99).time.upPorts.getLsbD 3 = true ∧ (follower .acquiring 99).time.upPort = some 3
      ∧ (portOf (follower .acquiring 99) 3).st = .up ∧ (portOf (follower .acquiring 99) 3).offs = [] ∧ 100 ≤ (follower .acquiring 99).time.good + 1 ∧ (follower .acquiring 98).time.good + 1 < 100
      ∧ (serialDiff 64 0 - serialDiff 0 64) / 2 = 64 ∧ (serialDiff 65 0 - serialDiff 0 65) / 2 = 65 ∧ (serialDiff 0 16001 - serialDiff 16001 0) / 2 = -16001 ∧ (serialDiff 0 65 - serialDiff 65 0) / 2 = -65
      ∧ ({ follower .locked 0 with ctxs := [] } : State).ctxs = [] := by decide
theorem witness_pulses :
    let r (src : Nat) (d : Disc) : State := { State.reset with time := { State.reset.time with root := true, src := src, disc := d } }
    ((r 1 .free).time.root && ((r 1 .free).time.src == 1)) = true ∧ secondOffs 16001 = 16001 ∧ secondOffs (16000000000 - 16001) = -16001 ∧ secondOffs (16000000000 - 16000) = -16000
      ∧ ((r 2 .holdover).time.src == 2 && (r 2 .holdover).time.disc == .holdover) = true ∧ lostSource (r 1 .locked) 1 = true ∧ lostSource (r 1 .locked) 2 = false ∧ lostSource State.reset 0 = true
      ∧ (0xC000000000000000 : W64).toNat = 0xC000000000000000 ∧ State.reset.time.approach = false := by decide

/-! ### Memory -/

theorem witness_memory :
    Memory.wf (putBytes [] 8 [1, 0, 2]) = true ∧ Memory.wf State.reset.mem = true ∧ Memory.wf [(8, 0)] = false ∧ Memory.wf [(9, 1), (8, 1)] = false
      ∧ (∀ i, i < 4 → granSize (0x40 + i) = granSize 0x40) ∧ rawPoison State.reset 0x40 4 = false ∧ 0x40 % granSize 0x40 + 4 < granSize 0x40
      ∧ poisoned { State.reset with poison := [0] } 0x40 = true ∧ 0x80 % granSize 0x80 = 0 ∧ addrFailed State.reset 0x80 = false ∧ (0x80 : Nat) + 4 ≤ hbmEnd
      ∧ targetPoison State.reset 0x80 4 = false ∧ State.reset.lines = [] := by decide
theorem witness_lines :
    Claims.LinesWf State.reset ∧ Claims.LinesWf { State.reset with lines := [(1, { data := zeros 128 })] } ∧ (∃ t, step State.reset = .next t) ∧ Claims.Coherent State.reset 5 :=
  ⟨by decide, ⟨by decide, fun p hp => by simp_all [zeros]⟩, ⟨_, rfl⟩, fun p hp => by cases hp⟩
theorem witness_stepKeepsMemory : ∃ t, Memory.wf (unitState {}).mem = true ∧ step (unitState {}) = .next t := ⟨_, by decide, rfl⟩

end Sys2Proof.Tests
end

section
/-!
PROOFS. Instruction fetch (R185, R228, R334): the laws of the extent lookup and of the decoder, what each outcome of a fetch does, and O3.
-/

namespace Sys2Proof.Machine

open Sys2Proof

/-! ## The extent lookup (R205, R206) -/

theorem extHas_iff (e : Extent) (a : Nat) :
    extHas e a = true ↔ e.kind ≠ 0 ∧ e.cbase ≤ a ∧ a < extEnd e := by
  simp [extHas, and_assoc]

theorem findExt_some {x : Ctx} {a : Nat} {e : Extent} (hf : findExt x a = some e) :
    e ∈ x.extents ∧ e.cbase ≤ a ∧ a < e.cbase + e.size * 4096 := by
  have hhas : extHas e a = true := List.find?_some (p := fun e => extHas e a) hf
  exact ⟨List.mem_of_find?_eq_some hf, ((extHas_iff e a).mp hhas).2⟩

/-! ## The decoder (R228, in its order) -/

theorem decodeWord_reserved_class {w : W64} (hc : 0xD ≤ iClass w) (p prog : Bool) : decodeWord p prog w = .illegal := by
  simp [decodeWord, hc]

theorem decodeWord_skip {w : W64} {p : Bool} (hc : iClass w < 0xD) (hp : p = iNeg w) (prog : Bool) : decodeWord p prog w = .skip := by
  simp [decodeWord, Nat.not_le.mpr hc, hp]

theorem decodeWord_not_allowed {w : W64} {p prog : Bool} (hc : iClass w < 0xD) (hp : p ≠ iNeg w)
    (hbad : wordOk w = false ∨ (prog = true ∧ progOk w = false)) : decodeWord p prog w = .illegal := by
  rcases hbad with hword | ⟨hprog, hallowed⟩
  · simp [decodeWord, Nat.not_le.mpr hc, hp, hword]
  · simp [decodeWord, Nat.not_le.mpr hc, hp, hprog, hallowed]

theorem decodeWord_go {w : W64} {p prog : Bool} (hc : iClass w < 0xD) (hp : p ≠ iNeg w) (hword : wordOk w = true)
    (hallowed : prog = true → progOk w = true) : decodeWord p prog w = .go := by
  cases prog with
  | false => simp [decodeWord, Nat.not_le.mpr hc, hp, hword]
  | true => simp [decodeWord, Nat.not_le.mpr hc, hp, hword, hallowed rfl]

section DecodeInto
variable {s : State} {t : Hart} {k : Core} {w : W64}

theorem decodeInto_illegal (hd : decodeWord (pGet k (iPred w)) (isInst t) w = .illegal) :
    decodeInto s t k w = faultAt s t fIllegal k.pc := by
  simp [decodeInto, hd]

theorem decodeInto_skip (hd : decodeWord (pGet k (iPred w)) (isInst t) w = .skip) :
    decodeInto s t k w = setHartCore s t (retire k) := by
  simp [decodeInto, hd]

theorem decodeInto_go (hd : decodeWord (pGet k (iPred w)) (isInst t) w = .go) :
    decodeInto s t k w = setHartCore s t { k with ir := some w } := by
  simp [decodeInto, hd]

end DecodeInto

/-! ## What a fetch finds (R185) -/

section FetchAt
variable {s : State} {u c : Nat} {k : Core} {x : Ctx}

/-- A fetch on a unit is denied, or an extent that grants X holds PC. -/
theorem fetchAt_res_denied_or_granted (s : State) (u c : Nat) (k : Core) (x : Ctx) :
    fetchAt s (.res u c) k x = .denied ∨ ∃ e, findExt x k.pc.toNat = some e ∧ e.x = true := by
  cases hf : findExt x k.pc.toNat with
  | none => exact .inl (by simp [fetchAt, hf])
  | some e =>
    cases hx : e.x with
    | false => exact .inl (by simp [fetchAt, hf, hx])
    | true => exact .inr ⟨e, rfl, hx⟩

theorem fetchAt_res_word {w : W64} (hw : fetchAt s (.res u c) k x = .word w) :
    ∃ e, e ∈ x.extents ∧ e.x = true ∧ e.cbase ≤ k.pc.toNat ∧ k.pc.toNat < e.cbase + e.size * 4096 := by
  rcases fetchAt_res_denied_or_granted s u c k x with hden | ⟨e, hf, hx⟩
  · simp [hden] at hw
  · obtain ⟨hmem, hlo, hhi⟩ := findExt_some hf
    exact ⟨e, hmem, hx, hlo, hhi⟩

theorem fetchAt_res_denied
    (hno : ∀ e ∈ x.extents, e.cbase ≤ k.pc.toNat → k.pc.toNat < e.cbase + e.size * 4096 → e.x = false) :
    fetchAt s (.res u c) k x = .denied := by
  rcases fetchAt_res_denied_or_granted s u c k x with hden | ⟨e, hf, hx⟩
  · exact hden
  · obtain ⟨hmem, hlo, hhi⟩ := findExt_some hf
    simp [hno e hmem hlo hhi] at hx

end FetchAt

/-! ## The row INSTRUCTION_FETCH -/

theorem canFetch_iff (k : Core) : canFetch k = true ↔ k.wait = .none ∧ k.ir = none ∧ k.miss = none := by
  simp [canFetch, and_assoc]

theorem exec_instructionFetch (h : Nat) (s : State) : exec (.instructionFetch h) s = .next (doFetch s h) := rfl

section Fetch
variable {s : State} {h : Nat} {t : Hart} {k : Core} {x : Ctx}

theorem exec_instructionFetch_denied (hr : Claims.Runs s h t k x) (hcan : canFetch k = true) (hf : fetchAt s t k x = .denied) :
    exec (.instructionFetch h) s = .next (faultAt s t fExtent k.pc) := by
  simp [exec_instructionFetch, doFetch, withRun_at hr, hcan, hf]

theorem exec_instructionFetch_miss {l : Nat} (hr : Claims.Runs s h t k x) (hcan : canFetch k = true)
    (hf : fetchAt s t k x = .miss l) :
    exec (.instructionFetch h) s = .next (setHartCore s t { k with miss := some l }) := by
  simp [exec_instructionFetch, doFetch, withRun_at hr, hcan, hf]

theorem exec_instructionFetch_word {w : W64} (hr : Claims.Runs s h t k x) (hcan : canFetch k = true)
    (hf : fetchAt s t k x = .word w) : exec (.instructionFetch h) s = .next (decodeInto s t k w) := by
  simp [exec_instructionFetch, doFetch, withRun_at hr, hcan, hf]

end Fetch

theorem instructionFetchOutcomes : Claims.InstructionFetchOutcomes := by
  intro s h t k x hr hwait hir hmiss
  have hcan : canFetch k = true := (canFetch_iff k).mpr ⟨hwait, hir, hmiss⟩
  refine ⟨exec_instructionFetch_denied hr hcan, fun l => exec_instructionFetch_miss hr hcan, fun w hw => ?_⟩
  rw [exec_instructionFetch_word hr hcan hw]
  refine ⟨fun hc => ?_, fun hc hp => ?_, fun hc hp hbad => ?_, fun hc hp hword hallowed => ?_⟩
  · rw [decodeInto_illegal (decodeWord_reserved_class hc _ _)]
  · rw [decodeInto_skip (decodeWord_skip hc hp _)]
  · rw [decodeInto_illegal (decodeWord_not_allowed hc hp hbad)]
  · rw [decodeInto_go (decodeWord_go hc hp hword hallowed)]

theorem fetchNeedsXPermission : Claims.FetchNeedsXPermission :=
  fun _ _ _ _ _ => ⟨fun _ => fetchAt_res_word, fetchAt_res_denied⟩

/-- Settles O3: the outcomes of the row by what the fetch finds, and the extent that a word is found through. -/
theorem instructionFetch : Obligations.InstructionFetch := ⟨instructionFetchOutcomes, fetchNeedsXPermission⟩

end Sys2Proof.Machine
end

section
/-!
PROOFS. The scalar classes 0x0 and 0x1 (R183, R236 to R238, Tables 6.4 and 6.5): the hardwired registers, what the counts and the
predicate moves compute, the bits a word may set, what each row leaves of an instruction that issues, and O5 and O6.
-/

namespace Sys2Proof.Machine

open Sys2Proof

/-! ## Registers: reads after writes (R183) -/

section Registers
variable (k : Core)

@[simp] theorem gGet_zero : gGet k 0 = 0 := rfl
@[simp] theorem gSet_zero (v : W64) : gSet k 0 v = k := rfl
@[simp] theorem pGet_zero : pGet k 0 = true := rfl
@[simp] theorem pSet_zero (b : Bool) : pSet k 0 b = k := rfl

theorem gGet_gSet_same {r : Nat} (hr : r ≠ 0) (v : W64) : gGet (gSet k r v) r = v := by
  simp [gGet, gSet, hr, Tbl.get_set_same]

theorem gGet_gSet_other {r q : Nat} (hrq : r ≠ q) (v : W64) : gGet (gSet k r v) q = gGet k q := by
  by_cases hr : r = 0
  · simp [hr]
  · simp [gGet, gSet, hr, Tbl.get_set_other _ _ _ _ _ hrq.symm]

theorem pGet_of_ne_zero {q : Nat} (hq : q ≠ 0) : pGet k q = k.p.getLsbD q := by
  simp [pGet, hq]

theorem getLsbD_pMask (p : Nat) {q : Nat} (hq : q < 8) : (BitVec.ofNat 8 (2 ^ p)).getLsbD q = decide (p = q) := by
  simp only [BitVec.getLsbD_ofNat, Nat.testBit_two_pow, hq, decide_true, Bool.true_and]

/-- A write to p1 to p7 sets or clears the bit of its mask. -/
theorem getLsbD_pSet {p q : Nat} (hp : p ≠ 0) (hq : q < 8) (b : Bool) :
    (pSet k p b).p.getLsbD q = if p = q then b else k.p.getLsbD q := by
  cases b with
  | false =>
    have hclear : (k.p &&& ~~~(BitVec.ofNat 8 (2 ^ p))).getLsbD q = (k.p.getLsbD q && !decide (p = q)) := by
      rw [BitVec.getLsbD_and, BitVec.getLsbD_not, getLsbD_pMask p hq, decide_eq_true hq, Bool.true_and]
    rw [pSet, if_neg hp]
    exact hclear.trans (by by_cases hpq : p = q <;> simp [hpq])
  | true =>
    have hset : (k.p ||| BitVec.ofNat 8 (2 ^ p)).getLsbD q = (k.p.getLsbD q || decide (p = q)) := by
      rw [BitVec.getLsbD_or, getLsbD_pMask p hq]
    rw [pSet, if_neg hp]
    exact hset.trans (by by_cases hpq : p = q <;> simp [hpq])

theorem pGet_pSet_same {p : Nat} (hp : p ≠ 0) (hlt : p < 8) (b : Bool) : pGet (pSet k p b) p = b := by
  simp [pGet_of_ne_zero _ hp, getLsbD_pSet k hp hlt]

theorem pGet_pSet_other {p q : Nat} (hq : q < 8) (hpq : p ≠ q) (b : Bool) : pGet (pSet k p b) q = pGet k q := by
  by_cases hp : p = 0
  · simp [hp]
  · simp [pGet, getLsbD_pSet k hp hq, hpq]

/-- Bit j of what `p.get` reads is predicate j; no other bit is set. -/
theorem getLsbD_predByte (j : Nat) : (predByte k).getLsbD j = (decide (j < 8) && pGet k j) := by
  cases j with
  | zero => rw [predByte, BitVec.getLsbD_ofNat, Nat.testBit_zero]; simp
  | succ i =>
    have hhalf : (k.p.toNat / 2 * 2 + 1) / 2 = k.p.toNat / 2 := by omega
    rw [predByte, BitVec.getLsbD_ofNat, Nat.testBit_succ, hhalf, ← Nat.testBit_succ, BitVec.testBit_toNat,
      pGet_of_ne_zero k i.succ_ne_zero]
    by_cases hi : i + 1 < 8
    · rw [decide_eq_true hi, decide_eq_true (by omega)]
    · rw [BitVec.getLsbD_of_ge _ _ (by omega), Bool.and_false, Bool.and_false]

/-- `p.put` gives predicate j, 1 to 7, bit j of its source. -/
theorem pGet_predPut (a : W64) {j : Nat} (hpos : 1 ≤ j) (hlt : j < 8) : pGet (predPut k a) j = a.getLsbD j := by
  obtain ⟨i, rfl⟩ : ∃ i, j = i + 1 := ⟨j - 1, by omega⟩
  have hhalf : a.toNat / 2 * 2 / 2 = a.toNat / 2 := by omega
  rw [pGet_of_ne_zero _ i.succ_ne_zero, predPut, BitVec.getLsbD_ofNat, decide_eq_true hlt, Bool.true_and,
    Nat.testBit_succ, hhalf, ← Nat.testBit_succ, BitVec.testBit_toNat]

end Registers

/-- The hardwired registers g0 and p0, and the frame of a register write. -/
theorem hardwiredRegisters : Claims.HardwiredRegisters := fun k v b =>
  ⟨gGet_zero _, gSet_zero k v, pGet_zero _, pSet_zero k b, fun _ hr => gGet_gSet_same k hr v,
    fun _ _ hrq => gGet_gSet_other k hrq v, rfl, rfl, rfl, rfl, fun _ hp hlt => pGet_pSet_same k hp hlt b,
    fun _ _ _ hq hpq => pGet_pSet_other k hq hpq b⟩

/-! ## Counts (Table 6.4) -/

theorem clz64_le (a : W64) : clz64 a ≤ 64 := by
  unfold clz64
  split
  · exact Nat.le_refl _
  · omega

/-- The highest set bit of a value stands below its leading zeros. -/
theorem clz64_of_ne_zero {a : W64} (ha : a ≠ 0) : clz64 a = 63 - a.toNat.log2 ∧ a.toNat.log2 < 64 := by
  have hne : a.toNat ≠ 0 := fun h => ha (BitVec.eq_of_toNat_eq h)
  exact ⟨if_neg ha, (Nat.log2_lt hne).mpr a.isLt⟩

theorem getLsbD_leading_zero (a : W64) {i : Nat} (hi : 64 - clz64 a ≤ i) : a.getLsbD i = false := by
  by_cases ha : a = 0
  · simp [ha]
  · obtain ⟨hclz, hlog⟩ := clz64_of_ne_zero ha
    have habove : a.toNat.log2 < i := by omega
    exact Nat.testBit_lt_two_pow (Nat.lt_of_lt_of_le Nat.lt_log2_self (Nat.pow_le_pow_right (by decide) habove))

theorem getLsbD_after_leading_zeros (a : W64) (hlt : clz64 a < 64) : a.getLsbD (63 - clz64 a) = true := by
  have ha : a ≠ 0 := fun h => by simp [clz64, h] at hlt
  obtain ⟨hclz, hlog⟩ := clz64_of_ne_zero ha
  have htop : 63 - clz64 a = a.toNat.log2 := by omega
  rw [htop]
  exact Nat.testBit_log2 fun h => ha (BitVec.eq_of_toNat_eq h)

/-- The scan for trailing zeros stops at the first set bit, or when its bound is used up. -/
theorem ctzAux_first_set_bit (fuel x k : Nat) :
    ∃ j, ctzAux fuel x k = k + j ∧ j ≤ fuel ∧ (∀ i, i < j → x.testBit i = false) ∧ (j < fuel → x.testBit j = true) := by
  induction fuel generalizing x k with
  | zero => exact ⟨0, rfl, Nat.le_refl _, by simp, by simp⟩
  | succ fuel ih =>
    by_cases hodd : x % 2 = 1
    · exact ⟨0, by simp [ctzAux, hodd], Nat.zero_le _, by simp, fun _ => by simp [hodd]⟩
    · obtain ⟨j, hj, hle, hbelow, hset⟩ := ih (x / 2) (k + 1)
      refine ⟨j + 1, by rw [ctzAux, if_neg hodd, hj]; omega, by omega, fun i hi => ?_, fun hlt => ?_⟩
      · cases i with
        | zero => simp [hodd]
        | succ i => rw [Nat.testBit_succ]; exact hbelow i (by omega)
      · rw [Nat.testBit_succ]; exact hset (by omega)

theorem ctz64_first_set_bit (a : W64) :
    ctz64 a ≤ 64 ∧ (∀ i, i < ctz64 a → a.getLsbD i = false) ∧ (ctz64 a < 64 → a.getLsbD (ctz64 a) = true) := by
  obtain ⟨j, hj, hspec⟩ := ctzAux_first_set_bit 64 a.toNat 0
  obtain rfl : ctz64 a = j := by rw [ctz64, hj, Nat.zero_add]
  exact hspec

theorem popcount_eq_length_filter (n x : Nat) : popcount n x = ((List.range n).filter (fun i => x.testBit i)).length := by
  induction n generalizing x with
  | zero => rfl
  | succ n ih =>
    have htail : (((List.range n).map Nat.succ).filter (fun i => x.testBit i)).length = popcount n (x / 2) := by
      simp [ih, List.filter_map, Function.comp_def, Nat.testBit_succ]
    rw [popcount, List.range_succ_eq_map, List.filter_cons, ← htail, Nat.testBit_zero]
    rcases Nat.mod_two_eq_zero_or_one x with h | h
    · simp [h]
    · simp [h, Nat.add_comm]

/-! ## Comparisons -/

theorem aluCmp_sle (a b : W64) : aluCmp 0x24 a b = a.sle b := BitVec.sle_eq_not_slt.symm
theorem aluCmp_ule (a b : W64) : aluCmp 0x25 a b = a.ule b := (BitVec.ule_eq_not_ult a b).symm

/-! ## The immediate (R238) -/

theorem iImm32_lt (w : W64) : iImm32 w < 2 ^ 32 := Nat.mod_lt _ (by decide)

theorem testBit_iImm32 (w : W64) (i : Nat) : (iImm32 w).testBit i = (decide (i < 32) && w.getLsbD i) := by
  rw [iImm32, fld, Nat.testBit_mod_two_pow, Nat.shiftRight_zero, BitVec.testBit_toNat]

theorem testBit_fld_low48 (w : W64) (i : Nat) : (fld w 47 0).testBit i = (decide (i < 48) && w.getLsbD i) := by
  rw [fld, Nat.testBit_mod_two_pow, Nat.shiftRight_zero, BitVec.testBit_toNat]

/-- IMM placed above the low half of a value, as `li.hi` joins them. -/
theorem ofNat_mul_add_eq_append {n : Nat} (hn : n < 2 ^ 32) (a : W64) :
    BitVec.ofNat 64 (n * 2 ^ 32 + a.toNat % 2 ^ 32) = BitVec.ofNat 32 n ++ a.setWidth 32 := by
  apply BitVec.eq_of_toNat_eq
  have hlow : a.toNat % 2 ^ 32 < 2 ^ 32 := Nat.mod_lt _ (by decide)
  rw [BitVec.toNat_append, BitVec.toNat_ofNat, BitVec.toNat_ofNat, BitVec.toNat_setWidth, Nat.mod_eq_of_lt hn,
    ← Nat.shiftLeft_add_eq_or_of_lt hlow, Nat.shiftLeft_eq, Nat.mod_eq_of_lt (by omega)]

/-- R230: a word that sets a bit its operation does not use is illegal. -/
theorem wordOk_of_reserved_bit {w : W64} {m i : Nat} (hm : usedBits w = some m) (hset : w.getLsbD i = true) (hi : i < 48)
    (hreserved : (0xFFFFFFFFFFFF - m).testBit i = true) : wordOk w = false := by
  have hbit : ((fld w 47 0) &&& (0xFFFFFFFFFFFF - m)).testBit i = true := by
    rw [Nat.testBit_and, testBit_fld_low48, hset, hreserved]; simp [hi]
  have hne : (fld w 47 0) &&& (0xFFFFFFFFFFFF - m) ≠ 0 := fun h => by simp [h] at hbit
  simp [wordOk, hm, hne]

theorem usedBits_shift_immediate {w : W64} (hc : iClass w = 1) (hop : inRange 6 8 (iOp w) = true) :
    usedBits w = some (mOr [mGD, mGA, 0x3F]) := by
  simp only [inRange, Bool.and_eq_true, decide_eq_true_eq] at hop
  have hused : usedBits w = used1 (iOp w) := by simp only [usedBits, hc]
  rw [hused, used1, if_neg (by omega), if_pos hop]

/-- The bits of IMM that a shift reserves: [31:6]. -/
theorem testBit_shift_reserved : ∀ i, i < 32 → 6 ≤ i → (0xFFFFFFFFFFFF - mOr [mGD, mGA, 0x3F]).testBit i = true := by decide

theorem wordOk_shift_immediate_high {w : W64} (hc : iClass w = 1) (hop : inRange 6 8 (iOp w) = true) (himm : 64 ≤ iImm32 w) :
    wordOk w = false := by
  obtain ⟨i, hi6, hbit⟩ := Nat.exists_ge_and_testBit_of_ge_two_pow (n := 6) himm
  rw [testBit_iImm32, Bool.and_eq_true, decide_eq_true_eq] at hbit
  obtain ⟨hi32, hset⟩ := hbit
  exact wordOk_of_reserved_bit (usedBits_shift_immediate hc hop) hset (by omega) (testBit_shift_reserved i hi32 hi6)

/-! ## What each row leaves of an instruction that issues (R234)

The operation stands by its number, so that on a numeral the function of the row computes to the operation's own. -/

section Rows
variable {s : State} {h : Nat} {t : Hart} {k : Core} {x : Ctx} {w : W64}

/-- R234: a scalar row carries out an instruction of its class with an operation that it accepts, and the core goes on behind it. -/
theorem scalar_retires {c op : Nat} {ok : Nat → Bool} (hi : Claims.Issues s h t k x c w) (ho : iOp w = op) (hok : ok op = true)
    (f : Core → W64 → Core) : (.next (scalar s h c ok f) : Out) = .next (setHartCore s t (retire (f k w))) :=
  congrArg Host.Outcome.next (scalar_issues hi (ho ▸ hok) f)

theorem exec_add_issues (op : Nat) (hi : Claims.Issues s h t k x 0 w) (hok : inRange 0 5 op = true) (ho : iOp w = op) :
    exec (.add h) s = .next (setHartCore s t (retire (gSet k (iGD w) (alu2 op (gGet k (iGA w)) (gGet k (iGB w)))))) := by
  subst ho
  exact scalar_retires hi rfl hok _

theorem exec_shift_issues (op : Nat) (hi : Claims.Issues s h t k x 0 w) (hok : inRange 6 8 op = true) (ho : iOp w = op) :
    exec (.shift h) s = .next (setHartCore s t (retire (gSet k (iGD w) (aluShift op (gGet k (iGA w)) (gGet k (iGB w)).toNat)))) := by
  subst ho
  exact scalar_retires hi rfl hok _

theorem exec_mul_issues (op : Nat) (hi : Claims.Issues s h t k x 0 w) (hok : inRange 9 0xB op = true) (ho : iOp w = op) :
    exec (.mul h) s = .next (setHartCore s t (retire (gSet k (iGD w) (aluMul op (gGet k (iGA w)) (gGet k (iGB w)))))) := by
  subst ho
  exact scalar_retires hi rfl hok _

theorem exec_div_issues (op : Nat) (hi : Claims.Issues s h t k x 0 w) (hok : inRange 0xC 0xF op = true) (ho : iOp w = op) :
    exec (.div h) s = .next (setHartCore s t (retire (gSet k (iGD w) (aluDiv op (gGet k (iGA w)) (gGet k (iGB w)))))) := by
  subst ho
  exact scalar_retires hi rfl hok _

theorem exec_min_issues (op : Nat) (hi : Claims.Issues s h t k x 0 w) (hok : inRange 0x10 0x13 op = true) (ho : iOp w = op) :
    exec (.min h) s = .next (setHartCore s t (retire (gSet k (iGD w) (aluMin op (gGet k (iGA w)) (gGet k (iGB w)))))) := by
  subst ho
  exact scalar_retires hi rfl hok _

theorem exec_slt_issues (op : Nat) (hi : Claims.Issues s h t k x 0 w) (hok : inRange 0x14 0x15 op = true) (ho : iOp w = op) :
    exec (.slt h) s = .next (setHartCore s t (retire (gSet k (iGD w) (aluSlt op (gGet k (iGA w)) (gGet k (iGB w)))))) := by
  subst ho
  exact scalar_retires hi rfl hok _

theorem exec_sel_issues (hi : Claims.Issues s h t k x 0 w) (ho : iOp w = 0x16) :
    exec (.sel h) s = .next (setHartCore s t (retire (gSet k (iGD w) (if pGet k (iPS w) then gGet k (iGA w) else gGet k (iGB w))))) :=
  scalar_retires hi ho rfl _

theorem exec_clz_issues (op : Nat) (hi : Claims.Issues s h t k x 0 w) (hok : inRange 0x18 0x1A op = true) (ho : iOp w = op) :
    exec (.clz h) s = .next (setHartCore s t (retire (gSet k (iGD w) (aluClz op (gGet k (iGA w)))))) := by
  subst ho
  exact scalar_retires hi rfl hok _

theorem exec_pCmp_issues (op : Nat) (hi : Claims.Issues s h t k x 0 w) (hok : inRange 0x20 0x25 op = true) (ho : iOp w = op) :
    exec (.pCmp h) s = .next (setHartCore s t (retire (pSet k (iGD w % 8) (aluCmp op (gGet k (iGA w)) (gGet k (iGB w)))))) := by
  subst ho
  exact scalar_retires hi rfl hok _

theorem exec_pAnd_issues (op : Nat) (hi : Claims.Issues s h t k x 0 w) (hok : inRange 0x28 0x2B op = true) (ho : iOp w = op) :
    exec (.pAnd h) s = .next (setHartCore s t (retire (pSet k (iGD w % 8) (predOp op (pGet k (iGA w % 8)) (pGet k (iGB w % 8)))))) := by
  subst ho
  exact scalar_retires hi rfl hok _

theorem exec_pGet_issues (hi : Claims.Issues s h t k x 0 w) (ho : iOp w = 0x2C) :
    exec (.pGet h) s = .next (setHartCore s t (retire (gSet k (iGD w) (predByte k)))) :=
  scalar_retires hi ho rfl _

theorem exec_pPut_issues (hi : Claims.Issues s h t k x 0 w) (ho : iOp w = 0x2D) :
    exec (.pPut h) s = .next (setHartCore s t (retire (predPut k (gGet k (iGA w))))) :=
  scalar_retires hi ho rfl _

theorem exec_addi_issues (op : Nat) (hi : Claims.Issues s h t k x 1 w) (hok : (op == 0 || inRange 2 4 op) = true) (ho : iOp w = op) :
    exec (.addi h) s = .next (setHartCore s t (retire (gSet k (iGD w)
      (alu2 op (gGet k (iGA w)) (if op = 0 then sext 32 (iImm32 w) else BitVec.ofNat 64 (iImm32 w)))))) := by
  subst ho
  exact scalar_retires hi rfl hok _

theorem exec_shli_issues (op : Nat) (hi : Claims.Issues s h t k x 1 w) (hok : inRange 6 8 op = true) (ho : iOp w = op) :
    exec (.shli h) s = .next (setHartCore s t (retire (gSet k (iGD w) (aluShift op (gGet k (iGA w)) (iImm32 w))))) := by
  subst ho
  exact scalar_retires hi rfl hok _

theorem exec_muli_issues (hi : Claims.Issues s h t k x 1 w) (ho : iOp w = 0x09) :
    exec (.muli h) s = .next (setHartCore s t (retire (gSet k (iGD w) (gGet k (iGA w) * sext 32 (iImm32 w))))) :=
  scalar_retires hi ho rfl _

theorem exec_slti_issues (op : Nat) (hi : Claims.Issues s h t k x 1 w) (hok : inRange 0x14 0x15 op = true) (ho : iOp w = op) :
    exec (.slti h) s = .next (setHartCore s t (retire (gSet k (iGD w) (aluSlt op (gGet k (iGA w)) (sext 32 (iImm32 w)))))) := by
  subst ho
  exact scalar_retires hi rfl hok _

theorem exec_pCmpi_issues (op : Nat) (hi : Claims.Issues s h t k x 1 w) (hok : inRange 0x20 0x25 op = true) (ho : iOp w = op) :
    exec (.pCmpi h) s = .next (setHartCore s t (retire (pSet k (iGD w % 8) (aluCmp op (gGet k (iGA w)) (sext 32 (iImm32 w)))))) := by
  subst ho
  exact scalar_retires hi rfl hok _

theorem exec_li_issues (hi : Claims.Issues s h t k x 1 w) (ho : iOp w = 0x30) :
    exec (.li h) s = .next (setHartCore s t (retire (gSet k (iGD w) (sext 32 (iImm32 w))))) :=
  scalar_retires hi ho rfl _

theorem exec_liHi_issues (hi : Claims.Issues s h t k x 1 w) (ho : iOp w = 0x31) :
    exec (.liHi h) s = .next (setHartCore s t (retire (gSet k (iGD w) (BitVec.ofNat 32 (iImm32 w) ++ (gGet k (iGA w)).setWidth 32)))) := by
  rw [← ofNat_mul_add_eq_append (iImm32_lt w)]
  exact scalar_retires hi ho rfl _

end Rows

/-! ## O5: class 0x0 -/

theorem scalarAluResults : Claims.ScalarAluResults := fun _ _ _ _ _ _ hi =>
  ⟨exec_add_issues 0x00 hi rfl, exec_add_issues 0x01 hi rfl, exec_add_issues 0x02 hi rfl,
    exec_add_issues 0x03 hi rfl, exec_add_issues 0x04 hi rfl, exec_add_issues 0x05 hi rfl,
    exec_shift_issues 0x06 hi rfl, exec_shift_issues 0x07 hi rfl, exec_shift_issues 0x08 hi rfl,
    exec_mul_issues 0x09 hi rfl, exec_mul_issues 0x0A hi rfl, exec_mul_issues 0x0B hi rfl,
    exec_div_issues 0x0C hi rfl, exec_div_issues 0x0D hi rfl, exec_div_issues 0x0E hi rfl,
    exec_div_issues 0x0F hi rfl,
    exec_min_issues 0x10 hi rfl, exec_min_issues 0x11 hi rfl, exec_min_issues 0x12 hi rfl,
    exec_min_issues 0x13 hi rfl,
    exec_slt_issues 0x14 hi rfl, exec_slt_issues 0x15 hi rfl, exec_sel_issues hi⟩

/-- The operation picks the count; the two clauses about the other counts do not apply to it. -/
theorem scalarCountResults : Claims.ScalarCountResults := by
  intro s h t k x w hi hop
  have hcases : iOp w = 0x18 ∨ iOp w = 0x19 ∨ iOp w = 0x1A := by
    simp only [inRange, Bool.and_eq_true, decide_eq_true_eq] at hop
    omega
  rcases hcases with ho | ho | ho
  · refine ⟨clz64 (gGet k (iGA w)), exec_clz_issues 0x18 hi rfl ho, fun _ => ?_, by simp [ho], by simp [ho]⟩
    exact ⟨clz64_le _, fun _ => getLsbD_leading_zero _, getLsbD_after_leading_zeros _⟩
  · exact ⟨ctz64 (gGet k (iGA w)), exec_clz_issues 0x19 hi rfl ho, by simp [ho], fun _ => ctz64_first_set_bit _, by simp [ho]⟩
  · exact ⟨popcount 64 (gGet k (iGA w)).toNat, exec_clz_issues 0x1A hi rfl ho, by simp [ho], by simp [ho],
      fun _ => popcount_eq_length_filter 64 _⟩

theorem predicateResults : Claims.PredicateResults := by
  intro s h t k x w hi
  refine ⟨exec_pCmp_issues 0x20 hi rfl, exec_pCmp_issues 0x21 hi rfl, exec_pCmp_issues 0x22 hi rfl,
    exec_pCmp_issues 0x23 hi rfl, ?sle, ?ule,
    exec_pAnd_issues 0x28 hi rfl, exec_pAnd_issues 0x29 hi rfl, exec_pAnd_issues 0x2A hi rfl,
    exec_pAnd_issues 0x2B hi rfl,
    fun ho => ⟨predByte k, exec_pGet_issues hi ho, getLsbD_predByte k⟩,
    fun ho => ⟨(predPut k (gGet k (iGA w))).p, exec_pPut_issues hi ho, fun _ => pGet_predPut k _⟩⟩
  case sle => simpa only [aluCmp_sle] using exec_pCmp_issues 0x24 hi rfl
  case ule => simpa only [aluCmp_ule] using exec_pCmp_issues 0x25 hi rfl

/-- Settles O5: the rows of class 0x0, each with the function of its operation, and the registers that hold a constant. -/
theorem scalarClass0Results : Obligations.ScalarClass0Results :=
  ⟨scalarAluResults, scalarCountResults, predicateResults, hardwiredRegisters⟩

/-! ## O6: class 0x1 -/

/-- Settles O6: the rows of class 0x1, each with its extension of IMM, and the bits of IMM that a shift reserves. -/
theorem scalarImmediateResults : Obligations.ScalarImmediateResults := by
  intro s h t k x w hi
  refine ⟨exec_addi_issues 0x00 hi rfl, exec_addi_issues 0x02 hi rfl, exec_addi_issues 0x03 hi rfl,
    exec_addi_issues 0x04 hi rfl, exec_shli_issues 0x06 hi rfl, exec_shli_issues 0x07 hi rfl,
    exec_shli_issues 0x08 hi rfl, exec_muli_issues hi, exec_slti_issues 0x14 hi rfl,
    exec_slti_issues 0x15 hi rfl, exec_li_issues hi, exec_liHi_issues hi,
    exec_pCmpi_issues 0x20 hi rfl, exec_pCmpi_issues 0x21 hi rfl, exec_pCmpi_issues 0x22 hi rfl,
    exec_pCmpi_issues 0x23 hi rfl, ?sle, ?ule, fun v => wordOk_shift_immediate_high⟩
  case sle => simpa only [aluCmp_sle] using exec_pCmpi_issues 0x24 hi rfl
  case ule => simpa only [aluCmp_ule] using exec_pCmpi_issues 0x25 hi rfl

end Sys2Proof.Machine
end
